-- ==== Sys2Proof/Word.lean ====
section
/-! DEFINITION. The words of the TD9: lanes of 32 bits, scalars of 64 bits, bytes (R4, R5, R46). -/
namespace Sys2Proof

/-- A lane value of a vector register, and one of the 32 words of a line (R71, R197). -/
abbrev W32 := BitVec 32
/-- A scalar register, an instruction word, a command word (R46, R71, R311). -/
abbrev W64 := BitVec 64
/-- The smallest addressable unit (R5). -/
abbrev Byte := BitVec 8

end Sys2Proof
end

