-- ==== Sys2Proof/Syntax.lean ====
section
/-! DEFINITION. The syntax of every row of the table of operations and events: one constructor of `Instr` per row
(184 full-format instructions, the 31 pair halves of R66, the clause header of R56 and the 97 events of the device,
the host, the fabric and the management subsystem). -/
namespace Sys2Proof

/-- An operand specifier of R51. -/
inductive Opnd where
  | v (n : Nat) | s (n : Nat) | zero | lane | ones | group | item
  deriving DecidableEq, Repr, Inhabited

/-- A number of a scalar register: s0 to s383 in scalar class (R52), s0 to s127 elsewhere (R51). -/
abbrev SReg := Nat
/-- A number of a vector register named plainly (R268 to R270, R290). -/
abbrev VNum := Nat

/-- The fields every full-format word has (R47): the guard, the give-way hint, the issue gap and the kill bits. `fb` is
MOD[7] of a class-L word, which chooses SETA or SETB (R49); it is false in every other class. -/
structure Ctl where
  pg : BitVec 3
  pn : Bool
  yld : Bool
  gap : BitVec 3
  ka : Bool
  kb : Bool
  kc : Bool
  fb : Bool
  deriving DecidableEq, Repr, Inhabited

/-- The fields of a pair half (R63). -/
structure Half where
  da : Opnd
  sb : Opnd
  pg : BitVec 3
  pn : Bool
  ka : Bool
  kb : Bool
  deriving DecidableEq, Repr, Inhabited

/-- Signed (.i32, .i64) or natural (.n32, .n64) reading of an integer (R109). -/
inductive IntTy where | i | n
  deriving DecidableEq, Repr, Inhabited
/-- Integer comparison (R109). -/
inductive Cmp where | eq | ne | lt | le | gt | ge
  deriving DecidableEq, Repr, Inhabited
/-- Floating comparison (R158). -/
inductive FCmp where | eq | ne | lt | le | gt | ge | num | nan
  deriving DecidableEq, Repr, Inhabited
/-- How a comparison joins the predicate (R122). -/
inductive Comb where | set | and | or | xor
  deriving DecidableEq, Repr, Inhabited
/-- Rounding mode (R96). -/
inductive Rm where | rn | rz | ru | rd
  deriving DecidableEq, Repr, Inhabited
/-- Overflow policy of a conversion (R99). -/
inductive Pol where | sat | inf | nan | trap
  deriving DecidableEq, Repr, Inhabited
/-- The sixteen element formats, in the order of their codes (R89). -/
inductive Fmt where
  | f32 | f19 | f16 | b16 | e5m2 | e4m3 | e3m4 | lg8 | i8 | n8 | e2m1 | e1m2 | i4 | n4 | i2 | t2
  deriving DecidableEq, Repr, Inhabited
/-- The types of CVT (R163). -/
inductive CvtTy where | el (f : Fmt) | i32 | n32 | i64 | n64
  deriving DecidableEq, Repr, Inhabited
/-- Formats of FCLASS (R155). -/
inductive ClassFmt where | f32 | f16 | b16
  deriving DecidableEq, Repr, Inhabited
/-- Modes of MOVI (R119). -/
inductive MoviMode where | const (imm : BitVec 24) | ins (a : Opnd) (imm : BitVec 16)
  deriving DecidableEq, Repr, Inhabited
/-- Modes of SMOVI (R135). -/
inductive SmoviMode where | const (imm : BitVec 24) | ins (a : SReg) (imm : BitVec 16)
  deriving DecidableEq, Repr, Inhabited
/-- Modes of SHFL (R127). -/
inductive ShflMode where | idx | up | down | xor
  deriving DecidableEq, Repr, Inhabited
/-- Segment lengths of SHFL (R109). -/
inductive ShflSeg where | seg32 | seg16 | seg8 | seg4 | seg2
  deriving DecidableEq, Repr, Inhabited
/-- A destination that is a predicate p0 to p6, or a register (R128, R130). -/
inductive PDst where | pred (p : BitVec 3) | reg (o : Opnd)
  deriving DecidableEq, Repr, Inhabited
/-- Modes of CENSUS (R128). -/
inductive CensusMode where | any | all | same | mask | count
  deriving DecidableEq, Repr, Inhabited
/-- Operations of GRED (R129). -/
inductive GredOp where | add | min | max | and | or | xor
  deriving DecidableEq, Repr, Inhabited
/-- Types of GRED (R109). -/
inductive GredTy where | i32 | n32 | f32
  deriving DecidableEq, Repr, Inhabited
/-- Sizes of a memory access (R225). -/
inductive Size where | b32 | b64 | b128 | b8 | b16
  deriving DecidableEq, Repr, Inhabited
/-- Replacement hints (R182). -/
inductive Hint where | n | ef | el
  deriving DecidableEq, Repr, Inhabited
/-- Scopes, in the order of their codes (R189, R221). -/
inductive Scope where | sys | dev | die | clu | team | grp | thr
  deriving DecidableEq, Repr, Inhabited
/-- Orders, in the order of their codes (R221). -/
inductive Ord4 where | rlx | acq | rel | ar
  deriving DecidableEq, Repr, Inhabited
/-- Full/empty modes of LDS (R227). -/
inductive FeMode where | plain | fe | fec
  deriving DecidableEq, Repr, Inhabited
/-- Operations of the atomics, in the order of their codes (R230). -/
inductive AtomOp where
  | add | minI | maxI | minN | maxN | and | or | xor | exch | cas | addF | minF | maxF
  deriving DecidableEq, Repr, Inhabited
/-- Operations of CPYRED (R240). -/
inductive CpyRedOp where | addF | addI | minF | maxF | minI | maxI
  deriving DecidableEq, Repr, Inhabited

/-- A fabric PUT: SEND data (R389). -/
structure PutMsg where
  seq : Nat
  ctx : Nat
  va : Nat
  bytes : List Byte
  posted : Bool
  rel : Bool
  deriving DecidableEq, Repr, Inhabited
/-- A fabric GETREQ: FGET address and length (R389). -/
structure GetMsg where
  seq : Nat
  ctx : Nat
  va : Nat
  len : Nat
  acq : Bool
  deriving DecidableEq, Repr, Inhabited
/-- A template as the package that receives a team of it fetches it from its master die (R298, R323): its registers, predicates,
masks and entry as a save area (R377), its ranges' bytes, its other fields. -/
structure TmplMsg where
  id : Nat
  die : Nat
  area : List Byte
  ranges : List (Nat × Nat)
  bytes : List (Nat × Byte)
  fe : List Nat
  xreg : Nat
  xbase : W32
  xstride : W32
  xu : Bool
  lanes : W32
  depth : Nat
  dropped : Bool
  deriving DecidableEq, Repr, Inhabited
/-- A non-empty spawn bin of a packed team: entry, whether of the team's template, argument words, threads (R303, R323). -/
structure BinMsg where
  entry : Nat
  tmpl : Bool
  n : Nat
  threads : List (List W32)
  deriving DecidableEq, Repr, Inhabited
/-- What the receiver of a team reads at the team's origin before the team starts, which is no part of the message (R298, R323; log 74):
the launch record's descriptor, and the template. -/
structure Fetched where
  desc : List Byte := []
  tmpl : Option TmplMsg := none
  deriving DecidableEq, Repr, Inhabited
/-- A packed team (R323). The header: origin package, die and queue, launch record, index, the template's id and master die, part
lengths; a team that has not been admitted has nothing else. A suspended one has parts: rings as their counts, filled bits and phase
bits; barriers as E, A, generation and arrived groups; bins; its groups' save areas; live scratchpad bytes, full granules, blocks that
travel as references. `fetch` is what the receiver reads for itself: nothing, in a message that this package sends. -/
structure TeamMsg where
  seq : Nat
  pkg : Nat := 0
  die : Nat := 0
  queue : Nat
  launch : Nat
  index : Nat
  tmpl : Option (Nat × Nat) := none
  fetch : Fetched := {}
  lens : List Nat := []
  rings : List (List Nat) := []
  barriers : List (List Nat) := []
  bins : List BinMsg := []
  groups : List (List Byte) := []
  scratch : List (Nat × Byte) := []
  fe : List Nat := []
  blocks : List (Nat × Nat) := []
  deriving DecidableEq, Repr, Inhabited
/-- A beacon (R322). -/
structure BeaconMsg where
  teams : Nat
  slots : Nat
  scratch : Nat
  deriving DecidableEq, Repr, Inhabited

/-- What the management processor reads beside the temperatures: a voltage monitor on every rail, process monitors of the dies (R394). -/
structure Monitors where
  rails : List Nat := []
  process : List Nat := []
  deriving DecidableEq, Repr, Inhabited
/-- A power-cap request: through the mailbox or on the I3C port, in watts (R393, R397). -/
inductive CapReq where | mailbox (watts : Nat) | i3c (watts : Nat)
  deriving DecidableEq, Repr, Inhabited
/-- What a flit with a bad CRC comes to on a die link: it is sent again; the link is retrained, and lanes that fail at it are replaced from
the spare lanes; or the retraining fails (R387). -/
inductive LinkOutcome where | retry | trained (bad : List Nat) | failed
  deriving DecidableEq, Repr, Inhabited

/-- Every row of the table of operations and events. -/
inductive Instr where
  -- full-format instructions (R67)
  | nop (c : Ctl)
  | iaddRegisters (c : Ctl) (d a b : Opnd) (t : IntTy) (sat w : Bool)
  | iaddImmediate (c : Ctl) (d a : Opnd) (imm : BitVec 17) (t : IntTy) (sat w : Bool)
  | isub (c : Ctl) (d a b : Opnd) (t : IntTy) (sat w : Bool)
  | imulRegisters (c : Ctl) (d a b : Opnd)
  | imulImmediate (c : Ctl) (d a : Opnd) (imm : BitVec 17)
  | imulh (c : Ctl) (d a b : Opnd) (t : IntTy)
  | imad (c : Ctl) (d a b e : Opnd)
  | imadw (c : Ctl) (d a b e : Opnd) (t : IntTy)
  | idiv (c : Ctl) (d a b : Opnd) (t : IntTy)
  | irem (c : Ctl) (d a b : Opnd) (t : IntTy)
  | imin (c : Ctl) (d a b : Opnd) (t : IntTy)
  | imax (c : Ctl) (d a b : Opnd) (t : IntTy)
  | iabs (c : Ctl) (d a : Opnd) (sat : Bool)
  | isad (c : Ctl) (d a b e : Opnd) (t : IntTy)
  | shlRegisters (c : Ctl) (d a b : Opnd)
  | shlImmediate (c : Ctl) (d a : Opnd) (n : BitVec 5)
  | shrRegisters (c : Ctl) (d a b : Opnd)
  | shrImmediate (c : Ctl) (d a : Opnd) (n : BitVec 5)
  | sraRegisters (c : Ctl) (d a b : Opnd)
  | sraImmediate (c : Ctl) (d a : Opnd) (n : BitVec 5)
  | shf (c : Ctl) (d a b e : Opnd) (right : Bool)
  | rot (c : Ctl) (d a b : Opnd) (right : Bool)
  | andRegisters (c : Ctl) (d a b : Opnd)
  | andImmediate (c : Ctl) (d a : Opnd) (imm : BitVec 17)
  | orRegisters (c : Ctl) (d a b : Opnd)
  | orImmediate (c : Ctl) (d a : Opnd) (imm : BitVec 17)
  | xorRegisters (c : Ctl) (d a b : Opnd)
  | xorImmediate (c : Ctl) (d a : Opnd) (imm : BitVec 17)
  | bool3 (c : Ctl) (d a b e : Opnd) (g0 g1 : BitVec 4)
  | popc (c : Ctl) (d a : Opnd)
  | clz (c : Ctl) (d a : Opnd)
  | ctz (c : Ctl) (d a : Opnd)
  | brev (c : Ctl) (d a : Opnd)
  | bfx (c : Ctl) (d a b e : Opnd) (t : IntTy)
  | bfi (c : Ctl) (d a b e : Opnd)
  | bshuf (c : Ctl) (d a b e : Opnd)
  | leaRegisters (c : Ctl) (d a b e : Opnd) (n : BitVec 5)
  | leaImmediate (c : Ctl) (d a : Opnd) (imm : BitVec 17) (n : BitVec 5)
  | mov (c : Ctl) (d a : Opnd) (w : Bool)
  | movi (c : Ctl) (d : Opnd) (m : MoviMode)
  | sel (c : Ctl) (d a b : Opnd) (p : BitVec 3) (neg w : Bool)
  | saddRegisters (c : Ctl) (d a b : SReg)
  | saddImmediate (c : Ctl) (d a : SReg) (imm : BitVec 17)
  | ssub (c : Ctl) (d a b : SReg)
  | smul (c : Ctl) (d a b : SReg)
  | smulh (c : Ctl) (d a b : SReg) (t : IntTy)
  | sandRegisters (c : Ctl) (d a b : SReg)
  | sandImmediate (c : Ctl) (d a : SReg) (imm : BitVec 17)
  | sor (c : Ctl) (d a b : SReg)
  | sxor (c : Ctl) (d a b : SReg)
  | sshlRegisters (c : Ctl) (d a b : SReg)
  | sshlImmediate (c : Ctl) (d a : SReg) (n : BitVec 6)
  | sshrRegisters (c : Ctl) (d a b : SReg)
  | sshrImmediate (c : Ctl) (d a : SReg) (n : BitVec 6)
  | ssra (c : Ctl) (d a b : SReg)
  | smin (c : Ctl) (d a b : SReg) (t : IntTy)
  | smax (c : Ctl) (d a b : SReg) (t : IntTy)
  | sset (c : Ctl) (d a b : SReg) (cmp : Cmp) (t : IntTy)
  | ssel (c : Ctl) (d a b : SReg) (all : Bool)
  | smov (c : Ctl) (d a : SReg)
  | smovi (c : Ctl) (d : SReg) (m : SmoviMode)
  | slea (c : Ctl) (d a b e : SReg) (n : BitVec 6)
  | isetRegisters (c : Ctl) (p : BitVec 3) (a b : Opnd) (cmp : Cmp) (t : IntTy) (comb : Comb)
  | isetImmediate (c : Ctl) (p : BitVec 3) (a : Opnd) (imm : BitVec 17) (cmp : Cmp) (t : IntTy) (comb : Comb)
  | plop (c : Ctl) (p pa pb : BitVec 3) (lut : BitVec 4)
  | p2v (c : Ctl) (d : Opnd)
  | v2p (c : Ctl) (a : Opnd) (mask : BitVec 7)
  | vshape (c : Ctl) (d a : Opnd)
  | vwiden (c : Ctl) (d a : Opnd)
  | shfl (c : Ctl) (d a b : Opnd) (mode : ShflMode) (seg : ShflSeg)
  | census (c : Ctl) (d : PDst) (mode : CensusMode) (q : BitVec 3) (neg : Bool)
  | gred (c : Ctl) (d a : Opnd) (op : GredOp) (ty : GredTy)
  | matchLanes (c : Ctl) (d : PDst) (a : Opnd) (w : Bool)
  | vbcast (c : Ctl) (d a b : Opnd)
  | vlane (c : Ctl) (d a b : Opnd)
  | bra (c : Ctl) (imm : BitVec 26)
  | brx (c : Ctl) (a : Opnd)
  | call (c : Ctl) (d : Opnd) (imm : BitVec 26)
  | callx (c : Ctl) (d a : Opnd)
  | ret (c : Ctl) (a : Opnd)
  | exit (c : Ctl)
  | jset (c : Ctl) (n : BitVec 4) (src : Option Opnd)
  | jarr (c : Ctl) (n : BitVec 4)
  | jdrop (c : Ctl) (n : BitVec 4)
  | jread (c : Ctl) (d : Opnd) (n : BitVec 4)
  | waitf (c : Ctl) (mask : BitVec 12)
  | sleep (c : Ctl) (a : Opnd)
  | faddRegisters (c : Ctl) (d a b : Opnd) (rm : Rm) (f19 : Bool)
  | faddImmediate (c : Ctl) (d a : Opnd) (imm : BitVec 17) (rm : Rm) (f19 : Bool)
  | fsub (c : Ctl) (d a b : Opnd) (rm : Rm) (f19 : Bool)
  | fmulRegisters (c : Ctl) (d a b : Opnd) (rm : Rm) (f19 : Bool)
  | fmulImmediate (c : Ctl) (d a : Opnd) (imm : BitVec 17) (rm : Rm) (f19 : Bool)
  | ffma (c : Ctl) (d a b e : Opnd) (rm : Rm) (f19 np nc : Bool)
  | fmin (c : Ctl) (d a b : Opnd)
  | fmax (c : Ctl) (d a b : Opnd)
  | fsetRegisters (c : Ctl) (p : BitVec 3) (a b : Opnd) (cmp : FCmp) (comb : Comb)
  | fsetImmediate (c : Ctl) (p : BitVec 3) (a : Opnd) (imm : BitVec 17) (cmp : FCmp) (comb : Comb)
  | fclass (c : Ctl) (d a : Opnd) (fmt : ClassFmt)
  | frnd (c : Ctl) (d a : Opnd) (rm : Rm)
  | fscale (c : Ctl) (d a b : Opnd) (rm : Rm)
  | frcp (c : Ctl) (d a : Opnd) (rm : Rm)
  | frsq (c : Ctl) (d a : Opnd)
  | fsqrt (c : Ctl) (d a : Opnd) (rm : Rm)
  | fexp2 (c : Ctl) (d a : Opnd)
  | flog2 (c : Ctl) (d a : Opnd)
  | fsin (c : Ctl) (d a : Opnd)
  | fcos (c : Ctl) (d a : Opnd)
  | ftanh (c : Ctl) (d a : Opnd)
  | hadd2 (c : Ctl) (d a b : Opnd) (rm : Rm) (b16 : Bool)
  | hsub2 (c : Ctl) (d a b : Opnd) (rm : Rm) (b16 : Bool)
  | hmul2 (c : Ctl) (d a b : Opnd) (rm : Rm) (b16 : Bool)
  | hfma2 (c : Ctl) (d a b e : Opnd) (rm : Rm) (b16 : Bool)
  | hmin2 (c : Ctl) (d a b : Opnd) (b16 : Bool)
  | hmax2 (c : Ctl) (d a b : Opnd) (b16 : Bool)
  | hset2 (c : Ctl) (d a b : Opnd) (cmp : FCmp) (b16 : Bool)
  | cvt (c : Ctl) (d a : Opnd) (dt st : CvtTy) (rm : Rm) (pol : Pol)
  | pack (c : Ctl) (d a b e : Opnd) (fmt : Fmt) (rm : Rm) (pol : Pol)
  | unpack (c : Ctl) (d a b : Opnd) (fmt : Fmt) (int : Bool)
  | dp2h (c : Ctl) (d a b e : Opnd) (fa fb : Fmt) (rm : Rm)
  | dp4 (c : Ctl) (d a b e : Opnd) (fa fb : Fmt) (rm : Rm)
  | dp8 (c : Ctl) (d a b e : Opnd) (fa fb : Fmt) (rm : Rm)
  | dp16 (c : Ctl) (d a b e : Opnd) (fa fb : Fmt) (rm : Rm)
  | ld (c : Ctl) (d a b : Opnd) (sz : Size) (sx : Bool) (hint : Hint) (is : Bool)
  | st (c : Ctl) (a b e : Opnd) (sz : Size) (hint : Hint) (is : Bool)
  | lda (c : Ctl) (d a b : Opnd) (w : Bool) (sc : Scope) (is : Bool)
  | strel (c : Ctl) (a b e : Opnd) (w : Bool) (sc : Scope) (lazy is : Bool)
  | lds (c : Ctl) (d a b : Opnd) (sz : Size) (sx : Bool) (fe : FeMode)
  | sts (c : Ctl) (a b e : Opnd) (sz : Size) (fe : Bool)
  | sld (c : Ctl) (d a : SReg) (b : Option SReg) (sz : Size) (sx : Bool) (hint : Hint)
  | sst (c : Ctl) (a : SReg) (b : Option SReg) (e : SReg) (sz : Size) (hint : Hint)
  | atom (c : Ctl) (d a e : Opnd) (op : AtomOp) (w : Bool) (sc : Scope) (ord : Ord4)
  | atoms (c : Ctl) (d a e : Opnd) (op : AtomOp) (w : Bool) (sc : Scope) (ord : Ord4)
  | red (c : Ctl) (a e : Opnd) (op : AtomOp) (w : Bool) (sc : Scope) (ord : Ord4)
  | fence (c : Ctl) (ord : Ord4) (sc : Scope)
  | publish (c : Ctl) (a b : Opnd) (is : Bool) (len : Option Opnd)
  | pref (c : Ctl) (a b : Opnd) (is : Bool) (len : Option Opnd) (l1 : Bool) (hint : Hint)
  | clean (c : Ctl) (a b : Opnd) (is : Bool) (len : Option Opnd)
  | inval (c : Ctl) (a b : Opnd) (is : Bool) (len : Option Opnd)
  | feset (c : Ctl) (a b e : Opnd)
  | feclr (c : Ctl) (a b e : Opnd)
  | fewait (c : Ctl) (a b e : Opnd) (empty : Bool)
  | tsrset (c : Ctl) (d a : Opnd) (k : BitVec 4)
  | cpyin (c : Ctl) (t k dsc : SReg)
  | cpyout (c : Ctl) (t k dsc : SReg)
  | cpyobG (c : Ctl) (t k ob : SReg)
  | cpyobS (c : Ctl) (a len : Opnd) (ob : SReg)
  | cpyobO (c : Ctl) (a len : Opnd) (ob : SReg)
  | cpyred (c : Ctl) (t k dsc : SReg) (op : CpyRedOp)
  | cpypf (c : Ctl) (t k : SReg) (hint : Hint)
  | cpycan (c : Ctl) (mask : BitVec 12)
  | obres (c : Ctl) (d : Opnd) (a : SReg)
  | obrel (c : Ctl) (a : Opnd)
  | obput (c : Ctl) (a : SReg) (b e : Opnd) (w128 : Bool)
  | obget (c : Ctl) (d : Opnd) (a : SReg) (b : Opnd) (w128 : Bool)
  | mzero (c : Ctl) (d : VNum) (a : SReg)
  | mready (c : Ctl) (a : VNum) (n : BitVec 9)
  | mloop (c : Ctl) (d : VNum) (k : BitVec 4)
  | freeze (c : Ctl) (d : Opnd) (x : VNum) (k : BitVec 4)
  | stamp (c : Ctl) (d a : Opnd) (b : SReg)
  | spawn (c : Ctl) (e : SReg) (v : Opnd) (n : BitVec 3) (t : Opnd)
  | tdrop (c : Ctl) (a : Opnd)
  | tinfo (c : Ctl) (d a : Opnd) (sel : BitVec 3)
  | barArv (c : Ctl) (n : BitVec 4)
  | barArr (c : Ctl) (n : BitVec 4)
  | barExp (c : Ctl) (d : Opnd) (n : BitVec 4) (a : Opnd)
  | racq (c : Ctl) (d : Opnd) (i : BitVec 3)
  | rpub (c : Ctl) (i : BitVec 3)
  | rtake (c : Ctl) (d : Opnd) (i : BitVec 3)
  | rdone (c : Ctl) (i : BitVec 3)
  | send (c : Ctl) (l k r : SReg) (posted rel : Bool)
  | fget (c : Ctl) (l k r : SReg) (acq : Bool)
  | dalloc (c : Ctl) (d a : Opnd)
  | dfree (c : Ctl) (a b : Opnd)
  | live (c : Ctl) (k : BitVec 12)
  | trap (c : Ctl) (imm : BitVec 17)
  | bkpt (c : Ctl) (imm : BitVec 17)
  | hcall (c : Ctl) (d : Opnd) (k : BitVec 4)
  | qsig (c : Ctl) (d : Opnd) (q : SReg) (k : BitVec 4)
  | srd (c : Ctl) (d : SReg) (n : BitVec 9)
  | swr (c : Ctl) (n : BitVec 9) (e : SReg)
  | ipf (c : Ctl) (a : SReg) (b : Opnd) (l1 : Bool)
  | ipin (c : Ctl) (a : SReg) (b : Opnd) (l1 : Bool)
  | iunpin (c : Ctl) (a : SReg) (b : Opnd) (l1 : Bool)
  -- pair halves (R66)
  | halfNopLow (h : Half)
  | halfIadd (h : Half)
  | halfIsub (h : Half)
  | halfImul (h : Half)
  | halfIminI32 (h : Half)
  | halfImaxI32 (h : Half)
  | halfIminN32 (h : Half)
  | halfImaxN32 (h : Half)
  | halfShl (h : Half)
  | halfShr (h : Half)
  | halfSra (h : Half)
  | halfAnd (h : Half)
  | halfOr (h : Half)
  | halfXor (h : Half)
  | halfMov (h : Half)
  | halfNopHigh (h : Half)
  | halfFadd (h : Half)
  | halfFsub (h : Half)
  | halfFmul (h : Half)
  | halfFmin (h : Half)
  | halfFmax (h : Half)
  | halfHadd2F16 (h : Half)
  | halfHsub2F16 (h : Half)
  | halfHmul2F16 (h : Half)
  | halfHmin2F16 (h : Half)
  | halfHmax2F16 (h : Half)
  | halfHadd2B16 (h : Half)
  | halfHsub2B16 (h : Half)
  | halfHmul2B16 (h : Half)
  | halfHmin2B16 (h : Half)
  | halfHmax2B16 (h : Half)
  -- the clause header (R56) and the events
  | clauseHeader (wait : BitVec 12) (seta setb : BitVec 4) (len : BitVec 5)
  | classLCompletion (core op : Nat)
  | sleepEnd (core slot lane : Nat)
  | registerSpill (core : Nat)
  | feGrant (core op : Nat)
  | operandLogReplay (core slot : Nat)
  | differenceRecord (rid : Nat)
  | forcedPublication (die sync : Nat)
  | hostWrite (pa : Nat) (bytes : List Byte)
  | doorbell (q : Nat) (index : BitVec 32)
  | queueEnable (q : Nat) (cfg : W64)
  | queueDrain (q : Nat)
  | drainComplete (q : Nat)
  | teardown (q : Nat)
  | reset (q : Nat)
  | registerWrite (off size : Nat) (value : W64)
  | launch (q : Nat)
  | signal (q : Nat)
  | waitv (q : Nat)
  | waitvPoll (q : Nat)
  | waittime (q : Nat)
  | order (q : Nat)
  | stampts (q : Nat)
  | qnop (q : Nat)
  | teamAdmission (launch : Nat)
  | preemptionRequest (launch : Nat)
  | preemptionDeadline (team : Nat)
  | teamRestore (team : Nat)
  | teamEnd (team : Nat)
  | teamRetirement (launch : Nat)
  | completionSignal (launch : Nat)
  | itemCreation (team : Nat)
  | scratchpadCopyFault (team core addr : Nat)
  | binTimerExpiry (core bin : Nat)
  | binLaunch (core bin : Nat)
  | copyCompletion (core op : Nat)
  | copyFault (core op : Nat)
  | matrixCommandStart (core op : Nat)
  | matrixCommandCompletion (core op : Nat)
  | matrixFault (core op : Nat)
  | reservationFree (core res : Nat)
  | ringGrant (core op : Nat)
  | barrierWatchdog (team bar : Nat)
  | ringWatchdog (core op : Nat)
  | feWatchdog (core op : Nat)
  | halt (ctx : Nat)
  | resume (ctx : Nat)
  | capsel (capid : W64)
  | contextTeardown (ctx : Nat) (word : W64)
  | contextTeardownDone (ctx : Nat)
  | contextValidate (ctx : Nat) (word : W64)
  | shootdown (ctl : W64)
  | shootdownDone
  | migrationWindowReset
  | pageMigration (die : Nat)
  | beaconTimer
  | put (port : Nat) (m : PutMsg)
  | getreq (port : Nat) (m : GetMsg)
  | getdata (port seq : Nat) (bytes : List Byte)
  | ack (port seq : Nat)
  | nack (port seq cause offset : Nat)
  | team (port : Nat) (m : TeamMsg)
  | teamend (port seq launch team : Nat)
  | beacon (src : Nat) (b : BeaconMsg)
  | unknownMessage (port code : Nat)
  | sendAckTimeout (port seq : Nat)
  | portDown (port : Nat)
  | dieLinkLoss (link : Nat)
  | pcieWindowRequest (off : Nat) (write : Bool)
  | auditReexecution (launch index core team : Nat)
  | auditThirdRun (launch index core team : Nat)
  | suspicionHalving
  | clusterSubstitution (die lcore : Nat)
  | scrub (pa : Nat) (uncorrectable : Bool)
  | bankDrop (stack bank : Nat) (ack : Bool)
  | restripeRegion (stack : Nat)
  | powerWindow (watts : Nat) (temps : List Nat) (monitors : Monitors)
  | fatalError (cause unit : Nat)
  | bringUp (failed : Option Nat)
  | warmReset
  | mailboxRequest (len : Nat) (reply : List Byte)
  | powerCap (req : CapReq)
  | firmwareUpdate (version : Nat) (signed : Bool)
  | getVersion (viaI3c : Bool)
  | getCapabilities (viaI3c : Bool)
  | negotiateAlgorithms (viaI3c : Bool)
  | getDigests (viaI3c : Bool)
  | getCertificate (viaI3c : Bool)
  | challenge (viaI3c : Bool) (nonce : BitVec 256)
  | getMeasurements (viaI3c : Bool) (index : Nat)
  | unsupportedRequest (viaI3c : Bool) (code : Nat)
  | i3cSensorRead (sensor : Nat) (log : Bool)
  | hostPreemption (team : Nat)
  | mainPowerLoss
  | linkLevelRetry (link : Nat) (outcome : LinkOutcome)
  | flitResend (port flits : Nat)
  | portRetrain (port : Nat)
  | spilledRegisterFetch (core slot reg : Nat)
  deriving DecidableEq, Repr, Inhabited

end Sys2Proof
end

