-- ==== Sys2Proof/Machine/Operands.lean ====
section
/-! DEFINITION. The operand forms of every instruction, as one table: what each position of a word may hold, which
registers it reads, writes and kills, and the word's latency class (R48 to R53, R67, R79, R86). Decoding, well-formedness,
the pending-bit rule, allocation and kills all read this table. -/
namespace Sys2Proof

/-- Latency classes (R67). -/
inductive Lat where | i | f | sf | s | l | c
  deriving DecidableEq, Repr, Inhabited

/-- What a source position may hold. `any`: any specifier of R51, 32 bits. `wide`: a 64-bit operand, even pair or scalar
or special (R53). `base`: an even pair or a scalar (R222, R140). `quad`: four registers from a multiple of 4 (R225).
`scal`: s0 to s127 alone (R238). `vec n`: n vector registers, named plainly. `un`: accepted but not read (R165). `ix`: a
vector register whose number alone counts, and whose value is not read (R290). -/
inductive SrcKind where | any | wide | base | quad | scal | vec (n : Nat) | un | ix
  deriving DecidableEq, Repr, Inhabited

/-- What a destination position may hold: a vector register or 448; also s0 to s127 (`vs`); not 448 (`vsN`); an even pair or
448 (`pair`); an even pair alone (`pairN`); a quad or 448; n accumulators (R247). -/
inductive DstKind where | v | vs | vsN | pair | pairN | quad | acc (n : Nat)
  deriving DecidableEq, Repr, Inhabited

/-- One instruction's operands. `sr`, `sw`: scalars read and written plainly (scalar class, blocks, coordinates). `ok`: the
entry's further static limits. -/
structure OpTab where
  ctl : Ctl := default
  lat : Lat := .i
  a : Option (SrcKind × Opnd) := none
  b : Option (SrcKind × Opnd) := none
  e : Option (SrcKind × Opnd) := none
  d : Option (DstKind × Opnd) := none
  sr : List Nat := []
  sw : List Nat := []
  pr : List (BitVec 3) := []
  ok : Bool := true
  deriving DecidableEq, Repr, Inhabited

/-- The eight scalars of a block s(8k) to s(8k + 7) (R237, R250, R290, R339). -/
def blockRegs (k : BitVec 4) : List Nat := (List.range 8).map (8 * k.toNat + ·)

/-- A 32- or 64-bit source, by the W modifier (R110). -/
def wk (w : Bool) : SrcKind := if w then .wide else .any
/-- A 32- or 64-bit destination. -/
def dk (w : Bool) : DstKind := if w then .pair else .v
/-- The data register of a store of this size (R225). -/
def Size.src : Size → SrcKind | .b64 => .wide | .b128 => .quad | _ => .any
/-- The destination of a load of this size. -/
def Size.dst : Size → DstKind | .b64 => .pair | .b128 => .quad | _ => .v
/-- SX is allowed only with .b8 and .b16 (R225). -/
def Size.sxOk (z : Size) (sx : Bool) : Bool := !sx || z == .b8 || z == .b16
/-- A CVT type held in a pair (R163). -/
def CvtTy.wide : CvtTy → Bool | .i64 => true | .n64 => true | _ => false
/-- The integer element formats (R89). -/
def Fmt.isInt : Fmt → Bool | .i8 | .n8 | .i4 | .n4 | .i2 => true | _ => false
/-- Width of an element's container in bits (R89). -/
def Fmt.width : Fmt → Nat
  | .f32 | .f19 => 32 | .f16 | .b16 => 16
  | .e5m2 | .e4m3 | .e3m4 | .lg8 | .i8 | .n8 => 8
  | .e2m1 | .e1m2 | .i4 | .n4 => 4 | .i2 | .t2 => 2
/-- Both formats of a dot product are of this width, and an INT32 accumulator takes .rn only (R167). -/
def dpOk (w : Nat) (fa fb : Fmt) (rm : Rm) : Bool :=
  fa.width == w && fb.width == w && (!(fa.isInt && fb.isInt) || rm == .rn)
/-- The value operand of an atomic (R229). -/
def atomSrc (op : AtomOp) (w : Bool) : SrcKind :=
  match op, w with | .cas, true => .quad | .cas, false => .wide | _, w => wk w
/-- .b64 has no float operation (R230). -/
def AtomOp.wOk (op : AtomOp) (w : Bool) : Bool := !w || !(op == .addF || op == .minF || op == .maxF)
/-- SRD's numbers (R342): the listed ones, and 0x100 to 0x1FF. -/
def srdOk (n : BitVec 9) : Bool := n.toNat ≤ 0x00C || (0x010 ≤ n.toNat && n.toNat ≤ 0x012) || 0x100 ≤ n.toNat
/-- Scalar-class specifiers are s0 to s383 (R52). -/
def scOk (l : List Nat) : Bool := l.all (· < 384)
/-- A template id is held in s0 to s127 or a vector register; 448 names the group's own (R297, R302). -/
def idOk : Opnd → Bool | .v _ | .s _ | .zero => true | _ => false
/-- A scalar operand named in a vector-class word (s0 to s127). -/
def sOp (n : Nat) : Option (SrcKind × Opnd) := some (.scal, .s n)

/-- The operands of a half (R63, R65): DA is the first source except in MOV. -/
def Half.tab (h : Half) (lc : Lat) (mov : Bool) : OpTab :=
  { ctl := { pg := h.pg, pn := h.pn, yld := false, gap := 0, ka := h.ka, kb := h.kb, kc := false, fb := false },
    lat := lc, a := if mov then none else some (.any, h.da), b := some (.any, h.sb), d := some (.v, h.da),
    ok := match h.da with | .v _ => true | _ => false }
/-- A no-operation half has DA = SB = 448, PG = 7, PN = KA = KB = 0 (R64). -/
def Half.nop (h : Half) (lc : Lat) : OpTab :=
  { ctl := { pg := 7, pn := false, yld := false, gap := 0, ka := false, kb := false, kc := false, fb := false },
    lat := lc, ok := h == { da := .zero, sb := .zero, pg := 7, pn := false, ka := false, kb := false } }

/-- The table. Events have no word and no row (R67 gives the classes; each entry's rule gives its operands). -/
def Instr.tab : Instr → Option OpTab
  | .nop c => some { ctl := c, lat := .i }
  | .iaddRegisters c d a b _ sat w => some { ctl := c, lat := .i, a := some (wk w, a), b := some (wk w, b), d := some (dk w, d), ok := !(sat && w) }
  | .iaddImmediate c d a _ _ sat w => some { ctl := c, lat := .i, a := some (wk w, a), d := some (dk w, d), ok := !(sat && w) }
  | .isub c d a b _ sat w => some { ctl := c, lat := .i, a := some (wk w, a), b := some (wk w, b), d := some (dk w, d), ok := !(sat && w) }
  | .imulRegisters c d a b => some { ctl := c, lat := .i, a := some (.any, a), b := some (.any, b), d := some (.v, d) }
  | .imulImmediate c d a _ => some { ctl := c, lat := .i, a := some (.any, a), d := some (.v, d) }
  | .imulh c d a b _ => some { ctl := c, lat := .i, a := some (.any, a), b := some (.any, b), d := some (.v, d) }
  | .imad c d a b e => some { ctl := c, lat := .i, a := some (.any, a), b := some (.any, b), e := some (.any, e), d := some (.v, d) }
  | .imadw c d a b e _ => some { ctl := c, lat := .i, a := some (.any, a), b := some (.any, b), e := some (.wide, e), d := some (.pair, d) }
  | .idiv c d a b _ => some { ctl := c, lat := .sf, a := some (.any, a), b := some (.any, b), d := some (.v, d) }
  | .irem c d a b _ => some { ctl := c, lat := .sf, a := some (.any, a), b := some (.any, b), d := some (.v, d) }
  | .imin c d a b _ => some { ctl := c, lat := .i, a := some (.any, a), b := some (.any, b), d := some (.v, d) }
  | .imax c d a b _ => some { ctl := c, lat := .i, a := some (.any, a), b := some (.any, b), d := some (.v, d) }
  | .iabs c d a _ => some { ctl := c, lat := .i, a := some (.any, a), d := some (.v, d) }
  | .isad c d a b e _ => some { ctl := c, lat := .i, a := some (.any, a), b := some (.any, b), e := some (.any, e), d := some (.v, d) }
  | .shlRegisters c d a b => some { ctl := c, lat := .i, a := some (.any, a), b := some (.any, b), d := some (.v, d) }
  | .shlImmediate c d a _ => some { ctl := c, lat := .i, a := some (.any, a), d := some (.v, d) }
  | .shrRegisters c d a b => some { ctl := c, lat := .i, a := some (.any, a), b := some (.any, b), d := some (.v, d) }
  | .shrImmediate c d a _ => some { ctl := c, lat := .i, a := some (.any, a), d := some (.v, d) }
  | .sraRegisters c d a b => some { ctl := c, lat := .i, a := some (.any, a), b := some (.any, b), d := some (.v, d) }
  | .sraImmediate c d a _ => some { ctl := c, lat := .i, a := some (.any, a), d := some (.v, d) }
  | .shf c d a b e _ => some { ctl := c, lat := .i, a := some (.any, a), b := some (.any, b), e := some (.any, e), d := some (.v, d) }
  | .rot c d a b _ => some { ctl := c, lat := .i, a := some (.any, a), b := some (.any, b), d := some (.v, d) }
  | .andRegisters c d a b => some { ctl := c, lat := .i, a := some (.any, a), b := some (.any, b), d := some (.v, d) }
  | .andImmediate c d a _ => some { ctl := c, lat := .i, a := some (.any, a), d := some (.v, d) }
  | .orRegisters c d a b => some { ctl := c, lat := .i, a := some (.any, a), b := some (.any, b), d := some (.v, d) }
  | .orImmediate c d a _ => some { ctl := c, lat := .i, a := some (.any, a), d := some (.v, d) }
  | .xorRegisters c d a b => some { ctl := c, lat := .i, a := some (.any, a), b := some (.any, b), d := some (.v, d) }
  | .xorImmediate c d a _ => some { ctl := c, lat := .i, a := some (.any, a), d := some (.v, d) }
  | .bool3 c d a b e _ _ => some { ctl := c, lat := .i, a := some (.any, a), b := some (.any, b), e := some (.any, e), d := some (.v, d) }
  | .popc c d a => some { ctl := c, lat := .i, a := some (.any, a), d := some (.v, d) }
  | .clz c d a => some { ctl := c, lat := .i, a := some (.any, a), d := some (.v, d) }
  | .ctz c d a => some { ctl := c, lat := .i, a := some (.any, a), d := some (.v, d) }
  | .brev c d a => some { ctl := c, lat := .i, a := some (.any, a), d := some (.v, d) }
  | .bfx c d a b e _ => some { ctl := c, lat := .i, a := some (.any, a), b := some (.any, b), e := some (.any, e), d := some (.v, d) }
  | .bfi c d a b e => some { ctl := c, lat := .i, a := some (.any, a), b := some (.any, b), e := some (.any, e), d := some (.v, d) }
  | .bshuf c d a b e => some { ctl := c, lat := .i, a := some (.any, a), b := some (.any, b), e := some (.any, e), d := some (.v, d) }
  | .leaRegisters c d a b e _ => some { ctl := c, lat := .i, a := some (.any, a), b := some (.any, b), e := some (.any, e), d := some (.v, d) }
  | .leaImmediate c d a _ _ => some { ctl := c, lat := .i, a := some (.any, a), d := some (.v, d) }
  | .mov c d a w => some { ctl := c, lat := .i, a := some (wk w, a), d := some (dk w, d) }
  | .movi c d (.const _) => some { ctl := c, lat := .i, d := some (.v, d) }
  | .movi c d (.ins a _) => some { ctl := c, lat := .i, a := some (.any, a), d := some (.v, d) }
  | .sel c d a b p _ w => some { ctl := c, lat := .i, a := some (wk w, a), b := some (wk w, b), d := some (dk w, d), pr := [p] }
  | .saddRegisters c d a b => some { ctl := c, lat := .s, sr := [a, b], sw := [d], ok := scOk ([d] ++ [a, b]) }
  | .saddImmediate c d a _ => some { ctl := c, lat := .s, sr := [a], sw := [d], ok := scOk ([d] ++ [a]) }
  | .ssub c d a b => some { ctl := c, lat := .s, sr := [a, b], sw := [d], ok := scOk ([d] ++ [a, b]) }
  | .smul c d a b => some { ctl := c, lat := .s, sr := [a, b], sw := [d], ok := scOk ([d] ++ [a, b]) }
  | .smulh c d a b _ => some { ctl := c, lat := .s, sr := [a, b], sw := [d], ok := scOk ([d] ++ [a, b]) }
  | .sandRegisters c d a b => some { ctl := c, lat := .s, sr := [a, b], sw := [d], ok := scOk ([d] ++ [a, b]) }
  | .sandImmediate c d a _ => some { ctl := c, lat := .s, sr := [a], sw := [d], ok := scOk ([d] ++ [a]) }
  | .sor c d a b => some { ctl := c, lat := .s, sr := [a, b], sw := [d], ok := scOk ([d] ++ [a, b]) }
  | .sxor c d a b => some { ctl := c, lat := .s, sr := [a, b], sw := [d], ok := scOk ([d] ++ [a, b]) }
  | .sshlRegisters c d a b => some { ctl := c, lat := .s, sr := [a, b], sw := [d], ok := scOk ([d] ++ [a, b]) }
  | .sshlImmediate c d a _ => some { ctl := c, lat := .s, sr := [a], sw := [d], ok := scOk ([d] ++ [a]) }
  | .sshrRegisters c d a b => some { ctl := c, lat := .s, sr := [a, b], sw := [d], ok := scOk ([d] ++ [a, b]) }
  | .sshrImmediate c d a _ => some { ctl := c, lat := .s, sr := [a], sw := [d], ok := scOk ([d] ++ [a]) }
  | .ssra c d a b => some { ctl := c, lat := .s, sr := [a, b], sw := [d], ok := scOk ([d] ++ [a, b]) }
  | .smin c d a b _ => some { ctl := c, lat := .s, sr := [a, b], sw := [d], ok := scOk ([d] ++ [a, b]) }
  | .smax c d a b _ => some { ctl := c, lat := .s, sr := [a, b], sw := [d], ok := scOk ([d] ++ [a, b]) }
  | .sset c d a b _ _ => some { ctl := c, lat := .s, sr := [a, b], sw := [d], ok := scOk ([d] ++ [a, b]) }
  | .ssel c d a b _ => some { ctl := c, lat := .s, sr := [a, b], sw := [d], ok := scOk ([d] ++ [a, b]) }
  | .smov c d a => some { ctl := c, lat := .s, sr := [a], sw := [d], ok := scOk ([d] ++ [a]) }
  | .smovi c d (.const _) => some { ctl := c, lat := .s, sw := [d], ok := scOk [d] }
  | .smovi c d (.ins a _) => some { ctl := c, lat := .s, sr := [a], sw := [d], ok := scOk [d, a] }
  | .slea c d a b e _ => some { ctl := c, lat := .s, sr := [a, b, e], sw := [d], ok := scOk ([d] ++ [a, b, e]) }
  | .isetRegisters c p a b _ _ comb => some { ctl := c, lat := .i, a := some (.any, a), b := some (.any, b), pr := if comb == .set then [] else [p], ok := p != 7 }
  | .isetImmediate c p a _ _ _ comb => some { ctl := c, lat := .i, a := some (.any, a), pr := if comb == .set then [] else [p], ok := p != 7 }
  | .plop c p pa pb _ => some { ctl := c, lat := .i, pr := [pa, pb], ok := p != 7 }
  | .p2v c d => some { ctl := c, lat := .i, d := some (.v, d) }
  | .v2p c a mask => some { ctl := c, lat := .i, a := some (.any, a), ok := mask != 0 }
  | .vshape c d a => some { ctl := c, lat := .i, a := some (.any, a), d := some (.vs, d) }
  | .vwiden c d a => some { ctl := c, lat := .i, a := some (.any, a), d := some (.v, d) }
  | .shfl c d a b _ _ => some { ctl := c, lat := .i, a := some (.any, a), b := some (.any, b), d := some (.v, d) }
  | .census c (.pred p) mode q _ => some { ctl := c, lat := .i, pr := [q], ok := p != 7 && (mode == .any || mode == .all || mode == .same) }
  | .census c (.reg d) mode q _ => some { ctl := c, lat := .i, d := some (.vsN, d), pr := [q], ok := mode == .mask || mode == .count }
  | .gred c d a op ty => some { ctl := c, lat := .sf, a := some (.any, a), d := some (.vs, d), ok := !(ty == .f32) || op == .add || op == .min || op == .max }
  | .matchLanes c (.pred p) a w => some { ctl := c, lat := .sf, a := some (wk w, a), ok := p != 7 }
  | .matchLanes c (.reg d) a w => some { ctl := c, lat := .sf, a := some (wk w, a), d := some (.v, d) }
  | .vbcast c d a b => some { ctl := c, lat := .i, a := some (.any, a), b := some (.any, b), d := some (.v, d) }
  | .vlane c d a b => some { ctl := c, lat := .i, a := some (.any, a), b := some (.any, b), d := some (.v, d) }
  | .bra c _ => some { ctl := c, lat := .c }
  | .brx c a => some { ctl := c, lat := .c, a := some (.base, a) }
  | .call c d _ => some { ctl := c, lat := .c, d := some (.pairN, d) }
  | .callx c d a => some { ctl := c, lat := .c, a := some (.base, a), d := some (.pairN, d) }
  | .ret c a => some { ctl := c, lat := .c, a := some (.base, a) }
  | .exit c => some { ctl := c, lat := .c }
  | .jset c _ none => some { ctl := c, lat := .c }
  | .jset c _ (some a) => some { ctl := c, lat := .c, a := some (.any, a) }
  | .jarr c _ => some { ctl := c, lat := .c }
  | .jdrop c _ => some { ctl := c, lat := .c }
  | .jread c d _ => some { ctl := c, lat := .c, d := some (.vs, d) }
  | .waitf c _ => some { ctl := c, lat := .c }
  | .sleep c a => some { ctl := c, lat := .c, a := some (.any, a) }
  | .faddRegisters c d a b _ _ => some { ctl := c, lat := .f, a := some (.any, a), b := some (.any, b), d := some (.v, d) }
  | .faddImmediate c d a _ _ _ => some { ctl := c, lat := .f, a := some (.any, a), d := some (.v, d) }
  | .fsub c d a b _ _ => some { ctl := c, lat := .f, a := some (.any, a), b := some (.any, b), d := some (.v, d) }
  | .fmulRegisters c d a b _ _ => some { ctl := c, lat := .f, a := some (.any, a), b := some (.any, b), d := some (.v, d) }
  | .fmulImmediate c d a _ _ _ => some { ctl := c, lat := .f, a := some (.any, a), d := some (.v, d) }
  | .ffma c d a b e _ _ _ _ => some { ctl := c, lat := .f, a := some (.any, a), b := some (.any, b), e := some (.any, e), d := some (.v, d) }
  | .fmin c d a b => some { ctl := c, lat := .f, a := some (.any, a), b := some (.any, b), d := some (.v, d) }
  | .fmax c d a b => some { ctl := c, lat := .f, a := some (.any, a), b := some (.any, b), d := some (.v, d) }
  | .fsetRegisters c p a b _ comb => some { ctl := c, lat := .f, a := some (.any, a), b := some (.any, b), pr := if comb == .set then [] else [p], ok := p != 7 }
  | .fsetImmediate c p a _ _ comb => some { ctl := c, lat := .f, a := some (.any, a), pr := if comb == .set then [] else [p], ok := p != 7 }
  | .fclass c d a _ => some { ctl := c, lat := .f, a := some (.any, a), d := some (.v, d) }
  | .frnd c d a _ => some { ctl := c, lat := .f, a := some (.any, a), d := some (.v, d) }
  | .fscale c d a b _ => some { ctl := c, lat := .f, a := some (.any, a), b := some (.any, b), d := some (.v, d) }
  | .frcp c d a _ => some { ctl := c, lat := .sf, a := some (.any, a), d := some (.v, d) }
  | .frsq c d a => some { ctl := c, lat := .sf, a := some (.any, a), d := some (.v, d) }
  | .fsqrt c d a _ => some { ctl := c, lat := .sf, a := some (.any, a), d := some (.v, d) }
  | .fexp2 c d a => some { ctl := c, lat := .sf, a := some (.any, a), d := some (.v, d) }
  | .flog2 c d a => some { ctl := c, lat := .sf, a := some (.any, a), d := some (.v, d) }
  | .fsin c d a => some { ctl := c, lat := .sf, a := some (.any, a), d := some (.v, d) }
  | .fcos c d a => some { ctl := c, lat := .sf, a := some (.any, a), d := some (.v, d) }
  | .ftanh c d a => some { ctl := c, lat := .sf, a := some (.any, a), d := some (.v, d) }
  | .hadd2 c d a b _ _ => some { ctl := c, lat := .f, a := some (.any, a), b := some (.any, b), d := some (.v, d) }
  | .hsub2 c d a b _ _ => some { ctl := c, lat := .f, a := some (.any, a), b := some (.any, b), d := some (.v, d) }
  | .hmul2 c d a b _ _ => some { ctl := c, lat := .f, a := some (.any, a), b := some (.any, b), d := some (.v, d) }
  | .hfma2 c d a b e _ _ => some { ctl := c, lat := .f, a := some (.any, a), b := some (.any, b), e := some (.any, e), d := some (.v, d) }
  | .hmin2 c d a b _ => some { ctl := c, lat := .f, a := some (.any, a), b := some (.any, b), d := some (.v, d) }
  | .hmax2 c d a b _ => some { ctl := c, lat := .f, a := some (.any, a), b := some (.any, b), d := some (.v, d) }
  | .hset2 c d a b _ _ => some { ctl := c, lat := .f, a := some (.any, a), b := some (.any, b), d := some (.v, d) }
  | .cvt c d a dt sty _ _ => some { ctl := c, lat := .f, a := some (wk sty.wide, a), d := some (dk dt.wide, d) }
  | .pack c d a b e fmt _ _ => some { ctl := c, lat := .f, a := some (.any, a), b := some (.any, b), e := some (if fmt.width == 16 then .un else .any, e), d := some (.v, d), ok := fmt.width < 32 }
  | .unpack c d a b fmt int => some { ctl := c, lat := .f, a := some (.any, a), b := some (.any, b), d := some (.v, d), ok := fmt != .f32 && (!int || fmt.isInt) }
  | .dp2h c d a b e fa fb rm => some { ctl := c, lat := .f, a := some (.any, a), b := some (.any, b), e := some (.any, e), d := some (.v, d), ok := dpOk 16 fa fb rm }
  | .dp4 c d a b e fa fb rm => some { ctl := c, lat := .f, a := some (.any, a), b := some (.any, b), e := some (.any, e), d := some (.v, d), ok := dpOk 8 fa fb rm }
  | .dp8 c d a b e fa fb rm => some { ctl := c, lat := .f, a := some (.any, a), b := some (.any, b), e := some (.any, e), d := some (.v, d), ok := dpOk 4 fa fb rm }
  | .dp16 c d a b e fa fb rm => some { ctl := c, lat := .f, a := some (.any, a), b := some (.any, b), e := some (.any, e), d := some (.v, d), ok := dpOk 2 fa fb rm }
  | .ld c d a b sz sx _ _ => some { ctl := c, lat := .l, a := some (.base, a), b := some (.any, b), d := some (sz.dst, d), ok := sz.sxOk sx }
  | .st c a b e sz _ _ => some { ctl := c, lat := .l, a := some (.base, a), b := some (.any, b), e := some (sz.src, e) }
  | .lda c d a b w _ _ => some { ctl := c, lat := .l, a := some (.base, a), b := some (.any, b), d := some (dk w, d) }
  | .strel c a b e w sc lazy _ => some { ctl := c, lat := .l, a := some (.base, a), b := some (.any, b), e := some (wk w, e), ok := !lazy || sc == .dev || sc == .sys }
  | .lds c d a b sz sx _ => some { ctl := c, lat := .l, a := some (.any, a), b := some (.any, b), d := some (sz.dst, d), ok := sz.sxOk sx }
  | .sts c a b e sz _ => some { ctl := c, lat := .l, a := some (.any, a), b := some (.any, b), e := some (sz.src, e) }
  | .sld c d a b sz sx _ => some { ctl := c, lat := .l, sr := [a] ++ b.toList, sw := [d], ok := scOk ([d, a] ++ b.toList) && sz.sxOk sx && sz != .b128 }
  | .sst c a b e sz _ => some { ctl := c, lat := .l, sr := [a, e] ++ b.toList, ok := scOk ([a, e] ++ b.toList) && sz != .b128 }
  | .atom c d a e op w _ _ => some { ctl := c, lat := .l, a := some (.base, a), e := some (atomSrc op w, e), d := some (dk w, d), ok := op.wOk w }
  | .atoms c d a e op w sc _ => some { ctl := c, lat := .l, a := some (.any, a), e := some (atomSrc op w, e), d := some (dk w, d), ok := op.wOk w && (sc == .team || sc == .grp || sc == .thr) }
  | .red c a e op w _ ord => some { ctl := c, lat := .l, a := some (.base, a), e := some (atomSrc op w, e), ok := op.wOk w && op != .exch && op != .cas && (ord == .rlx || ord == .rel) }
  | .fence c ord _ => some { ctl := c, lat := .l, ok := ord != .rlx }
  | .publish c a b _ len => some { ctl := c, lat := .l, a := some (.base, a), b := some (.any, b), e := len.map (SrcKind.any, ·) }
  | .clean c a b _ len => some { ctl := c, lat := .l, a := some (.base, a), b := some (.any, b), e := len.map (SrcKind.any, ·) }
  | .inval c a b _ len => some { ctl := c, lat := .l, a := some (.base, a), b := some (.any, b), e := len.map (SrcKind.any, ·) }
  | .pref c a b _ len _ _ => some { ctl := c, lat := .l, a := some (.base, a), b := some (.any, b), e := len.map (SrcKind.any, ·) }
  | .feset c a b e => some { ctl := c, lat := .l, a := some (.any, a), b := some (.any, b), e := some (.any, e) }
  | .feclr c a b e => some { ctl := c, lat := .l, a := some (.any, a), b := some (.any, b), e := some (.any, e) }
  | .fewait c a b e _ => some { ctl := c, lat := .l, a := some (.any, a), b := some (.any, b), e := some (.any, e) }
  | .tsrset c d a k => some { ctl := c, lat := .l, a := some (.base, a), d := some (.v, d), sr := blockRegs k }
  | .cpyin c t k dsc => some { ctl := c, lat := .l, a := sOp t, b := sOp k, e := sOp dsc, sr := [k + 1, k + 2], ok := k + 2 < 384 }
  | .cpyout c t k dsc => some { ctl := c, lat := .l, a := sOp t, b := sOp k, e := sOp dsc, sr := [k + 1, k + 2], ok := k + 2 < 384 }
  | .cpyobG c t k ob => some { ctl := c, lat := .l, a := sOp t, b := sOp k, e := sOp ob, sr := [k + 1, k + 2], ok := k + 2 < 384 }
  | .cpyobS c a len ob => some { ctl := c, lat := .l, a := some (.any, a), b := some (.any, len), e := sOp ob }
  | .cpyobO c a len ob => some { ctl := c, lat := .l, a := some (.any, a), b := some (.any, len), e := sOp ob }
  | .cpyred c t k dsc _ => some { ctl := c, lat := .l, a := sOp t, b := sOp k, e := sOp dsc, sr := [k + 1, k + 2], ok := k + 2 < 384 }
  | .cpypf c t k _ => some { ctl := c, lat := .l, a := sOp t, b := sOp k, sr := [k + 1, k + 2], ok := k + 2 < 384 }
  | .cpycan c _ => some { ctl := c, lat := .l }
  | .obres c d a => some { ctl := c, lat := .l, a := sOp a, d := some (.vsN, d) }
  | .obrel c a => some { ctl := c, lat := .l, a := some (.any, a) }
  | .obput c a b e w128 => some { ctl := c, lat := .l, a := sOp a, b := some (.any, b), e := some (if w128 then .quad else .any, e) }
  | .obget c d a b w128 => some { ctl := c, lat := .l, a := sOp a, b := some (.any, b), d := some (if w128 then .quad else .v, d) }
  | .mzero c d a => some { ctl := c, lat := .l, a := sOp a, d := some (.acc 128, .v d) }
  | .mready c a n => some { ctl := c, lat := .l, a := some (.vec n.toNat, .v a), ok := 0 < n.toNat && n.toNat ≤ 320 && !c.ka }
  | .mloop c d k => some { ctl := c, lat := .l, d := some (.acc 128, .v d), sr := blockRegs k }
  | .freeze c d x k => some { ctl := c, lat := .l, d := some (.vsN, d), a := some (.ix, .v x), sr := blockRegs k, ok := !c.ka }
  | .stamp c d a b => some { ctl := c, lat := .l, a := some (.any, a), b := sOp b, d := some (.vs, d), ok := idOk a }
  | .spawn c e v n t => some { ctl := c, lat := .l, a := sOp e, b := if n == 0 then none else some (.vec n.toNat, v), e := some (.any, t), ok := n.toNat ≤ 4 && idOk t && (if n == 0 then v == .zero else true) }
  | .tdrop c a => some { ctl := c, lat := .l, a := some (.any, a), ok := idOk a }
  | .tinfo c d a which => some { ctl := c, lat := .l, a := some (.any, a), d := some (.vs, d), ok := idOk a && which != 7 }
  | .barArv c _ => some { ctl := c, lat := .l }
  | .barArr c _ => some { ctl := c, lat := .l }
  | .barExp c d _ a => some { ctl := c, lat := .l, a := some (.any, a), d := some (.vs, d) }
  | .racq c d _ => some { ctl := c, lat := .l, d := some (.vs, d) }
  | .rtake c d _ => some { ctl := c, lat := .l, d := some (.vs, d) }
  | .rpub c _ => some { ctl := c, lat := .l }
  | .rdone c _ => some { ctl := c, lat := .l }
  | .send c l k r _ _ => some { ctl := c, lat := .l, a := sOp l, b := sOp k, e := sOp r }
  | .fget c l k r _ => some { ctl := c, lat := .l, a := sOp l, b := sOp k, e := sOp r }
  | .dalloc c d a => some { ctl := c, lat := .l, a := some (.any, a), d := some (.pairN, d) }
  | .dfree c a b => some { ctl := c, lat := .l, a := some (.base, a), b := some (.any, b) }
  | .live c _ => some { ctl := c, lat := .c }
  | .trap c _ => some { ctl := c, lat := .c }
  | .bkpt c _ => some { ctl := c, lat := .c }
  | .hcall c d k => some { ctl := c, lat := .l, d := some (.vs, d), sr := blockRegs k }
  | .qsig c d q k => some { ctl := c, lat := .l, a := sOp q, d := some (.vs, d), sr := blockRegs k }
  | .srd c d n => some { ctl := c, lat := .s, sw := [d], ok := scOk [d] && srdOk n }
  | .swr c n e => some { ctl := c, lat := .s, sr := [e], ok := scOk [e] && (n == 0x10 || n == 0x11) }
  | .ipf c a b _ => some { ctl := c, lat := .l, a := sOp a, b := some (.any, b), ok := match b with | .v _ => true | .s _ => true | _ => false }
  | .ipin c a b _ => some { ctl := c, lat := .l, a := sOp a, b := some (.any, b), ok := match b with | .v _ => true | .s _ => true | _ => false }
  | .iunpin c a b _ => some { ctl := c, lat := .l, a := sOp a, b := some (.any, b), ok := match b with | .v _ => true | .s _ => true | _ => false }
  | .halfNopLow h => some (h.nop .i)
  | .halfIadd h => some (h.tab .i false)
  | .halfIsub h => some (h.tab .i false)
  | .halfImul h => some (h.tab .i false)
  | .halfIminI32 h => some (h.tab .i false)
  | .halfImaxI32 h => some (h.tab .i false)
  | .halfIminN32 h => some (h.tab .i false)
  | .halfImaxN32 h => some (h.tab .i false)
  | .halfShl h => some (h.tab .i false)
  | .halfShr h => some (h.tab .i false)
  | .halfSra h => some (h.tab .i false)
  | .halfAnd h => some (h.tab .i false)
  | .halfOr h => some (h.tab .i false)
  | .halfXor h => some (h.tab .i false)
  | .halfMov h => some (h.tab .i true)
  | .halfNopHigh h => some (h.nop .f)
  | .halfFadd h => some (h.tab .f false)
  | .halfFsub h => some (h.tab .f false)
  | .halfFmul h => some (h.tab .f false)
  | .halfFmin h => some (h.tab .f false)
  | .halfFmax h => some (h.tab .f false)
  | .halfHadd2F16 h => some (h.tab .f false)
  | .halfHsub2F16 h => some (h.tab .f false)
  | .halfHmul2F16 h => some (h.tab .f false)
  | .halfHmin2F16 h => some (h.tab .f false)
  | .halfHmax2F16 h => some (h.tab .f false)
  | .halfHadd2B16 h => some (h.tab .f false)
  | .halfHsub2B16 h => some (h.tab .f false)
  | .halfHmul2B16 h => some (h.tab .f false)
  | .halfHmin2B16 h => some (h.tab .f false)
  | .halfHmax2B16 h => some (h.tab .f false)
  | .clauseHeader _ _ _ _ => none
  | .classLCompletion _ _ => none
  | .sleepEnd _ _ _ => none
  | .registerSpill _ => none
  | .feGrant _ _ => none
  | .operandLogReplay _ _ => none
  | .differenceRecord _ => none
  | .forcedPublication _ _ => none
  | .hostWrite _ _ => none
  | .doorbell _ _ => none
  | .queueEnable _ _ => none
  | .queueDrain _ => none
  | .drainComplete _ => none
  | .teardown _ => none
  | .reset _ => none
  | .registerWrite _ _ _ => none
  | .launch _ => none
  | .signal _ => none
  | .waitv _ => none
  | .waitvPoll _ => none
  | .waittime _ => none
  | .order _ => none
  | .stampts _ => none
  | .qnop _ => none
  | .teamAdmission _ => none
  | .preemptionRequest _ => none
  | .preemptionDeadline _ => none
  | .teamRestore _ => none
  | .teamEnd _ => none
  | .teamRetirement _ => none
  | .completionSignal _ => none
  | .itemCreation _ => none
  | .scratchpadCopyFault _ _ _ => none
  | .binTimerExpiry _ _ => none
  | .binLaunch _ _ => none
  | .copyCompletion _ _ => none
  | .copyFault _ _ => none
  | .matrixCommandStart _ _ => none
  | .matrixCommandCompletion _ _ => none
  | .matrixFault _ _ => none
  | .reservationFree _ _ => none
  | .ringGrant _ _ => none
  | .barrierWatchdog _ _ => none
  | .ringWatchdog _ _ => none
  | .feWatchdog _ _ => none
  | .halt _ => none
  | .resume _ => none
  | .capsel _ => none
  | .contextTeardown _ _ => none
  | .contextTeardownDone _ => none
  | .contextValidate _ _ => none
  | .shootdown _ => none
  | .shootdownDone => none
  | .migrationWindowReset => none
  | .pageMigration _ => none
  | .beaconTimer => none
  | .put _ _ => none
  | .getreq _ _ => none
  | .getdata _ _ _ => none
  | .ack _ _ => none
  | .nack _ _ _ _ => none
  | .team _ _ => none
  | .teamend _ _ _ _ => none
  | .beacon _ _ => none
  | .unknownMessage _ _ => none
  | .sendAckTimeout _ _ => none
  | .portDown _ => none
  | .dieLinkLoss _ => none
  | .pcieWindowRequest _ _ => none
  | .auditReexecution _ _ _ _ => none
  | .auditThirdRun _ _ _ _ => none
  | .suspicionHalving => none
  | .clusterSubstitution _ _ => none
  | .scrub _ _ => none
  | .bankDrop _ _ _ => none
  | .restripeRegion _ => none
  | .powerWindow _ _ _ => none
  | .fatalError _ _ => none
  | .bringUp _ => none
  | .warmReset => none
  | .mailboxRequest _ _ => none
  | .powerCap _ => none
  | .firmwareUpdate _ _ => none
  | .getVersion _ => none
  | .getCapabilities _ => none
  | .negotiateAlgorithms _ => none
  | .getDigests _ => none
  | .getCertificate _ => none
  | .challenge _ _ => none
  | .getMeasurements _ _ => none
  | .unsupportedRequest _ _ => none
  | .i3cSensorRead _ _ => none
  | .hostPreemption _ => none
  | .mainPowerLoss => none
  | .linkLevelRetry _ _ => none
  | .flitResend _ _ => none
  | .portRetrain _ => none
  | .spilledRegisterFetch _ _ _ => none

/-- The vector registers a source position reads (R53, R225, R269). -/
def SrcKind.regs (k : SrcKind) (o : Opnd) : List Nat :=
  match o with
  | .v n =>
    match k with
    | .un | .ix => [] | .any | .scal => [n] | .wide | .base => [n, n + 1] | .quad => [n, n + 1, n + 2, n + 3]
    | .vec m => (List.range m).map (n + ·)
  | _ => []
/-- The vector registers a source position names, read or not: all must lie below the budget (R53). -/
def SrcKind.names (k : SrcKind) (o : Opnd) : List Nat :=
  match k, o with
  | .un, .v n | .ix, .v n => [n]
  | k, o => k.regs o
/-- The vector registers a destination position names. -/
def DstKind.regs (k : DstKind) (o : Opnd) : List Nat :=
  match o with
  | .v n =>
    match k with
    | .v | .vs | .vsN => [n] | .pair | .pairN => [n, n + 1] | .quad => [n, n + 1, n + 2, n + 3]
    | .acc m => (List.range m).map (n + ·)
  | _ => []
/-- A specifier that the word's nine bits can hold and R51 does not reserve. -/
def Opnd.ok : Opnd → Bool | .v n => n < 320 | .s n => n < 128 | _ => true
/-- The static limits on a source specifier (R51, R53). -/
def SrcKind.ok (k : SrcKind) (o : Opnd) : Bool :=
  o.ok && (match k, o with
    | .any, _ | .un, _ => true
    | .wide, .v n => n % 2 == 0 | .wide, _ => true
    | .base, .v n => n % 2 == 0 | .base, .s _ => true | .base, _ => false
    | .quad, .v n => n % 4 == 0 | .quad, _ => false
    | .scal, .s _ => true | .scal, _ => false
    | .ix, .v _ => true | .ix, _ => false
    | .vec m, .v n => n + m ≤ 320 | .vec _, _ => false)
/-- The static limits on a destination specifier (R51, R53). -/
def DstKind.ok (k : DstKind) (o : Opnd) : Bool :=
  o.ok && (match k, o with
    | .v, .v _ | .v, .zero => true | .v, _ => false
    | .vs, .v _ | .vs, .s _ | .vs, .zero => true | .vs, _ => false
    | .vsN, .v _ | .vsN, .s _ => true | .vsN, _ => false
    | .pair, .v n => n % 2 == 0 | .pair, .zero => true | .pair, _ => false
    | .pairN, .v n => n % 2 == 0 | .pairN, _ => false
    | .quad, .v n => n % 4 == 0 | .quad, .zero => true | .quad, _ => false
    | .acc m, .v n => n + m ≤ 320 | .acc _, _ => false)
/-- A kill bit stands only on a position the instruction reads that holds a vector register (R50). -/
def killOk (k : Bool) (p : Option (SrcKind × Opnd)) : Bool :=
  !k || (match p with | some (.un, _) | some (.ix, _) => false | some (_, .v _) => true | _ => false)

/-- Every static limit of R50 to R53 and of the entries. MOD[7] stands only in class L (R49). -/
def OpTab.wf (t : OpTab) : Bool :=
  t.a.all (fun p => p.1.ok p.2) && t.b.all (fun p => p.1.ok p.2) && t.e.all (fun p => p.1.ok p.2)
    && t.d.all (fun p => p.1.ok p.2) && t.ok
    && killOk t.ctl.ka t.a && killOk t.ctl.kb t.b && killOk t.ctl.kc t.e && (!t.ctl.fb || t.lat == .l)

/-- The vector registers read as sources, those named in source positions, those named as destinations, and those killed
(R53, R79, R86). -/
def OpTab.vreads (t : OpTab) : List Nat :=
  (t.a.toList ++ t.b.toList ++ t.e.toList).flatMap fun p => p.1.regs p.2
def OpTab.vnames (t : OpTab) : List Nat :=
  (t.a.toList ++ t.b.toList ++ t.e.toList).flatMap fun p => p.1.names p.2
def OpTab.vwrites (t : OpTab) : List Nat := t.d.toList.flatMap fun p => p.1.regs p.2
def OpTab.killed (t : OpTab) : List Nat :=
  (if t.ctl.ka then t.a.toList.flatMap fun p => p.1.regs p.2 else [])
    ++ (if t.ctl.kb then t.b.toList.flatMap fun p => p.1.regs p.2 else [])
    ++ (if t.ctl.kc then t.e.toList.flatMap fun p => p.1.regs p.2 else [])
/-- The scalars read as sources, and those named as destinations. -/
def OpTab.sreads (t : OpTab) : List Nat :=
  t.sr ++ (t.a.toList ++ t.b.toList ++ t.e.toList).filterMap fun p =>
    match p with | (.un, _) => none | (_, .s n) => some n | _ => none
def OpTab.swrites (t : OpTab) : List Nat :=
  t.sw ++ t.d.toList.filterMap fun p => match p.2 with | .s n => some n | _ => none

end Sys2Proof
end

