-- ==== Sys2Proof/WellFormed.lean ====
section
/-! DEFINITION. Well-formed instructions: those whose word no check of R69 step 4 refuses. The checks themselves stand in
Machine/Operands.lean. -/
namespace Sys2Proof

/-- A word of this instruction raises neither ILLOP (R50 to R53 and its entry's limits) nor ILLCLAUSE (a header, R57). An
event has no word and is well formed always. -/
def Instr.wf (i : Instr) : Bool :=
  match i with
  | .clauseHeader _ seta setb len =>
    len != 0 && !(seta.toNat == 12 || seta.toNat == 13 || seta.toNat == 14)
      && !(setb.toNat == 12 || setb.toNat == 13 || setb.toNat == 14)
  | i => match i.tab with | some t => t.wf | none => true

end Sys2Proof
end

