-- ==== Sys2Proof/Decode.lean ====
section
/-! DEFINITION. Decoding and encoding of instruction words (R46 to R70): field extraction, the encoding tables of every
entry in both directions, and `decode`, total on every 64-bit word. A word decodes only if its fields encode back to it
exactly, so that every reserved bit is checked, and only if it is well formed. -/
namespace Sys2Proof

/-- A field of n bits from bit lo. -/
def fld {w : Nat} (b : BitVec w) (lo n : Nat) : BitVec n := b.extractLsb' lo n
/-- One bit of a word. -/
def bitOf {w : Nat} (b : BitVec w) (i : Nat) : Bool := b.getLsbD i
/-- A flag as a field of one bit. -/
def bit (b : Bool) : BitVec 1 := BitVec.ofBool b

/-- Why a word is refused (R57, R64, R69). -/
inductive DecErr where | illclause | illpair | illop
  deriving DecidableEq, Repr, Inhabited

/-- What a word holds: an instruction or a header; a pair, low half first; or the trap its decoding raises. -/
inductive Decoded where
  | one (i : Instr)
  | pair (lo hi : Instr) (yld : Bool)
  | bad (e : DecErr)
  deriving DecidableEq, Repr, Inhabited

/-- The code of an operand specifier (R51). -/
def Opnd.code : Opnd → BitVec 9
  | .v n => .ofNat 9 n | .s n => .ofNat 9 (320 + n) | .zero => 448 | .lane => 449 | .ones => 450 | .group => 451 | .item => 452
/-- What a specifier names (R51); 453 to 511 are reserved and read as registers that do not exist. -/
def Opnd.ofCode (b : BitVec 9) : Opnd :=
  match b.toNat with
  | 448 => .zero | 449 => .lane | 450 => .ones | 451 => .group | 452 => .item
  | n => if n < 320 then .v n else if n < 448 then .s (n - 320) else .v n

/-- The code of a field (R109). -/
def IntTy.code : IntTy → BitVec 1
  | .i => 0 | .n => 1
/-- The meaning of a code; a code with no meaning reads as the first, and its word is refused by `decode`. -/
def IntTy.ofCode (b : BitVec 1) : IntTy :=
  match b.toNat with | 1 => .n | _ => .i
/-- The code of a field (R109). -/
def Cmp.code : Cmp → BitVec 3
  | .eq => 0 | .ne => 1 | .lt => 2 | .le => 3 | .gt => 4 | .ge => 5
/-- The meaning of a code; a code with no meaning reads as the first, and its word is refused by `decode`. -/
def Cmp.ofCode (b : BitVec 3) : Cmp :=
  match b.toNat with | 1 => .ne | 2 => .lt | 3 => .le | 4 => .gt | 5 => .ge | _ => .eq
/-- The code of a field (R155). -/
def FCmp.code : FCmp → BitVec 3
  | .eq => 0 | .ne => 1 | .lt => 2 | .le => 3 | .gt => 4 | .ge => 5 | .num => 6 | .nan => 7
/-- The meaning of a code; a code with no meaning reads as the first, and its word is refused by `decode`. -/
def FCmp.ofCode (b : BitVec 3) : FCmp :=
  match b.toNat with | 1 => .ne | 2 => .lt | 3 => .le | 4 => .gt | 5 => .ge | 6 => .num | 7 => .nan | _ => .eq
/-- The code of a field (R109). -/
def Comb.code : Comb → BitVec 2
  | .set => 0 | .and => 1 | .or => 2 | .xor => 3
/-- The meaning of a code; a code with no meaning reads as the first, and its word is refused by `decode`. -/
def Comb.ofCode (b : BitVec 2) : Comb :=
  match b.toNat with | 1 => .and | 2 => .or | 3 => .xor | _ => .set
/-- The code of a field (R96). -/
def Rm.code : Rm → BitVec 2
  | .rn => 0 | .rz => 1 | .ru => 2 | .rd => 3
/-- The meaning of a code; a code with no meaning reads as the first, and its word is refused by `decode`. -/
def Rm.ofCode (b : BitVec 2) : Rm :=
  match b.toNat with | 1 => .rz | 2 => .ru | 3 => .rd | _ => .rn
/-- The code of a field (R99). -/
def Pol.code : Pol → BitVec 2
  | .sat => 0 | .inf => 1 | .nan => 2 | .trap => 3
/-- The meaning of a code; a code with no meaning reads as the first, and its word is refused by `decode`. -/
def Pol.ofCode (b : BitVec 2) : Pol :=
  match b.toNat with | 1 => .inf | 2 => .nan | 3 => .trap | _ => .sat
/-- The code of a field (R89). -/
def Fmt.code : Fmt → BitVec 4
  | .f32 => 0 | .f19 => 1 | .f16 => 2 | .b16 => 3 | .e5m2 => 4 | .e4m3 => 5 | .e3m4 => 6 | .lg8 => 7 | .i8 => 8 | .n8 => 9 | .e2m1 => 10 | .e1m2 => 11 | .i4 => 12 | .n4 => 13 | .i2 => 14 | .t2 => 15
/-- The meaning of a code; a code with no meaning reads as the first, and its word is refused by `decode`. -/
def Fmt.ofCode (b : BitVec 4) : Fmt :=
  match b.toNat with | 1 => .f19 | 2 => .f16 | 3 => .b16 | 4 => .e5m2 | 5 => .e4m3 | 6 => .e3m4 | 7 => .lg8 | 8 => .i8 | 9 => .n8 | 10 => .e2m1 | 11 => .e1m2 | 12 => .i4 | 13 => .n4 | 14 => .i2 | 15 => .t2 | _ => .f32
/-- The code of a field (R155). -/
def ClassFmt.code : ClassFmt → BitVec 2
  | .f32 => 0 | .f16 => 1 | .b16 => 2
/-- The meaning of a code; a code with no meaning reads as the first, and its word is refused by `decode`. -/
def ClassFmt.ofCode (b : BitVec 2) : ClassFmt :=
  match b.toNat with | 1 => .f16 | 2 => .b16 | _ => .f32
/-- The code of a field (R109). -/
def ShflMode.code : ShflMode → BitVec 2
  | .idx => 0 | .up => 1 | .down => 2 | .xor => 3
/-- The meaning of a code; a code with no meaning reads as the first, and its word is refused by `decode`. -/
def ShflMode.ofCode (b : BitVec 2) : ShflMode :=
  match b.toNat with | 1 => .up | 2 => .down | 3 => .xor | _ => .idx
/-- The code of a field (R109). -/
def ShflSeg.code : ShflSeg → BitVec 3
  | .seg32 => 0 | .seg16 => 1 | .seg8 => 2 | .seg4 => 3 | .seg2 => 4
/-- The meaning of a code; a code with no meaning reads as the first, and its word is refused by `decode`. -/
def ShflSeg.ofCode (b : BitVec 3) : ShflSeg :=
  match b.toNat with | 1 => .seg16 | 2 => .seg8 | 3 => .seg4 | 4 => .seg2 | _ => .seg32
/-- The code of a field (R109). -/
def CensusMode.code : CensusMode → BitVec 3
  | .any => 0 | .all => 1 | .same => 2 | .mask => 3 | .count => 4
/-- The meaning of a code; a code with no meaning reads as the first, and its word is refused by `decode`. -/
def CensusMode.ofCode (b : BitVec 3) : CensusMode :=
  match b.toNat with | 1 => .all | 2 => .same | 3 => .mask | 4 => .count | _ => .any
/-- The code of a field (R109). -/
def GredOp.code : GredOp → BitVec 3
  | .add => 0 | .min => 1 | .max => 2 | .and => 3 | .or => 4 | .xor => 5
/-- The meaning of a code; a code with no meaning reads as the first, and its word is refused by `decode`. -/
def GredOp.ofCode (b : BitVec 3) : GredOp :=
  match b.toNat with | 1 => .min | 2 => .max | 3 => .and | 4 => .or | 5 => .xor | _ => .add
/-- The code of a field (R109). -/
def GredTy.code : GredTy → BitVec 2
  | .i32 => 0 | .n32 => 1 | .f32 => 2
/-- The meaning of a code; a code with no meaning reads as the first, and its word is refused by `decode`. -/
def GredTy.ofCode (b : BitVec 2) : GredTy :=
  match b.toNat with | 1 => .n32 | 2 => .f32 | _ => .i32
/-- The code of a field (R225). -/
def Size.code : Size → BitVec 3
  | .b32 => 0 | .b64 => 1 | .b128 => 2 | .b8 => 3 | .b16 => 4
/-- The meaning of a code; a code with no meaning reads as the first, and its word is refused by `decode`. -/
def Size.ofCode (b : BitVec 3) : Size :=
  match b.toNat with | 1 => .b64 | 2 => .b128 | 3 => .b8 | 4 => .b16 | _ => .b32
/-- The code of a field (R225). -/
def Hint.code : Hint → BitVec 2
  | .n => 0 | .ef => 1 | .el => 2
/-- The meaning of a code; a code with no meaning reads as the first, and its word is refused by `decode`. -/
def Hint.ofCode (b : BitVec 2) : Hint :=
  match b.toNat with | 1 => .ef | 2 => .el | _ => .n
/-- The code of a field (R221). -/
def Scope.code : Scope → BitVec 3
  | .sys => 0 | .dev => 1 | .die => 2 | .clu => 3 | .team => 4 | .grp => 5 | .thr => 6
/-- The meaning of a code; a code with no meaning reads as the first, and its word is refused by `decode`. -/
def Scope.ofCode (b : BitVec 3) : Scope :=
  match b.toNat with | 1 => .dev | 2 => .die | 3 => .clu | 4 => .team | 5 => .grp | 6 => .thr | _ => .sys
/-- The code of a field (R221). -/
def Ord4.code : Ord4 → BitVec 2
  | .rlx => 0 | .acq => 1 | .rel => 2 | .ar => 3
/-- The meaning of a code; a code with no meaning reads as the first, and its word is refused by `decode`. -/
def Ord4.ofCode (b : BitVec 2) : Ord4 :=
  match b.toNat with | 1 => .acq | 2 => .rel | 3 => .ar | _ => .rlx
/-- The code of a field (R227). -/
def FeMode.code : FeMode → BitVec 2
  | .plain => 0 | .fe => 1 | .fec => 2
/-- The meaning of a code; a code with no meaning reads as the first, and its word is refused by `decode`. -/
def FeMode.ofCode (b : BitVec 2) : FeMode :=
  match b.toNat with | 1 => .fe | 2 => .fec | _ => .plain
/-- The code of a field (R230). -/
def AtomOp.code : AtomOp → BitVec 4
  | .add => 0 | .minI => 1 | .maxI => 2 | .minN => 3 | .maxN => 4 | .and => 5 | .or => 6 | .xor => 7 | .exch => 8 | .cas => 9 | .addF => 10 | .minF => 11 | .maxF => 12
/-- The meaning of a code; a code with no meaning reads as the first, and its word is refused by `decode`. -/
def AtomOp.ofCode (b : BitVec 4) : AtomOp :=
  match b.toNat with | 1 => .minI | 2 => .maxI | 3 => .minN | 4 => .maxN | 5 => .and | 6 => .or | 7 => .xor | 8 => .exch | 9 => .cas | 10 => .addF | 11 => .minF | 12 => .maxF | _ => .add
/-- The code of a field (R240). -/
def CpyRedOp.code : CpyRedOp → BitVec 3
  | .addF => 0 | .addI => 1 | .minF => 2 | .maxF => 3 | .minI => 4 | .maxI => 5
/-- The meaning of a code; a code with no meaning reads as the first, and its word is refused by `decode`. -/
def CpyRedOp.ofCode (b : BitVec 3) : CpyRedOp :=
  match b.toNat with | 1 => .addI | 2 => .minF | 3 => .maxF | 4 => .minI | 5 => .maxI | _ => .addF

/-- CVT's type codes (R163). -/
def CvtTy.code : CvtTy → BitVec 5
  | .el f => 0#1 ++ f.code | .i32 => 0x10 | .n32 => 0x11 | .i64 => 0x12 | .n64 => 0x13
/-- The meaning of a type code of CVT (R163). -/
def CvtTy.ofCode (b : BitVec 5) : CvtTy :=
  match b.toNat with
  | 0x10 => .i32 | 0x11 => .n32 | 0x12 => .i64 | 0x13 => .n64 | _ => .el (.ofCode (fld b 0 4))
/-- The formats that FA and FB choose among, in the order of their codes (R167). -/
def dpCode (l : List Fmt) (f : Fmt) : BitVec 3 := .ofNat 3 (l.idxOf f)
/-- The format a selector chooses (R167). -/
def dpOf (l : List Fmt) (b : BitVec 3) : Fmt := l.getD b.toNat .f32
/-- The code of a predicate or register destination (R128, R130). -/
def PDst.code : PDst → BitVec 9 | .pred p => 0#6 ++ p | .reg o => o.code
/-- Whether a destination is a predicate: MATCH's ALL bit (R130). -/
def PDst.isPred : PDst → Bool | .pred _ => true | .reg _ => false
/-- An optional field, 0 when it is not used (R49). -/
def optCode : Option Opnd → BitVec 9 | none => 0 | some o => o.code
/-- An optional scalar field (R228). -/
def optSCode : Option Nat → BitVec 9 | none => 0 | some n => .ofNat 9 n
/-- A block of scalars: 320 + 8k (R237, R250, R290, R339). -/
def blkCode (k : BitVec 4) : BitVec 9 := 0x140 + (0#2 ++ k ++ 0#3)

/-- The fields of a full-format word (R47). -/
structure Raw where
  op : BitVec 8
  pg : BitVec 3
  pn : Bool
  dst : BitVec 9
  sa : BitVec 9
  sb : BitVec 9
  yld : Bool
  gap : BitVec 3
  ka : Bool
  kb : Bool
  kc : Bool
  tail : BitVec 17
  deriving DecidableEq, Repr, Inhabited

/-- The fields of a word, by R47. -/
def Raw.split (w : W64) : Raw :=
  { op := fld w 55 8, pg := fld w 52 3, pn := bitOf w 51, dst := fld w 42 9, sa := fld w 33 9, sb := fld w 24 9,
    yld := bitOf w 23, gap := fld w 20 3, ka := bitOf w 19, kb := bitOf w 18, kc := bitOf w 17, tail := fld w 0 17 }
/-- The word of these fields, by R47. -/
def Raw.join (r : Raw) : W64 :=
  0#1 ++ r.op ++ r.pg ++ bit r.pn ++ r.dst ++ r.sa ++ r.sb ++ bit r.yld ++ r.gap ++ bit r.ka ++ bit r.kb ++ bit r.kc ++ r.tail
/-- SC, MOD of forms R3 and R2; MOD of form I; imm26 of form W (R48). -/
def Raw.sc (r : Raw) : BitVec 9 := fld r.tail 8 9
def Raw.md (r : Raw) : BitVec 8 := fld r.tail 0 8
def Raw.mdI (r : Raw) : BitVec 8 := fld r.sb 0 8
def Raw.imm26 (r : Raw) : BitVec 26 := r.sb ++ r.tail
/-- The shared fields; in class L, MOD[7] chooses the flag (R49). -/
def Raw.ctl (r : Raw) : Ctl :=
  { pg := r.pg, pn := r.pn, yld := r.yld, gap := r.gap, ka := r.ka, kb := r.kb, kc := r.kc, fb := false }
def Raw.ctlL (r : Raw) : Ctl := { r.ctl with fb := bitOf r.md 7 }
/-- A word of form R3 or R2 (SC = 0), of form I, of form W (R48). -/
def raw3 (op : BitVec 8) (c : Ctl) (dst sa sb sc : BitVec 9) (md : BitVec 8) : Raw :=
  { op, pg := c.pg, pn := c.pn, dst, sa, sb, yld := c.yld, gap := c.gap, ka := c.ka, kb := c.kb, kc := c.kc, tail := sc ++ md }
def rawI (op : BitVec 8) (c : Ctl) (dst sa : BitVec 9) (md : BitVec 8) (imm : BitVec 17) : Raw :=
  { op, pg := c.pg, pn := c.pn, dst, sa, sb := 0#1 ++ md, yld := c.yld, gap := c.gap, ka := c.ka, kb := c.kb, kc := c.kc, tail := imm }
def rawW (op : BitVec 8) (c : Ctl) (dst sa : BitVec 9) (imm : BitVec 26) : Raw :=
  { op, pg := c.pg, pn := c.pn, dst, sa, sb := fld imm 17 9, yld := c.yld, gap := c.gap, ka := c.ka, kb := c.kb, kc := c.kc, tail := fld imm 0 17 }

/-- MOVI's imm26 and SA (R119). -/
def MoviMode.imm : MoviMode → BitVec 26 | .const i => 0#2 ++ i | .ins _ i => 1#2 ++ 0#8 ++ i
def MoviMode.saCode : MoviMode → BitVec 9 | .const _ => 0 | .ins a _ => a.code
def MoviMode.ofRaw (r : Raw) : MoviMode :=
  if bitOf r.imm26 24 then .ins (.ofCode r.sa) (fld r.imm26 0 16) else .const (fld r.imm26 0 24)
/-- SMOVI's imm26 and SA (R135). -/
def SmoviMode.imm : SmoviMode → BitVec 26 | .const i => 0#2 ++ i | .ins _ i => 1#2 ++ 0#8 ++ i
def SmoviMode.saCode : SmoviMode → BitVec 9 | .const _ => 0 | .ins a _ => .ofNat 9 a
def SmoviMode.ofRaw (r : Raw) : SmoviMode :=
  if bitOf r.imm26 24 then .ins r.sa.toNat (fld r.imm26 0 16) else .const (fld r.imm26 0 24)

/-- The half-opcodes of R66, low and high halves, in order. -/
def Instr.half : Instr → Option (BitVec 6 × Half)
  | .halfNopLow h => some (0x01, h) | .halfIadd h => some (0x02, h) | .halfIsub h => some (0x03, h) | .halfImul h => some (0x04, h)
  | .halfIminI32 h => some (0x05, h) | .halfImaxI32 h => some (0x06, h) | .halfIminN32 h => some (0x07, h) | .halfImaxN32 h => some (0x08, h)
  | .halfShl h => some (0x09, h) | .halfShr h => some (0x0A, h) | .halfSra h => some (0x0B, h) | .halfAnd h => some (0x0C, h)
  | .halfOr h => some (0x0D, h) | .halfXor h => some (0x0E, h) | .halfMov h => some (0x0F, h)
  | .halfNopHigh h => some (0x21, h) | .halfFadd h => some (0x22, h) | .halfFsub h => some (0x23, h) | .halfFmul h => some (0x24, h)
  | .halfFmin h => some (0x25, h) | .halfFmax h => some (0x26, h) | .halfHadd2F16 h => some (0x27, h) | .halfHsub2F16 h => some (0x28, h)
  | .halfHmul2F16 h => some (0x29, h) | .halfHmin2F16 h => some (0x2A, h) | .halfHmax2F16 h => some (0x2B, h) | .halfHadd2B16 h => some (0x2C, h)
  | .halfHsub2B16 h => some (0x2D, h) | .halfHmul2B16 h => some (0x2E, h) | .halfHmin2B16 h => some (0x2F, h) | .halfHmax2B16 h => some (0x30, h)
  | _ => none
/-- The instruction of a half-opcode; an unassigned one has none (R64, R66). -/
def halfOf (hop : BitVec 6) (h : Half) : Option Instr :=
  match hop.toNat with
  | 0x01 => some (.halfNopLow h) | 0x02 => some (.halfIadd h) | 0x03 => some (.halfIsub h) | 0x04 => some (.halfImul h)
  | 0x05 => some (.halfIminI32 h) | 0x06 => some (.halfImaxI32 h) | 0x07 => some (.halfIminN32 h) | 0x08 => some (.halfImaxN32 h)
  | 0x09 => some (.halfShl h) | 0x0A => some (.halfShr h) | 0x0B => some (.halfSra h) | 0x0C => some (.halfAnd h)
  | 0x0D => some (.halfOr h) | 0x0E => some (.halfXor h) | 0x0F => some (.halfMov h)
  | 0x21 => some (.halfNopHigh h) | 0x22 => some (.halfFadd h) | 0x23 => some (.halfFsub h) | 0x24 => some (.halfFmul h)
  | 0x25 => some (.halfFmin h) | 0x26 => some (.halfFmax h) | 0x27 => some (.halfHadd2F16 h) | 0x28 => some (.halfHsub2F16 h)
  | 0x29 => some (.halfHmul2F16 h) | 0x2A => some (.halfHmin2F16 h) | 0x2B => some (.halfHmax2F16 h) | 0x2C => some (.halfHadd2B16 h)
  | 0x2D => some (.halfHsub2B16 h) | 0x2E => some (.halfHmul2B16 h) | 0x2F => some (.halfHmin2B16 h) | 0x30 => some (.halfHmax2B16 h)
  | _ => none
/-- The 31 bits of a half (R63), and its fields. -/
def halfJoin (hop : BitVec 6) (h : Half) : BitVec 31 :=
  hop ++ h.da.code ++ h.sb.code ++ h.pg ++ bit h.pn ++ bit h.ka ++ bit h.kb ++ 0#1
def halfSplit (x : BitVec 31) : Half :=
  { da := .ofCode (fld x 16 9), sb := .ofCode (fld x 7 9), pg := fld x 4 3, pn := bitOf x 3, ka := bitOf x 2, kb := bitOf x 1 }
/-- A half, if its bits are legal under R50, R51 and R64's last rule. -/
def decodeHalf (x : BitVec 31) : Option Instr :=
  match halfOf (fld x 25 6) (halfSplit x) with
  | some i => if i.wf && i.half.any (fun p => halfJoin p.1 p.2 == x) then some i else none
  | none => none
/-- The vector source reads of a half for the bank rule of R64: of a no-operation its SB alone. -/
def halfReads (x : BitVec 31) : List Nat :=
  let hop := (fld x 25 6).toNat
  let regs (b : BitVec 9) := if b.toNat < 320 then [b.toNat] else []
  (if hop == 0x0F || hop == 0x01 || hop == 0x21 then [] else regs (fld x 16 9)) ++ regs (fld x 7 9)
/-- The rules of R64 that trap ILLPAIR: classes, destinations, banks of sources and of destinations. -/
def pairOk (lo hi : BitVec 31) : Bool :=
  let hl := (fld lo 25 6).toNat
  let hh := (fld hi 25 6).toNat
  let dl := (fld lo 16 9).toNat
  let dh := (fld hi 16 9).toNat
  let reads := halfReads lo ++ halfReads hi
  (0x21 ≤ hh && 0x01 ≤ hl && hl ≤ 0x1F) && (hl == 0x01 || dl < 320) && (hh == 0x21 || dh < 320)
    && (List.range 4).all (fun b => (reads.filter (· % 4 == b)).length ≤ 2)
    && (hl == 0x01 || hh == 0x21 || dl % 4 != dh % 4)
/-- A pair word (R62). -/
def decodePair (w : W64) : Decoded :=
  let lo := fld w 1 31
  let hi := fld w 32 31
  if pairOk lo hi then
    match decodeHalf lo, decodeHalf hi with
    | some l, some h => .pair l h (bitOf w 0)
    | _, _ => .bad .illop
  else .bad .illpair
/-- The word of two halves. -/
def encodePair (lo hi : Instr) (yld : Bool) : Option W64 :=
  match lo.half, hi.half with
  | some l, some h => some (1#1 ++ halfJoin h.1 h.2 ++ halfJoin l.1 l.2 ++ bit yld)
  | _, _ => none

/-- A clause header's word (R56). -/
def headerWord (wait : BitVec 12) (seta setb : BitVec 4) (len : BitVec 5) : W64 :=
  0#1 ++ 0xFF#8 ++ wait ++ seta ++ setb ++ len ++ 0#30
/-- A word with OP 0xFF (R56, R57). -/
def decodeHeader (w : W64) : Decoded :=
  let i := Instr.clauseHeader (fld w 43 12) (fld w 39 4) (fld w 35 4) (fld w 30 5)
  if i.wf && fld w 0 30 == 0 then .one i else .bad .illclause

/-- The fields of every full-format instruction, from the encoding tables (R109, R119 to R135, R151, R155, R164, R220 to
R243, R271, R306, R344). -/
def Instr.raw : Instr → Option Raw
  | .nop c => some (raw3 0x01 c 448#9 0 0 0 0)
  | .iaddRegisters c d a b t sat w => some (raw3 0x02 c d.code a.code b.code 0 (0#1 ++ (bit w) ++ 0#4 ++ (bit sat) ++ t.code))
  | .iaddImmediate c d a imm t sat w => some (rawI 0x03 c d.code a.code (0#1 ++ (bit w) ++ 0#4 ++ (bit sat) ++ t.code) imm)
  | .isub c d a b t sat w => some (raw3 0x04 c d.code a.code b.code 0 (0#1 ++ (bit w) ++ 0#4 ++ (bit sat) ++ t.code))
  | .imulRegisters c d a b => some (raw3 0x05 c d.code a.code b.code 0 0)
  | .imulImmediate c d a imm => some (rawI 0x06 c d.code a.code 0 imm)
  | .imulh c d a b t => some (raw3 0x07 c d.code a.code b.code 0 (0#7 ++ t.code))
  | .imad c d a b e => some (raw3 0x08 c d.code a.code b.code e.code 0)
  | .imadw c d a b e t => some (raw3 0x09 c d.code a.code b.code e.code (0#7 ++ t.code))
  | .idiv c d a b t => some (raw3 0x0A c d.code a.code b.code 0 (0#7 ++ t.code))
  | .irem c d a b t => some (raw3 0x0B c d.code a.code b.code 0 (0#7 ++ t.code))
  | .imin c d a b t => some (raw3 0x0C c d.code a.code b.code 0 (0#7 ++ t.code))
  | .imax c d a b t => some (raw3 0x0D c d.code a.code b.code 0 (0#7 ++ t.code))
  | .iabs c d a sat => some (raw3 0x0E c d.code a.code 0 0 (0#6 ++ (bit sat) ++ 0#1))
  | .isad c d a b e t => some (raw3 0x0F c d.code a.code b.code e.code (0#7 ++ t.code))
  | .shlRegisters c d a b => some (raw3 0x10 c d.code a.code b.code 0 0)
  | .shlImmediate c d a n => some (rawI 0x11 c d.code a.code 0 (0#12 ++ n))
  | .shrRegisters c d a b => some (raw3 0x12 c d.code a.code b.code 0 0)
  | .shrImmediate c d a n => some (rawI 0x13 c d.code a.code 0 (0#12 ++ n))
  | .sraRegisters c d a b => some (raw3 0x14 c d.code a.code b.code 0 0)
  | .sraImmediate c d a n => some (rawI 0x15 c d.code a.code 0 (0#12 ++ n))
  | .shf c d a b e right => some (raw3 0x16 c d.code a.code b.code e.code (0#7 ++ (bit right)))
  | .rot c d a b right => some (raw3 0x17 c d.code a.code b.code 0 (0#7 ++ (bit right)))
  | .andRegisters c d a b => some (raw3 0x18 c d.code a.code b.code 0 0)
  | .andImmediate c d a imm => some (rawI 0x19 c d.code a.code 0 imm)
  | .orRegisters c d a b => some (raw3 0x1A c d.code a.code b.code 0 0)
  | .orImmediate c d a imm => some (rawI 0x1B c d.code a.code 0 imm)
  | .xorRegisters c d a b => some (raw3 0x1C c d.code a.code b.code 0 0)
  | .xorImmediate c d a imm => some (rawI 0x1D c d.code a.code 0 imm)
  | .bool3 c d a b e g0 g1 => some (raw3 0x1E c d.code a.code b.code e.code (g0 ++ g1))
  | .popc c d a => some (raw3 0x1F c d.code a.code 0 0 0)
  | .clz c d a => some (raw3 0x20 c d.code a.code 0 0 0)
  | .ctz c d a => some (raw3 0x21 c d.code a.code 0 0 0)
  | .brev c d a => some (raw3 0x22 c d.code a.code 0 0 0)
  | .bfx c d a b e t => some (raw3 0x23 c d.code a.code b.code e.code (0#7 ++ t.code))
  | .bfi c d a b e => some (raw3 0x24 c d.code a.code b.code e.code 0)
  | .bshuf c d a b e => some (raw3 0x25 c d.code a.code b.code e.code 0)
  | .leaRegisters c d a b e n => some (raw3 0x26 c d.code a.code b.code e.code (0#3 ++ n))
  | .leaImmediate c d a imm n => some (rawI 0x27 c d.code a.code (0#3 ++ n) imm)
  | .mov c d a w => some (raw3 0x28 c d.code a.code 0 0 (0#1 ++ (bit w) ++ 0#6))
  | .movi c d m => some (rawW 0x29 c d.code m.saCode m.imm)
  | .sel c d a b p neg w => some (raw3 0x2A c d.code a.code b.code 0 (0#1 ++ (bit w) ++ 0#2 ++ (bit neg) ++ p))
  | .saddRegisters c d a b => some (raw3 0x2B c (.ofNat 9 d) (.ofNat 9 a) (.ofNat 9 b) 0 0)
  | .saddImmediate c d a imm => some (rawI 0x2C c (.ofNat 9 d) (.ofNat 9 a) 0 imm)
  | .ssub c d a b => some (raw3 0x2D c (.ofNat 9 d) (.ofNat 9 a) (.ofNat 9 b) 0 0)
  | .smul c d a b => some (raw3 0x2E c (.ofNat 9 d) (.ofNat 9 a) (.ofNat 9 b) 0 0)
  | .smulh c d a b t => some (raw3 0x2F c (.ofNat 9 d) (.ofNat 9 a) (.ofNat 9 b) 0 (0#7 ++ t.code))
  | .sandRegisters c d a b => some (raw3 0x30 c (.ofNat 9 d) (.ofNat 9 a) (.ofNat 9 b) 0 0)
  | .sandImmediate c d a imm => some (rawI 0x31 c (.ofNat 9 d) (.ofNat 9 a) 0 imm)
  | .sor c d a b => some (raw3 0x32 c (.ofNat 9 d) (.ofNat 9 a) (.ofNat 9 b) 0 0)
  | .sxor c d a b => some (raw3 0x33 c (.ofNat 9 d) (.ofNat 9 a) (.ofNat 9 b) 0 0)
  | .sshlRegisters c d a b => some (raw3 0x34 c (.ofNat 9 d) (.ofNat 9 a) (.ofNat 9 b) 0 0)
  | .sshlImmediate c d a n => some (rawI 0x35 c (.ofNat 9 d) (.ofNat 9 a) 0 (0#11 ++ n))
  | .sshrRegisters c d a b => some (raw3 0x36 c (.ofNat 9 d) (.ofNat 9 a) (.ofNat 9 b) 0 0)
  | .sshrImmediate c d a n => some (rawI 0x37 c (.ofNat 9 d) (.ofNat 9 a) 0 (0#11 ++ n))
  | .ssra c d a b => some (raw3 0x38 c (.ofNat 9 d) (.ofNat 9 a) (.ofNat 9 b) 0 0)
  | .smin c d a b t => some (raw3 0x39 c (.ofNat 9 d) (.ofNat 9 a) (.ofNat 9 b) 0 (0#7 ++ t.code))
  | .smax c d a b t => some (raw3 0x3A c (.ofNat 9 d) (.ofNat 9 a) (.ofNat 9 b) 0 (0#7 ++ t.code))
  | .sset c d a b cmp t => some (raw3 0x3B c (.ofNat 9 d) (.ofNat 9 a) (.ofNat 9 b) 0 (0#4 ++ t.code ++ cmp.code))
  | .ssel c d a b all => some (raw3 0x3C c (.ofNat 9 d) (.ofNat 9 a) (.ofNat 9 b) 0 (0#7 ++ (bit all)))
  | .smov c d a => some (raw3 0x3D c (.ofNat 9 d) (.ofNat 9 a) 0 0 0)
  | .smovi c d m => some (rawW 0x3E c (.ofNat 9 d) m.saCode m.imm)
  | .slea c d a b e n => some (raw3 0x3F c (.ofNat 9 d) (.ofNat 9 a) (.ofNat 9 b) (.ofNat 9 e) (0#2 ++ n))
  | .isetRegisters c p a b cmp t comb => some (raw3 0x40 c (0#6 ++ p) a.code b.code 0 (0#2 ++ comb.code ++ t.code ++ cmp.code))
  | .isetImmediate c p a imm cmp t comb => some (rawI 0x41 c (0#6 ++ p) a.code (0#2 ++ comb.code ++ t.code ++ cmp.code) imm)
  | .plop c p pa pb lut => some (raw3 0x42 c (0#6 ++ p) (0#6 ++ pa) (0#6 ++ pb) 0 (0#4 ++ lut))
  | .p2v c d => some (raw3 0x43 c d.code 0 0 0 0)
  | .v2p c a mask => some (raw3 0x44 c 448#9 a.code 0 0 (0#1 ++ mask))
  | .vshape c d a => some (raw3 0x45 c d.code a.code 0 0 0)
  | .vwiden c d a => some (raw3 0x46 c d.code a.code 0 0 0)
  | .shfl c d a b mode seg => some (raw3 0x47 c d.code a.code b.code 0 (0#3 ++ seg.code ++ mode.code))
  | .census c d mode q neg => some (raw3 0x48 c d.code 0 0 0 (0#1 ++ (bit neg) ++ q ++ mode.code))
  | .gred c d a op ty => some (raw3 0x49 c d.code a.code 0 0 (0#3 ++ ty.code ++ op.code))
  | .matchLanes c d a w => some (raw3 0x4A c d.code a.code 0 0 (0#6 ++ (bit d.isPred) ++ (bit w)))
  | .vbcast c d a b => some (raw3 0x4B c d.code a.code b.code 0 0)
  | .vlane c d a b => some (raw3 0x4C c d.code a.code b.code 0 0)
  | .bra c imm => some (rawW 0x50 c 0 0 imm)
  | .brx c a => some (raw3 0x51 c 448#9 a.code 0 0 0)
  | .call c d imm => some (rawW 0x52 c d.code 0 imm)
  | .callx c d a => some (raw3 0x53 c d.code a.code 0 0 0)
  | .ret c a => some (raw3 0x54 c 448#9 a.code 0 0 0)
  | .exit c => some (raw3 0x55 c 448#9 0 0 0 0)
  | .jset c n src => some (raw3 0x56 c (0#5 ++ n) (optCode src) 0 0 (0#7 ++ (bit src.isSome)))
  | .jarr c n => some (raw3 0x57 c (0#5 ++ n) 0 0 0 0)
  | .jdrop c n => some (raw3 0x58 c (0#5 ++ n) 0 0 0 0)
  | .jread c d n => some (raw3 0x59 c d.code (0#5 ++ n) 0 0 0)
  | .waitf c mask => some (raw3 0x5A c 448#9 0 (0#5 ++ fld mask 8 4) 0 (fld mask 0 8))
  | .sleep c a => some (raw3 0x5B c 448#9 a.code 0 0 0)
  | .faddRegisters c d a b rm f19 => some (raw3 0x60 c d.code a.code b.code 0 (0#5 ++ (bit f19) ++ rm.code))
  | .faddImmediate c d a imm rm f19 => some (rawI 0x61 c d.code a.code (0#5 ++ (bit f19) ++ rm.code) imm)
  | .fsub c d a b rm f19 => some (raw3 0x62 c d.code a.code b.code 0 (0#5 ++ (bit f19) ++ rm.code))
  | .fmulRegisters c d a b rm f19 => some (raw3 0x63 c d.code a.code b.code 0 (0#5 ++ (bit f19) ++ rm.code))
  | .fmulImmediate c d a imm rm f19 => some (rawI 0x64 c d.code a.code (0#5 ++ (bit f19) ++ rm.code) imm)
  | .ffma c d a b e rm f19 np nc => some (raw3 0x65 c d.code a.code b.code e.code (0#3 ++ (bit nc) ++ (bit np) ++ (bit f19) ++ rm.code))
  | .fmin c d a b => some (raw3 0x66 c d.code a.code b.code 0 0)
  | .fmax c d a b => some (raw3 0x67 c d.code a.code b.code 0 0)
  | .fsetRegisters c p a b cmp comb => some (raw3 0x68 c (0#6 ++ p) a.code b.code 0 (0#2 ++ comb.code ++ 0#1 ++ cmp.code))
  | .fsetImmediate c p a imm cmp comb => some (rawI 0x69 c (0#6 ++ p) a.code (0#2 ++ comb.code ++ 0#1 ++ cmp.code) imm)
  | .fclass c d a fmt => some (raw3 0x6A c d.code a.code 0 0 (0#6 ++ fmt.code))
  | .frnd c d a rm => some (raw3 0x6B c d.code a.code 0 0 (0#6 ++ rm.code))
  | .fscale c d a b rm => some (raw3 0x6C c d.code a.code b.code 0 (0#6 ++ rm.code))
  | .frcp c d a rm => some (raw3 0x70 c d.code a.code 0 0 (0#6 ++ rm.code))
  | .frsq c d a => some (raw3 0x71 c d.code a.code 0 0 0)
  | .fsqrt c d a rm => some (raw3 0x72 c d.code a.code 0 0 (0#6 ++ rm.code))
  | .fexp2 c d a => some (raw3 0x73 c d.code a.code 0 0 0)
  | .flog2 c d a => some (raw3 0x74 c d.code a.code 0 0 0)
  | .fsin c d a => some (raw3 0x75 c d.code a.code 0 0 0)
  | .fcos c d a => some (raw3 0x76 c d.code a.code 0 0 0)
  | .ftanh c d a => some (raw3 0x77 c d.code a.code 0 0 0)
  | .hadd2 c d a b rm b16 => some (raw3 0x80 c d.code a.code b.code 0 (0#5 ++ (bit b16) ++ rm.code))
  | .hsub2 c d a b rm b16 => some (raw3 0x81 c d.code a.code b.code 0 (0#5 ++ (bit b16) ++ rm.code))
  | .hmul2 c d a b rm b16 => some (raw3 0x82 c d.code a.code b.code 0 (0#5 ++ (bit b16) ++ rm.code))
  | .hfma2 c d a b e rm b16 => some (raw3 0x83 c d.code a.code b.code e.code (0#5 ++ (bit b16) ++ rm.code))
  | .hmin2 c d a b b16 => some (raw3 0x84 c d.code a.code b.code 0 (0#5 ++ (bit b16) ++ 0#2))
  | .hmax2 c d a b b16 => some (raw3 0x85 c d.code a.code b.code 0 (0#5 ++ (bit b16) ++ 0#2))
  | .hset2 c d a b cmp b16 => some (raw3 0x86 c d.code a.code b.code 0 (0#1 ++ cmp.code ++ 0#1 ++ (bit b16) ++ 0#2))
  | .cvt c d a dt sty rm pol => some (raw3 0x88 c d.code a.code (0#2 ++ pol.code ++ sty.code) 0 (0#1 ++ rm.code ++ dt.code))
  | .pack c d a b e fmt rm pol => some (raw3 0x89 c d.code a.code b.code e.code (pol.code ++ rm.code ++ fmt.code))
  | .unpack c d a b fmt int => some (raw3 0x8A c d.code a.code b.code 0 (0#3 ++ (bit int) ++ fmt.code))
  | .dp2h c d a b e fa fb rm => some (raw3 0x90 c d.code a.code b.code e.code (rm.code ++ (dpCode [.f16, .b16] fb) ++ (dpCode [.f16, .b16] fa)))
  | .dp4 c d a b e fa fb rm => some (raw3 0x91 c d.code a.code b.code e.code (rm.code ++ (dpCode [.e5m2, .e4m3, .e3m4, .lg8, .i8, .n8] fb) ++ (dpCode [.e5m2, .e4m3, .e3m4, .lg8, .i8, .n8] fa)))
  | .dp8 c d a b e fa fb rm => some (raw3 0x92 c d.code a.code b.code e.code (rm.code ++ (dpCode [.e2m1, .e1m2, .i4, .n4] fb) ++ (dpCode [.e2m1, .e1m2, .i4, .n4] fa)))
  | .dp16 c d a b e fa fb rm => some (raw3 0x93 c d.code a.code b.code e.code (rm.code ++ (dpCode [.i2, .t2] fb) ++ (dpCode [.i2, .t2] fa)))
  | .ld c d a b sz sx hint is => some (raw3 0xA0 c d.code a.code b.code 0 ((bit c.fb) ++ (bit is) ++ hint.code ++ (bit sx) ++ sz.code))
  | .st c a b e sz hint is => some (raw3 0xA1 c 448#9 a.code b.code e.code ((bit c.fb) ++ (bit is) ++ hint.code ++ 0#1 ++ sz.code))
  | .lda c d a b w sc is => some (raw3 0xA2 c d.code a.code b.code 0 ((bit c.fb) ++ (bit is) ++ 0#2 ++ sc.code ++ (bit w)))
  | .strel c a b e w sc lazy is => some (raw3 0xA3 c 448#9 a.code b.code e.code ((bit c.fb) ++ (bit is) ++ 0#1 ++ (bit lazy) ++ sc.code ++ (bit w)))
  | .lds c d a b sz sx fe => some (raw3 0xA4 c d.code a.code b.code 0 ((bit c.fb) ++ 0#1 ++ fe.code ++ (bit sx) ++ sz.code))
  | .sts c a b e sz fe => some (raw3 0xA5 c 448#9 a.code b.code e.code ((bit c.fb) ++ 0#2 ++ (bit fe) ++ 0#1 ++ sz.code))
  | .sld c d a b sz sx hint => some (raw3 0xA6 c (.ofNat 9 d) (.ofNat 9 a) (optSCode b) 0 ((bit c.fb) ++ (bit b.isSome) ++ hint.code ++ (bit sx) ++ sz.code))
  | .sst c a b e sz hint => some (raw3 0xA7 c (.ofNat 9 e) (.ofNat 9 a) (optSCode b) 0 ((bit c.fb) ++ (bit b.isSome) ++ hint.code ++ 0#1 ++ sz.code))
  | .atom c d a e op w sc ord => some (raw3 0xA8 c d.code a.code (0#4 ++ ord.code ++ sc.code) e.code ((bit c.fb) ++ 0#2 ++ (bit w) ++ op.code))
  | .atoms c d a e op w sc ord => some (raw3 0xA9 c d.code a.code (0#4 ++ ord.code ++ sc.code) e.code ((bit c.fb) ++ 0#2 ++ (bit w) ++ op.code))
  | .red c a e op w sc ord => some (raw3 0xAA c 448#9 a.code (0#4 ++ ord.code ++ sc.code) e.code ((bit c.fb) ++ 0#2 ++ (bit w) ++ op.code))
  | .fence c ord sc => some (raw3 0xB0 c 448#9 0 0 0 ((bit c.fb) ++ 0#2 ++ sc.code ++ ord.code))
  | .publish c a b is len => some (raw3 0xB1 c 448#9 a.code b.code (optCode len) ((bit c.fb) ++ (bit is) ++ 0#5 ++ (bit len.isSome)))
  | .pref c a b is len l1 hint => some (raw3 0xB2 c 448#9 a.code b.code (optCode len) ((bit c.fb) ++ (bit is) ++ hint.code ++ 0#2 ++ (bit l1) ++ (bit len.isSome)))
  | .clean c a b is len => some (raw3 0xB3 c 448#9 a.code b.code (optCode len) ((bit c.fb) ++ (bit is) ++ 0#5 ++ (bit len.isSome)))
  | .inval c a b is len => some (raw3 0xB4 c 448#9 a.code b.code (optCode len) ((bit c.fb) ++ (bit is) ++ 0#5 ++ (bit len.isSome)))
  | .feset c a b e => some (raw3 0xB8 c 448#9 a.code b.code e.code ((bit c.fb) ++ 0#7))
  | .feclr c a b e => some (raw3 0xB9 c 448#9 a.code b.code e.code ((bit c.fb) ++ 0#7))
  | .fewait c a b e empty => some (raw3 0xBA c 448#9 a.code b.code e.code ((bit c.fb) ++ 0#6 ++ (bit empty)))
  | .tsrset c d a k => some (raw3 0xC0 c d.code a.code (blkCode k) 0 ((bit c.fb) ++ 0#7))
  | .cpyin c t k dsc => some (raw3 0xC1 c 448#9 (.ofNat 9 (320 + t)) (.ofNat 9 (320 + k)) (.ofNat 9 (320 + dsc)) ((bit c.fb) ++ 0#7))
  | .cpyout c t k dsc => some (raw3 0xC2 c 448#9 (.ofNat 9 (320 + t)) (.ofNat 9 (320 + k)) (.ofNat 9 (320 + dsc)) ((bit c.fb) ++ 0#7))
  | .cpyobG c t k ob => some (raw3 0xC3 c 448#9 (.ofNat 9 (320 + t)) (.ofNat 9 (320 + k)) (.ofNat 9 (320 + ob)) ((bit c.fb) ++ 0#5 ++ 0#2))
  | .cpyobS c a len ob => some (raw3 0xC3 c 448#9 a.code len.code (.ofNat 9 (320 + ob)) ((bit c.fb) ++ 0#5 ++ 1#2))
  | .cpyobO c a len ob => some (raw3 0xC3 c 448#9 a.code len.code (.ofNat 9 (320 + ob)) ((bit c.fb) ++ 0#5 ++ 2#2))
  | .cpyred c t k dsc op => some (raw3 0xC4 c 448#9 (.ofNat 9 (320 + t)) (.ofNat 9 (320 + k)) (.ofNat 9 (320 + dsc)) ((bit c.fb) ++ 0#4 ++ op.code))
  | .cpypf c t k hint => some (raw3 0xC5 c 448#9 (.ofNat 9 (320 + t)) (.ofNat 9 (320 + k)) 0 ((bit c.fb) ++ 0#1 ++ hint.code ++ 0#4))
  | .cpycan c mask => some (raw3 0xC6 c 448#9 0 (0#5 ++ fld mask 8 4) (0#1 ++ fld mask 0 8) ((bit c.fb) ++ 0#7))
  | .obres c d a => some (raw3 0xD0 c d.code (.ofNat 9 (320 + a)) 0 0 ((bit c.fb) ++ 0#7))
  | .obrel c a => some (raw3 0xD1 c 448#9 a.code 0 0 ((bit c.fb) ++ 0#7))
  | .obput c a b e w128 => some (raw3 0xD2 c 448#9 (.ofNat 9 (320 + a)) b.code e.code ((bit c.fb) ++ 0#6 ++ (bit w128)))
  | .obget c d a b w128 => some (raw3 0xD3 c d.code (.ofNat 9 (320 + a)) b.code 0 ((bit c.fb) ++ 0#6 ++ (bit w128)))
  | .mzero c d a => some (raw3 0xD4 c (.ofNat 9 d) (.ofNat 9 (320 + a)) 0 0 ((bit c.fb) ++ 0#7))
  | .mready c a n => some (raw3 0xD5 c 448#9 (.ofNat 9 a) n 0 ((bit c.fb) ++ 0#7))
  | .mloop c d k => some (raw3 0xD6 c (.ofNat 9 d) (blkCode k) 0 0 ((bit c.fb) ++ 0#7))
  | .freeze c d x k => some (raw3 0xE0 c d.code (.ofNat 9 x) (blkCode k) 0 ((bit c.fb) ++ 0#7))
  | .stamp c d a b => some (raw3 0xE1 c d.code a.code (.ofNat 9 (320 + b)) 0 ((bit c.fb) ++ 0#7))
  | .spawn c e v n t => some (raw3 0xE2 c 448#9 (.ofNat 9 (320 + e)) v.code t.code ((bit c.fb) ++ 0#4 ++ n))
  | .tdrop c a => some (raw3 0xE3 c 448#9 a.code 0 0 ((bit c.fb) ++ 0#7))
  | .tinfo c d a which => some (raw3 0xE4 c d.code a.code 0 0 ((bit c.fb) ++ 0#4 ++ which))
  | .barArv c n => some (raw3 0xE5 c 448#9 0 0 0 ((bit c.fb) ++ 0#1 ++ 0#2 ++ n))
  | .barArr c n => some (raw3 0xE5 c 448#9 0 0 0 ((bit c.fb) ++ 0#1 ++ 1#2 ++ n))
  | .barExp c d n a => some (raw3 0xE5 c d.code a.code 0 0 ((bit c.fb) ++ 0#1 ++ 2#2 ++ n))
  | .racq c d i => some (raw3 0xE6 c d.code 0 0 0 ((bit c.fb) ++ 0#4 ++ i))
  | .rpub c i => some (raw3 0xE7 c 448#9 0 0 0 ((bit c.fb) ++ 0#4 ++ i))
  | .rtake c d i => some (raw3 0xE8 c d.code 0 0 0 ((bit c.fb) ++ 0#4 ++ i))
  | .rdone c i => some (raw3 0xE9 c 448#9 0 0 0 ((bit c.fb) ++ 0#4 ++ i))
  | .send c l k r posted rel => some (raw3 0xEA c 448#9 (.ofNat 9 (320 + l)) (.ofNat 9 (320 + k)) (.ofNat 9 (320 + r)) ((bit c.fb) ++ 0#5 ++ (bit rel) ++ (bit posted)))
  | .fget c l k r acq => some (raw3 0xEB c 448#9 (.ofNat 9 (320 + l)) (.ofNat 9 (320 + k)) (.ofNat 9 (320 + r)) ((bit c.fb) ++ 0#5 ++ (bit acq) ++ 0#1))
  | .dalloc c d a => some (raw3 0xEC c d.code a.code 0 0 ((bit c.fb) ++ 0#7))
  | .dfree c a b => some (raw3 0xED c 448#9 a.code b.code 0 ((bit c.fb) ++ 0#7))
  | .live c k => some (rawI 0xF0 c 448#9 0 0 (0#5 ++ k))
  | .trap c imm => some (rawI 0xF1 c 448#9 0 0 imm)
  | .bkpt c imm => some (rawI 0xF9 c 448#9 0 0 imm)
  | .hcall c d k => some (raw3 0xF2 c d.code 0 (blkCode k) 0 ((bit c.fb) ++ 0#7))
  | .qsig c d q k => some (raw3 0xF3 c d.code (.ofNat 9 (320 + q)) (blkCode k) 0 ((bit c.fb) ++ 0#7))
  | .srd c d n => some (raw3 0xF4 c (.ofNat 9 d) 0 n 0 0)
  | .swr c n e => some (raw3 0xF5 c (.ofNat 9 e) 0 n 0 0)
  | .ipf c a b l1 => some (raw3 0xF6 c 448#9 (.ofNat 9 (320 + a)) b.code 0 ((bit c.fb) ++ 0#6 ++ (bit l1)))
  | .ipin c a b l1 => some (raw3 0xF7 c 448#9 (.ofNat 9 (320 + a)) b.code 0 ((bit c.fb) ++ 0#6 ++ (bit l1)))
  | .iunpin c a b l1 => some (raw3 0xF8 c 448#9 (.ofNat 9 (320 + a)) b.code 0 ((bit c.fb) ++ 0#6 ++ (bit l1)))
  | _ => none

/-- The instruction whose fields these would be, by its opcode (R67); an unassigned opcode has none. -/
def parse (r : Raw) : Option Instr :=
  match r.op.toNat with
  | 0x01 => some (.nop r.ctl)
  | 0x02 => some (.iaddRegisters r.ctl (.ofCode r.dst) (.ofCode r.sa) (.ofCode r.sb) (.ofCode (fld r.md 0 1)) (bitOf r.md 1) (bitOf r.md 6))
  | 0x03 => some (.iaddImmediate r.ctl (.ofCode r.dst) (.ofCode r.sa) r.tail (.ofCode (fld r.mdI 0 1)) (bitOf r.mdI 1) (bitOf r.mdI 6))
  | 0x04 => some (.isub r.ctl (.ofCode r.dst) (.ofCode r.sa) (.ofCode r.sb) (.ofCode (fld r.md 0 1)) (bitOf r.md 1) (bitOf r.md 6))
  | 0x05 => some (.imulRegisters r.ctl (.ofCode r.dst) (.ofCode r.sa) (.ofCode r.sb))
  | 0x06 => some (.imulImmediate r.ctl (.ofCode r.dst) (.ofCode r.sa) r.tail)
  | 0x07 => some (.imulh r.ctl (.ofCode r.dst) (.ofCode r.sa) (.ofCode r.sb) (.ofCode (fld r.md 0 1)))
  | 0x08 => some (.imad r.ctl (.ofCode r.dst) (.ofCode r.sa) (.ofCode r.sb) (.ofCode r.sc))
  | 0x09 => some (.imadw r.ctl (.ofCode r.dst) (.ofCode r.sa) (.ofCode r.sb) (.ofCode r.sc) (.ofCode (fld r.md 0 1)))
  | 0x0A => some (.idiv r.ctl (.ofCode r.dst) (.ofCode r.sa) (.ofCode r.sb) (.ofCode (fld r.md 0 1)))
  | 0x0B => some (.irem r.ctl (.ofCode r.dst) (.ofCode r.sa) (.ofCode r.sb) (.ofCode (fld r.md 0 1)))
  | 0x0C => some (.imin r.ctl (.ofCode r.dst) (.ofCode r.sa) (.ofCode r.sb) (.ofCode (fld r.md 0 1)))
  | 0x0D => some (.imax r.ctl (.ofCode r.dst) (.ofCode r.sa) (.ofCode r.sb) (.ofCode (fld r.md 0 1)))
  | 0x0E => some (.iabs r.ctl (.ofCode r.dst) (.ofCode r.sa) (bitOf r.md 1))
  | 0x0F => some (.isad r.ctl (.ofCode r.dst) (.ofCode r.sa) (.ofCode r.sb) (.ofCode r.sc) (.ofCode (fld r.md 0 1)))
  | 0x10 => some (.shlRegisters r.ctl (.ofCode r.dst) (.ofCode r.sa) (.ofCode r.sb))
  | 0x11 => some (.shlImmediate r.ctl (.ofCode r.dst) (.ofCode r.sa) (fld r.tail 0 5))
  | 0x12 => some (.shrRegisters r.ctl (.ofCode r.dst) (.ofCode r.sa) (.ofCode r.sb))
  | 0x13 => some (.shrImmediate r.ctl (.ofCode r.dst) (.ofCode r.sa) (fld r.tail 0 5))
  | 0x14 => some (.sraRegisters r.ctl (.ofCode r.dst) (.ofCode r.sa) (.ofCode r.sb))
  | 0x15 => some (.sraImmediate r.ctl (.ofCode r.dst) (.ofCode r.sa) (fld r.tail 0 5))
  | 0x16 => some (.shf r.ctl (.ofCode r.dst) (.ofCode r.sa) (.ofCode r.sb) (.ofCode r.sc) (bitOf r.md 0))
  | 0x17 => some (.rot r.ctl (.ofCode r.dst) (.ofCode r.sa) (.ofCode r.sb) (bitOf r.md 0))
  | 0x18 => some (.andRegisters r.ctl (.ofCode r.dst) (.ofCode r.sa) (.ofCode r.sb))
  | 0x19 => some (.andImmediate r.ctl (.ofCode r.dst) (.ofCode r.sa) r.tail)
  | 0x1A => some (.orRegisters r.ctl (.ofCode r.dst) (.ofCode r.sa) (.ofCode r.sb))
  | 0x1B => some (.orImmediate r.ctl (.ofCode r.dst) (.ofCode r.sa) r.tail)
  | 0x1C => some (.xorRegisters r.ctl (.ofCode r.dst) (.ofCode r.sa) (.ofCode r.sb))
  | 0x1D => some (.xorImmediate r.ctl (.ofCode r.dst) (.ofCode r.sa) r.tail)
  | 0x1E => some (.bool3 r.ctl (.ofCode r.dst) (.ofCode r.sa) (.ofCode r.sb) (.ofCode r.sc) (fld r.md 4 4) (fld r.md 0 4))
  | 0x1F => some (.popc r.ctl (.ofCode r.dst) (.ofCode r.sa))
  | 0x20 => some (.clz r.ctl (.ofCode r.dst) (.ofCode r.sa))
  | 0x21 => some (.ctz r.ctl (.ofCode r.dst) (.ofCode r.sa))
  | 0x22 => some (.brev r.ctl (.ofCode r.dst) (.ofCode r.sa))
  | 0x23 => some (.bfx r.ctl (.ofCode r.dst) (.ofCode r.sa) (.ofCode r.sb) (.ofCode r.sc) (.ofCode (fld r.md 0 1)))
  | 0x24 => some (.bfi r.ctl (.ofCode r.dst) (.ofCode r.sa) (.ofCode r.sb) (.ofCode r.sc))
  | 0x25 => some (.bshuf r.ctl (.ofCode r.dst) (.ofCode r.sa) (.ofCode r.sb) (.ofCode r.sc))
  | 0x26 => some (.leaRegisters r.ctl (.ofCode r.dst) (.ofCode r.sa) (.ofCode r.sb) (.ofCode r.sc) (fld r.md 0 5))
  | 0x27 => some (.leaImmediate r.ctl (.ofCode r.dst) (.ofCode r.sa) r.tail (fld r.mdI 0 5))
  | 0x28 => some (.mov r.ctl (.ofCode r.dst) (.ofCode r.sa) (bitOf r.md 6))
  | 0x29 => some (.movi r.ctl (.ofCode r.dst) (.ofRaw r))
  | 0x2A => some (.sel r.ctl (.ofCode r.dst) (.ofCode r.sa) (.ofCode r.sb) (fld r.md 0 3) (bitOf r.md 3) (bitOf r.md 6))
  | 0x2B => some (.saddRegisters r.ctl r.dst.toNat r.sa.toNat r.sb.toNat)
  | 0x2C => some (.saddImmediate r.ctl r.dst.toNat r.sa.toNat r.tail)
  | 0x2D => some (.ssub r.ctl r.dst.toNat r.sa.toNat r.sb.toNat)
  | 0x2E => some (.smul r.ctl r.dst.toNat r.sa.toNat r.sb.toNat)
  | 0x2F => some (.smulh r.ctl r.dst.toNat r.sa.toNat r.sb.toNat (.ofCode (fld r.md 0 1)))
  | 0x30 => some (.sandRegisters r.ctl r.dst.toNat r.sa.toNat r.sb.toNat)
  | 0x31 => some (.sandImmediate r.ctl r.dst.toNat r.sa.toNat r.tail)
  | 0x32 => some (.sor r.ctl r.dst.toNat r.sa.toNat r.sb.toNat)
  | 0x33 => some (.sxor r.ctl r.dst.toNat r.sa.toNat r.sb.toNat)
  | 0x34 => some (.sshlRegisters r.ctl r.dst.toNat r.sa.toNat r.sb.toNat)
  | 0x35 => some (.sshlImmediate r.ctl r.dst.toNat r.sa.toNat (fld r.tail 0 6))
  | 0x36 => some (.sshrRegisters r.ctl r.dst.toNat r.sa.toNat r.sb.toNat)
  | 0x37 => some (.sshrImmediate r.ctl r.dst.toNat r.sa.toNat (fld r.tail 0 6))
  | 0x38 => some (.ssra r.ctl r.dst.toNat r.sa.toNat r.sb.toNat)
  | 0x39 => some (.smin r.ctl r.dst.toNat r.sa.toNat r.sb.toNat (.ofCode (fld r.md 0 1)))
  | 0x3A => some (.smax r.ctl r.dst.toNat r.sa.toNat r.sb.toNat (.ofCode (fld r.md 0 1)))
  | 0x3B => some (.sset r.ctl r.dst.toNat r.sa.toNat r.sb.toNat (.ofCode (fld r.md 0 3)) (.ofCode (fld r.md 3 1)))
  | 0x3C => some (.ssel r.ctl r.dst.toNat r.sa.toNat r.sb.toNat (bitOf r.md 0))
  | 0x3D => some (.smov r.ctl r.dst.toNat r.sa.toNat)
  | 0x3E => some (.smovi r.ctl r.dst.toNat (.ofRaw r))
  | 0x3F => some (.slea r.ctl r.dst.toNat r.sa.toNat r.sb.toNat r.sc.toNat (fld r.md 0 6))
  | 0x40 => some (.isetRegisters r.ctl (fld r.dst 0 3) (.ofCode r.sa) (.ofCode r.sb) (.ofCode (fld r.md 0 3)) (.ofCode (fld r.md 3 1)) (.ofCode (fld r.md 4 2)))
  | 0x41 => some (.isetImmediate r.ctl (fld r.dst 0 3) (.ofCode r.sa) r.tail (.ofCode (fld r.mdI 0 3)) (.ofCode (fld r.mdI 3 1)) (.ofCode (fld r.mdI 4 2)))
  | 0x42 => some (.plop r.ctl (fld r.dst 0 3) (fld r.sa 0 3) (fld r.sb 0 3) (fld r.md 0 4))
  | 0x43 => some (.p2v r.ctl (.ofCode r.dst))
  | 0x44 => some (.v2p r.ctl (.ofCode r.sa) (fld r.md 0 7))
  | 0x45 => some (.vshape r.ctl (.ofCode r.dst) (.ofCode r.sa))
  | 0x46 => some (.vwiden r.ctl (.ofCode r.dst) (.ofCode r.sa))
  | 0x47 => some (.shfl r.ctl (.ofCode r.dst) (.ofCode r.sa) (.ofCode r.sb) (.ofCode (fld r.md 0 2)) (.ofCode (fld r.md 2 3)))
  | 0x48 => some (.census r.ctl (if (decide (2 < (fld r.md 0 3).toNat)) then .reg (.ofCode r.dst) else .pred (fld r.dst 0 3)) (.ofCode (fld r.md 0 3)) (fld r.md 3 3) (bitOf r.md 6))
  | 0x49 => some (.gred r.ctl (.ofCode r.dst) (.ofCode r.sa) (.ofCode (fld r.md 0 3)) (.ofCode (fld r.md 3 2)))
  | 0x4A => some (.matchLanes r.ctl (if (!bitOf r.md 1) then .reg (.ofCode r.dst) else .pred (fld r.dst 0 3)) (.ofCode r.sa) (bitOf r.md 0))
  | 0x4B => some (.vbcast r.ctl (.ofCode r.dst) (.ofCode r.sa) (.ofCode r.sb))
  | 0x4C => some (.vlane r.ctl (.ofCode r.dst) (.ofCode r.sa) (.ofCode r.sb))
  | 0x50 => some (.bra r.ctl r.imm26)
  | 0x51 => some (.brx r.ctl (.ofCode r.sa))
  | 0x52 => some (.call r.ctl (.ofCode r.dst) r.imm26)
  | 0x53 => some (.callx r.ctl (.ofCode r.dst) (.ofCode r.sa))
  | 0x54 => some (.ret r.ctl (.ofCode r.sa))
  | 0x55 => some (.exit r.ctl)
  | 0x56 => some (.jset r.ctl (fld r.dst 0 4) (if bitOf r.md 0 then some (.ofCode r.sa) else none))
  | 0x57 => some (.jarr r.ctl (fld r.dst 0 4))
  | 0x58 => some (.jdrop r.ctl (fld r.dst 0 4))
  | 0x59 => some (.jread r.ctl (.ofCode r.dst) (fld r.sa 0 4))
  | 0x5A => some (.waitf r.ctl (fld r.sb 0 4 ++ r.md))
  | 0x5B => some (.sleep r.ctl (.ofCode r.sa))
  | 0x60 => some (.faddRegisters r.ctl (.ofCode r.dst) (.ofCode r.sa) (.ofCode r.sb) (.ofCode (fld r.md 0 2)) (bitOf r.md 2))
  | 0x61 => some (.faddImmediate r.ctl (.ofCode r.dst) (.ofCode r.sa) r.tail (.ofCode (fld r.mdI 0 2)) (bitOf r.mdI 2))
  | 0x62 => some (.fsub r.ctl (.ofCode r.dst) (.ofCode r.sa) (.ofCode r.sb) (.ofCode (fld r.md 0 2)) (bitOf r.md 2))
  | 0x63 => some (.fmulRegisters r.ctl (.ofCode r.dst) (.ofCode r.sa) (.ofCode r.sb) (.ofCode (fld r.md 0 2)) (bitOf r.md 2))
  | 0x64 => some (.fmulImmediate r.ctl (.ofCode r.dst) (.ofCode r.sa) r.tail (.ofCode (fld r.mdI 0 2)) (bitOf r.mdI 2))
  | 0x65 => some (.ffma r.ctl (.ofCode r.dst) (.ofCode r.sa) (.ofCode r.sb) (.ofCode r.sc) (.ofCode (fld r.md 0 2)) (bitOf r.md 2) (bitOf r.md 3) (bitOf r.md 4))
  | 0x66 => some (.fmin r.ctl (.ofCode r.dst) (.ofCode r.sa) (.ofCode r.sb))
  | 0x67 => some (.fmax r.ctl (.ofCode r.dst) (.ofCode r.sa) (.ofCode r.sb))
  | 0x68 => some (.fsetRegisters r.ctl (fld r.dst 0 3) (.ofCode r.sa) (.ofCode r.sb) (.ofCode (fld r.md 0 3)) (.ofCode (fld r.md 4 2)))
  | 0x69 => some (.fsetImmediate r.ctl (fld r.dst 0 3) (.ofCode r.sa) r.tail (.ofCode (fld r.mdI 0 3)) (.ofCode (fld r.mdI 4 2)))
  | 0x6A => some (.fclass r.ctl (.ofCode r.dst) (.ofCode r.sa) (.ofCode (fld r.md 0 2)))
  | 0x6B => some (.frnd r.ctl (.ofCode r.dst) (.ofCode r.sa) (.ofCode (fld r.md 0 2)))
  | 0x6C => some (.fscale r.ctl (.ofCode r.dst) (.ofCode r.sa) (.ofCode r.sb) (.ofCode (fld r.md 0 2)))
  | 0x70 => some (.frcp r.ctl (.ofCode r.dst) (.ofCode r.sa) (.ofCode (fld r.md 0 2)))
  | 0x71 => some (.frsq r.ctl (.ofCode r.dst) (.ofCode r.sa))
  | 0x72 => some (.fsqrt r.ctl (.ofCode r.dst) (.ofCode r.sa) (.ofCode (fld r.md 0 2)))
  | 0x73 => some (.fexp2 r.ctl (.ofCode r.dst) (.ofCode r.sa))
  | 0x74 => some (.flog2 r.ctl (.ofCode r.dst) (.ofCode r.sa))
  | 0x75 => some (.fsin r.ctl (.ofCode r.dst) (.ofCode r.sa))
  | 0x76 => some (.fcos r.ctl (.ofCode r.dst) (.ofCode r.sa))
  | 0x77 => some (.ftanh r.ctl (.ofCode r.dst) (.ofCode r.sa))
  | 0x80 => some (.hadd2 r.ctl (.ofCode r.dst) (.ofCode r.sa) (.ofCode r.sb) (.ofCode (fld r.md 0 2)) (bitOf r.md 2))
  | 0x81 => some (.hsub2 r.ctl (.ofCode r.dst) (.ofCode r.sa) (.ofCode r.sb) (.ofCode (fld r.md 0 2)) (bitOf r.md 2))
  | 0x82 => some (.hmul2 r.ctl (.ofCode r.dst) (.ofCode r.sa) (.ofCode r.sb) (.ofCode (fld r.md 0 2)) (bitOf r.md 2))
  | 0x83 => some (.hfma2 r.ctl (.ofCode r.dst) (.ofCode r.sa) (.ofCode r.sb) (.ofCode r.sc) (.ofCode (fld r.md 0 2)) (bitOf r.md 2))
  | 0x84 => some (.hmin2 r.ctl (.ofCode r.dst) (.ofCode r.sa) (.ofCode r.sb) (bitOf r.md 2))
  | 0x85 => some (.hmax2 r.ctl (.ofCode r.dst) (.ofCode r.sa) (.ofCode r.sb) (bitOf r.md 2))
  | 0x86 => some (.hset2 r.ctl (.ofCode r.dst) (.ofCode r.sa) (.ofCode r.sb) (.ofCode (fld r.md 4 3)) (bitOf r.md 2))
  | 0x88 => some (.cvt r.ctl (.ofCode r.dst) (.ofCode r.sa) (.ofCode (fld r.md 0 5)) (.ofCode (fld r.sb 0 5)) (.ofCode (fld r.md 5 2)) (.ofCode (fld r.sb 5 2)))
  | 0x89 => some (.pack r.ctl (.ofCode r.dst) (.ofCode r.sa) (.ofCode r.sb) (.ofCode r.sc) (.ofCode (fld r.md 0 4)) (.ofCode (fld r.md 4 2)) (.ofCode (fld r.md 6 2)))
  | 0x8A => some (.unpack r.ctl (.ofCode r.dst) (.ofCode r.sa) (.ofCode r.sb) (.ofCode (fld r.md 0 4)) (bitOf r.md 4))
  | 0x90 => some (.dp2h r.ctl (.ofCode r.dst) (.ofCode r.sa) (.ofCode r.sb) (.ofCode r.sc) (dpOf [.f16, .b16] (fld r.md 0 3)) (dpOf [.f16, .b16] (fld r.md 3 3)) (.ofCode (fld r.md 6 2)))
  | 0x91 => some (.dp4 r.ctl (.ofCode r.dst) (.ofCode r.sa) (.ofCode r.sb) (.ofCode r.sc) (dpOf [.e5m2, .e4m3, .e3m4, .lg8, .i8, .n8] (fld r.md 0 3)) (dpOf [.e5m2, .e4m3, .e3m4, .lg8, .i8, .n8] (fld r.md 3 3)) (.ofCode (fld r.md 6 2)))
  | 0x92 => some (.dp8 r.ctl (.ofCode r.dst) (.ofCode r.sa) (.ofCode r.sb) (.ofCode r.sc) (dpOf [.e2m1, .e1m2, .i4, .n4] (fld r.md 0 3)) (dpOf [.e2m1, .e1m2, .i4, .n4] (fld r.md 3 3)) (.ofCode (fld r.md 6 2)))
  | 0x93 => some (.dp16 r.ctl (.ofCode r.dst) (.ofCode r.sa) (.ofCode r.sb) (.ofCode r.sc) (dpOf [.i2, .t2] (fld r.md 0 3)) (dpOf [.i2, .t2] (fld r.md 3 3)) (.ofCode (fld r.md 6 2)))
  | 0xA0 => some (.ld r.ctlL (.ofCode r.dst) (.ofCode r.sa) (.ofCode r.sb) (.ofCode (fld r.md 0 3)) (bitOf r.md 3) (.ofCode (fld r.md 4 2)) (bitOf r.md 6))
  | 0xA1 => some (.st r.ctlL (.ofCode r.sa) (.ofCode r.sb) (.ofCode r.sc) (.ofCode (fld r.md 0 3)) (.ofCode (fld r.md 4 2)) (bitOf r.md 6))
  | 0xA2 => some (.lda r.ctlL (.ofCode r.dst) (.ofCode r.sa) (.ofCode r.sb) (bitOf r.md 0) (.ofCode (fld r.md 1 3)) (bitOf r.md 6))
  | 0xA3 => some (.strel r.ctlL (.ofCode r.sa) (.ofCode r.sb) (.ofCode r.sc) (bitOf r.md 0) (.ofCode (fld r.md 1 3)) (bitOf r.md 4) (bitOf r.md 6))
  | 0xA4 => some (.lds r.ctlL (.ofCode r.dst) (.ofCode r.sa) (.ofCode r.sb) (.ofCode (fld r.md 0 3)) (bitOf r.md 3) (.ofCode (fld r.md 4 2)))
  | 0xA5 => some (.sts r.ctlL (.ofCode r.sa) (.ofCode r.sb) (.ofCode r.sc) (.ofCode (fld r.md 0 3)) (bitOf r.md 4))
  | 0xA6 => some (.sld r.ctlL r.dst.toNat r.sa.toNat (if bitOf r.md 6 then some r.sb.toNat else none) (.ofCode (fld r.md 0 3)) (bitOf r.md 3) (.ofCode (fld r.md 4 2)))
  | 0xA7 => some (.sst r.ctlL r.sa.toNat (if bitOf r.md 6 then some r.sb.toNat else none) r.dst.toNat (.ofCode (fld r.md 0 3)) (.ofCode (fld r.md 4 2)))
  | 0xA8 => some (.atom r.ctlL (.ofCode r.dst) (.ofCode r.sa) (.ofCode r.sc) (.ofCode (fld r.md 0 4)) (bitOf r.md 4) (.ofCode (fld r.sb 0 3)) (.ofCode (fld r.sb 3 2)))
  | 0xA9 => some (.atoms r.ctlL (.ofCode r.dst) (.ofCode r.sa) (.ofCode r.sc) (.ofCode (fld r.md 0 4)) (bitOf r.md 4) (.ofCode (fld r.sb 0 3)) (.ofCode (fld r.sb 3 2)))
  | 0xAA => some (.red r.ctlL (.ofCode r.sa) (.ofCode r.sc) (.ofCode (fld r.md 0 4)) (bitOf r.md 4) (.ofCode (fld r.sb 0 3)) (.ofCode (fld r.sb 3 2)))
  | 0xB0 => some (.fence r.ctlL (.ofCode (fld r.md 0 2)) (.ofCode (fld r.md 2 3)))
  | 0xB1 => some (.publish r.ctlL (.ofCode r.sa) (.ofCode r.sb) (bitOf r.md 6) (if bitOf r.md 0 then some (.ofCode r.sc) else none))
  | 0xB2 => some (.pref r.ctlL (.ofCode r.sa) (.ofCode r.sb) (bitOf r.md 6) (if bitOf r.md 0 then some (.ofCode r.sc) else none) (bitOf r.md 1) (.ofCode (fld r.md 4 2)))
  | 0xB3 => some (.clean r.ctlL (.ofCode r.sa) (.ofCode r.sb) (bitOf r.md 6) (if bitOf r.md 0 then some (.ofCode r.sc) else none))
  | 0xB4 => some (.inval r.ctlL (.ofCode r.sa) (.ofCode r.sb) (bitOf r.md 6) (if bitOf r.md 0 then some (.ofCode r.sc) else none))
  | 0xB8 => some (.feset r.ctlL (.ofCode r.sa) (.ofCode r.sb) (.ofCode r.sc))
  | 0xB9 => some (.feclr r.ctlL (.ofCode r.sa) (.ofCode r.sb) (.ofCode r.sc))
  | 0xBA => some (.fewait r.ctlL (.ofCode r.sa) (.ofCode r.sb) (.ofCode r.sc) (bitOf r.md 0))
  | 0xC0 => some (.tsrset r.ctlL (.ofCode r.dst) (.ofCode r.sa) (fld (r.sb - 0x140) 3 4))
  | 0xC1 => some (.cpyin r.ctlL (r.sa.toNat - 320) (r.sb.toNat - 320) (r.sc.toNat - 320))
  | 0xC2 => some (.cpyout r.ctlL (r.sa.toNat - 320) (r.sb.toNat - 320) (r.sc.toNat - 320))
  | 0xC3 => match (fld r.md 0 2).toNat with
    | 0 => some (.cpyobG r.ctlL (r.sa.toNat - 320) (r.sb.toNat - 320) (r.sc.toNat - 320))
    | 1 => some (.cpyobS r.ctlL (.ofCode r.sa) (.ofCode r.sb) (r.sc.toNat - 320))
    | 2 => some (.cpyobO r.ctlL (.ofCode r.sa) (.ofCode r.sb) (r.sc.toNat - 320))
    | _ => none
  | 0xC4 => some (.cpyred r.ctlL (r.sa.toNat - 320) (r.sb.toNat - 320) (r.sc.toNat - 320) (.ofCode (fld r.md 0 3)))
  | 0xC5 => some (.cpypf r.ctlL (r.sa.toNat - 320) (r.sb.toNat - 320) (.ofCode (fld r.md 4 2)))
  | 0xC6 => some (.cpycan r.ctlL (fld r.sb 0 4 ++ fld r.sc 0 8))
  | 0xD0 => some (.obres r.ctlL (.ofCode r.dst) (r.sa.toNat - 320))
  | 0xD1 => some (.obrel r.ctlL (.ofCode r.sa))
  | 0xD2 => some (.obput r.ctlL (r.sa.toNat - 320) (.ofCode r.sb) (.ofCode r.sc) (bitOf r.md 0))
  | 0xD3 => some (.obget r.ctlL (.ofCode r.dst) (r.sa.toNat - 320) (.ofCode r.sb) (bitOf r.md 0))
  | 0xD4 => some (.mzero r.ctlL r.dst.toNat (r.sa.toNat - 320))
  | 0xD5 => some (.mready r.ctlL r.sa.toNat r.sb)
  | 0xD6 => some (.mloop r.ctlL r.dst.toNat (fld (r.sa - 0x140) 3 4))
  | 0xE0 => some (.freeze r.ctlL (.ofCode r.dst) r.sa.toNat (fld (r.sb - 0x140) 3 4))
  | 0xE1 => some (.stamp r.ctlL (.ofCode r.dst) (.ofCode r.sa) (r.sb.toNat - 320))
  | 0xE2 => some (.spawn r.ctlL (r.sa.toNat - 320) (.ofCode r.sb) (fld r.md 0 3) (.ofCode r.sc))
  | 0xE3 => some (.tdrop r.ctlL (.ofCode r.sa))
  | 0xE4 => some (.tinfo r.ctlL (.ofCode r.dst) (.ofCode r.sa) (fld r.md 0 3))
  | 0xE5 => match (fld r.md 4 2).toNat with
    | 0 => some (.barArv r.ctlL (fld r.md 0 4))
    | 1 => some (.barArr r.ctlL (fld r.md 0 4))
    | 2 => some (.barExp r.ctlL (.ofCode r.dst) (fld r.md 0 4) (.ofCode r.sa))
    | _ => none
  | 0xE6 => some (.racq r.ctlL (.ofCode r.dst) (fld r.md 0 3))
  | 0xE7 => some (.rpub r.ctlL (fld r.md 0 3))
  | 0xE8 => some (.rtake r.ctlL (.ofCode r.dst) (fld r.md 0 3))
  | 0xE9 => some (.rdone r.ctlL (fld r.md 0 3))
  | 0xEA => some (.send r.ctlL (r.sa.toNat - 320) (r.sb.toNat - 320) (r.sc.toNat - 320) (bitOf r.md 0) (bitOf r.md 1))
  | 0xEB => some (.fget r.ctlL (r.sa.toNat - 320) (r.sb.toNat - 320) (r.sc.toNat - 320) (bitOf r.md 1))
  | 0xEC => some (.dalloc r.ctlL (.ofCode r.dst) (.ofCode r.sa))
  | 0xED => some (.dfree r.ctlL (.ofCode r.sa) (.ofCode r.sb))
  | 0xF0 => some (.live r.ctl (fld r.tail 0 12))
  | 0xF1 => some (.trap r.ctl r.tail)
  | 0xF9 => some (.bkpt r.ctl r.tail)
  | 0xF2 => some (.hcall r.ctlL (.ofCode r.dst) (fld (r.sb - 0x140) 3 4))
  | 0xF3 => some (.qsig r.ctlL (.ofCode r.dst) (r.sa.toNat - 320) (fld (r.sb - 0x140) 3 4))
  | 0xF4 => some (.srd r.ctl r.dst.toNat r.sb)
  | 0xF5 => some (.swr r.ctl r.sb r.dst.toNat)
  | 0xF6 => some (.ipf r.ctlL (r.sa.toNat - 320) (.ofCode r.sb) (bitOf r.md 0))
  | 0xF7 => some (.ipin r.ctlL (r.sa.toNat - 320) (.ofCode r.sb) (bitOf r.md 0))
  | 0xF8 => some (.iunpin r.ctlL (r.sa.toNat - 320) (.ofCode r.sb) (bitOf r.md 0))
  | _ => none

/-- V2P's MASK 0 means 0x7F (R109): both words name one instruction. -/
def Raw.norm (r : Raw) : Raw := if r.op == 0x44 && r.md == 0 then { r with tail := r.sc ++ 0x7F#8 } else r
/-- The word of an instruction; a half and an event have none of their own. -/
def encode (i : Instr) : Option W64 :=
  match i with
  | .clauseHeader wait seta setb len => some (headerWord wait seta setb len)
  | i => i.raw.map Raw.join
/-- A full-format word that is not a header. -/
def decodeFull (w : W64) : Decoded :=
  let r := (Raw.split w).norm
  match parse r with
  | some i => if i.wf && i.raw == some r then .one i else .bad .illop
  | none => .bad .illop
/-- What a 64-bit word holds (R46, R69 orders 2 to 4). -/
def decode (w : W64) : Decoded :=
  if bitOf w 63 then decodePair w else if fld w 55 8 == 0xFF#8 then decodeHeader w else decodeFull w

/-- The instruction the decoder reads from a row's bits. A row of a pair half is 31 bits: its half stands beside a
no-operation half; from a whole pair word, the half beside the no-operation is read. -/
def decodeTableWord (nbits w : Nat) : Option Instr :=
  if nbits ≤ 32 && 0 < nbits then decodeHalf (.ofNat 31 w)
  else match decode (.ofNat 64 w) with
    | .one i => some i
    | .pair (.halfNopLow _) hi _ => some hi
    | .pair lo (.halfNopHigh _) _ => some lo
    | _ => none

end Sys2Proof
end

