-- ==== Sys2Proof/Config.lean ====
section
/-! DEFINITION. The constants of the part (R1, R2, R179) and the values the manual leaves open: each is an opaque
constant with no body, so that a statement about it holds for every value. -/
namespace Sys2Proof.Config

/-- A value the manual calls undefined, drawn for the n-th time, for the k-th item (a register and lane, or a byte) of
that draw (R9, R260, R262, R371; log 2). -/
opaque free : Nat → Nat → W32

/-- Implementation-specific: the stepping in DEVID [39:32] (R383; log 10). -/
opaque stepping : BitVec 8

/-- Implementation-specific: the answer bytes of the management subsystem to a request numbered n (R394 to R397; log 11). -/
opaque reply : Nat → List Byte

/-- Implementation-specific: how a line's address names its set of the L2 and of the L1 (R181, R182; log 12). -/
opaque l2Hash : Nat → Nat
opaque l1Hash : Nat → Nat
/-- The sets of a die's L2 (96 MB in 24 ways of 128-byte lines) and of a core's L1 (R169), and the one a line falls in. -/
def l2Sets : Nat := 32768
def l1Sets : Nat := 128
def l2Set (line : Nat) : Nat := l2Hash line % l2Sets
def l1Set (line : Nat) : Nat := l1Hash line % l1Sets

/-- Implementation-specific: the bank of a stack that holds an address, for the banks dropped and the generation of the address
hash (R287; log 36): an index into the banks that are left. -/
opaque bankHash : List Nat → Nat → Nat → Nat

/-- What the manual leaves to the part where several acts may come next and none must: which comes, drawn for the n-th time
(log 19). -/
opaque choice : Nat → Nat

/-- Cores enabled per compute die, physical cores per die, compute dies (R1, R2). -/
def coresPerDie : Nat := 64
def physPerDie : Nat := 66
def dies : Nat := 4
/-- Group slots per core, groups per quadrant, and team records per cluster (R1, R14, R307). -/
def slotsPerCore : Nat := 48
def groupsPerQuad : Nat := 12
def teamsPerCluster : Nat := 48
/-- Entries of the register store of a core (R1, R80). -/
def generalEntries : Nat := 10240
def compactEntries : Nat := 32768
/-- Visible HBM: 78 GB per stack, eight stacks (R179). -/
def stackBytes : Nat := 0x1380000000
def visibleBytes : Nat := 8 * stackBytes
/-- The host-visible window (R382). -/
def windowBase : Nat := 0xF000000000
def windowBytes : Nat := 0x1000000
/-- Least size of a context's spill region, and a group slot's area in it (R82). -/
def spillMin : Nat := 541065216
def spillArea : Nat := 44032
/-- Directory entries per die, releases a log keeps (R200). -/
def dirEntries : Nat := 65536
def logDepth : Nat := 64
/-- Lines of a die's twin region: 1 GB (R169). -/
def twinLines : Nat := 8388608
/-- Entries of the template table, pages of a die's backing (R169, R288). -/
def templates : Nat := 4096
def backingPages : Nat := 524288
/-- Entries of a die's cache of the ownership table (R272). -/
def ownCached : Nat := 4096
/-- Entries of the core TLB and of the walk-ahead TLB (R272). -/
def tlbEntries : Nat := 1024
def walkTlbEntries : Nat := 512
/-- Copy slots per core, operand-log entries per core, messages per fabric port, launch records per queue, slots of a trap queue (R238, R307, R363). -/
def copySlots : Nat := 256
def opLogEntries : Nat := 64
def portEntries : Nat := 256
def launchRecords : Nat := 8
def trapSlots : Nat := 4096
/-- Ownership entries per home die and kernel; lines a deterministic team may write (R184, R285). -/
def ownEntries : Nat := 16777216
def detLines : Nat := 524288

/-- Implementation-specific: the bytes of a firmware image, of the management processor (1), of the command processors and save engines
(2), by its security version; the device identity key's certificate chain (R395, R396). -/
opaque firmware : Nat → Nat → List Byte
opaque chain : List Byte
/-- SHA-256, and the n-th RSASSA-PSS signature with the device identity key, whose private part never leaves the subsystem (R396). They are
standards that the spec names and does not restate, and are left uninterpreted (PRESUMED, log 102). -/
opaque sha256 : List Byte → List Byte
opaque sign : Nat → List Byte → List Byte
/-- Implementation-specific: the spare lanes of a die link (R387); the step, if it is one of 2 to 6, at which a warm reset fails, drawn for
the n-th time (R391, R392). -/
opaque spareLanes : Nat
opaque resetFails : Nat → Nat
/-- The number by which other packages know this one (R323), which the spec leaves to the system. -/
opaque package : Nat

end Sys2Proof.Config
end

