-- ==== Sys2Proof/Machine/State.lean ====
section
/-! DEFINITION. The state of the package as plain data: everything the inventory chapters of the spec name (R71, R169,
R272, R307, R345), and a few fields of the model's own, marked (own). -/
namespace Sys2Proof.Machine

/-- Why the machine stops. Raised by `step` alone. -/
inductive Fault where
  /-- Main power is absent and the next event is not the return of power: nothing of the package acts (R381, R391).
  Raised by `step`. Safe: no claim about a next state follows. -/
  | noPower
  deriving DecidableEq, Repr

/-- Why an instruction has no meaning. No meaning of this model refuses. -/
inductive Refusal where
  /-- An instruction the model has not reached, by its mnemonic. Raised by an arm of `exec` alone. Safe. -/
  | notModelled (mnemonic : String)
  deriving DecidableEq, Repr

/-- The value of a live vector register with its shape (R73). A register that is not live has no entry. -/
inductive Shaped where
  | u (c : W32)
  | a (b s : W32)
  | g (vs : List W32)
  deriving DecidableEq, Repr, Inhabited

/-- A result on its way to a register, with the lanes it writes and the cycle in which it is written (R84). -/
inductive Wb where
  | vec (r : Nat) (mask : W32) (val : Shaped) (due : Nat)
  | sca (r : Nat) (val : W64) (due : Nat)
  | prd (n : Nat) (mask bits : W32) (due : Nat)
  deriving DecidableEq, Repr, Inhabited

/-- What a thread waits for (R142, R326, R353). `empty` is a lane with no thread, or whose thread has exited. -/
inductive TWait where
  | run | empty
  | jarr (n : Nat) | waitf (mask : Nat) | bar (n gen : Nat)
  | sleep (until_ : Nat) | redir (until_ : Nat) | op (id : Nat)
  | trapped                    -- its trap stops its queue, which has not come yet: it never runs again (R61, R370)
  deriving DecidableEq, Repr, Inhabited

/-- A thread: PC, clause position (R60), wait, turns waited (R18), handler level and resume state (R367). -/
structure Thread where
  pc : Nat := 0
  seta : Nat := 15
  setb : Nat := 15
  left : Nat := 0
  wait : TWait := .empty
  age : Nat := 0
  level : Bool := false
  resume : Nat := 0
  rseta : Nat := 15
  rsetb : Nat := 15
  rleft : Nat := 0
  deriving DecidableEq, Repr, Inhabited

/-- A trap as its record describes it (R355 to R357). -/
structure TrapInfo where
  cause : Nat
  pc : Nat
  lanes : W32
  va : Nat := 0
  x0 : W64 := 0
  x1 : W64 := 0
  logged : Bool := false
  exited : Bool := false
  deriving DecidableEq, Repr, Inhabited

/-- A completion flag: outstanding setters, the cycle from which it is seen clear (R58), and the commands that faulted, each with its
cycle and its number, which follows the order of issue (R87, R366). -/
structure FlagSt where
  count : Nat := 0
  clearAt : Nat := 0
  errs : List ((Nat × Nat) × TrapInfo) := []
  deriving DecidableEq, Repr, Inhabited

/-- An offer of MREADY: registers va to va + n − 1, its command (R258). -/
structure Offer where
  first : Nat
  n : Nat
  op : Nat
  deriving DecidableEq, Repr, Inhabited

/-- A group resident on a slot (R71, R377). -/
structure Group where
  team : Nat := 0
  index : Nat := 0
  role : Nat := 3
  budget : Nat := 0
  item : Nat := 0xFFFFFFFF
  tmpl : Option Nat := none
  shared : List Nat := []
  regs : List (Nat × Shaped) := []
  spilled : List (Nat × Shaped) := []
  sregs : List (Nat × W64) := []
  preds : List W32 := List.replicate 7 0
  joins : List W32 := List.replicate 16 0
  flags : List FlagSt := List.replicate 12 {}
  threads : List Thread := List.replicate 32 {}
  wb : List Wb := []
  quad : Nat := 0
  alloc : Nat := 0
  lastIssue : Nat := 0
  yielded : Bool := false                   -- that word had YLD (R55)
  behind : Bool := false                    -- its quadrant has made no choice since that word (R55)
  nextIssue : Nat := 0
  held : List (Nat × Nat) := []
  taint : List Nat := []
  offers : List Offer := []
  wdBar : Nat := 0
  wdRing : Nat := 0
  wdFe : Nat := 0
  born : W32 := 0                            -- lanes that held a thread at the start
  recent : List (List Nat) := []            -- vector destinations of the last eight words issued (R83), newest first
  fenced : W32 := 0                         -- lanes that have executed a release fence (R191, R217)
  stop : Option (Nat × Nat) := none         -- the position at which a full operand log has stopped the group (R364)
  saved : Bool := false
  saveRec : Option Nat := none
  waits : Bool × Bool := (false, false)     -- whether in the last cycle the group waited on general, on compact entries (R80)
  tdepth : Nat := 0                         -- depth of the template its item came from, kept when that is freed (R291)
  deriving DecidableEq, Repr, Inhabited

/-- The issue under way, or idle (own, log 4): core, slot, PC, threads that share it, first and final cycle (R54), the word; `replay` of a logged word (R363); `soft`: its access meets a soft
fault that clears of itself (R362); `stall`: the word cannot issue yet; `hold`: nor can it, but what it has begun stands (R296, R364);
`trap`: what a replay has found, which is taken when its group has its own registers again (R365, R371). -/
structure Cur where
  active : Bool := false
  core : Nat := 0
  slot : Nat := 0
  pc : Nat := 0
  mask : W32 := 0
  first : Nat := 0
  last : Nat := 0
  word : W64 := 0
  replay : Bool := false
  soft : Bool := false
  stall : Bool := false
  hold : Bool := false
  trap : Option TrapInfo := none
  deriving DecidableEq, Repr, Inhabited

/-- One lane's full/empty operation on its granule (R173, R227). -/
structure FeReq where
  lane : Nat
  addr : Nat
  size : Nat
  want : Bool            -- the state awaited: true full
  after : Bool           -- the state left: true full
  store : Option (List Byte)
  deriving DecidableEq, Repr, Inhabited

/-- A cached translation (R272, R273). -/
structure TlbEntry where
  asid : Nat
  glob : Bool
  vpn : Nat          -- VA div page size
  bits : Nat         -- log2 of the page size
  ppn : Nat          -- PA of the page
  perm : Nat         -- PTE [7:0]
  cls : Nat
  pbmt : Nat
  pte : Nat          -- PA of the PTE
  nap : Bool := false  -- one of the sixteen entries of a NAPOT PTE
  deriving DecidableEq, Repr, Inhabited

/-- A write a release makes when its records are acknowledged, with the translation it was checked through (R200, R226, R276). -/
structure RelWrite where
  lane : Nat
  pa : Nat
  va : Nat
  bytes : List Byte
  tr : TlbEntry := default
  deriving DecidableEq, Repr, Inhabited

/-- Kinds of copy command (R240). -/
inductive CopyKind where
  | in_ | out | obG | obS | obO | red (op : CpyRedOp) | pf
  | can                        -- CPYCAN, which holds a slot like the others (R238)
  deriving DecidableEq, Repr, Inhabited

/-- A copy command as read at its issue (R238 to R241). -/
structure CopyCmd where
  kind : CopyKind
  tsrVa : Nat := 0
  coord : List W64 := []
  dsc : W64 := 0
  len : Nat := 0
  addr : Nat := 0
  ring : Option (Nat × Nat) := none
  slotNo : Nat := 0
  hint : Nat := 0
  res : Option Nat := none      -- the reservation whose USERS it counts in (R240)
  bad : Bool := false           -- malformed at issue
  finished : Bool := false      -- its rows are done; it waits to publish its slot (R241)
  deriving DecidableEq, Repr, Inhabited

/-- A matrix command as read at its issue (R244, R250): the slots and tags of its tile groups in tile order, the quadrants
whose sections it uses, its entry in the issuer's section, the records it counts in, the offers taken. -/
structure MatCmd where
  zero : Bool := false
  d : Nat := 0
  blk : List W64 := []
  groups : List (Nat × Nat) := []
  sections : List Nat := []
  bad : Bool := false
  entry : Nat := 0
  entries : List Nat := []                  -- its entry in the queue of each of its sections
  budget : Nat := 0                         -- the issuing group's
  started : Bool := false
  step : Nat := 0
  users : List Nat := []
  offers : List (Nat × Nat) := []           -- slot, MREADY command taken
  hurt : List (Nat × Nat) := []             -- operand registers found uncorrectable as the engine reads them, by tile group (R188, R262)
  deriving DecidableEq, Repr, Inhabited

/-- A fabric transfer outstanding at a port (R331 to R333). -/
structure Xfer where
  port : Nat
  seq : Nat
  send : Bool
  posted : Bool
  lva : Nat
  rva : Nat
  len : Nat
  start : Nat
  err : Option (Nat × Nat × Nat) := none     -- underlying cause, byte offset, VA
  got : Option (List Byte) := none
  deriving DecidableEq, Repr, Inhabited

/-- Ring operations (R329). -/
inductive RingOp where | acq | pub | take | done
  deriving DecidableEq, Repr, Inhabited

/-- What an outstanding class-L command still has to do (R86). -/
inductive OpKind where
  | done (wbs : List Wb)
  | release (writes : List RelWrite) (recs : List Nat) (syncs : List (Nat × Nat)) (scope : Scope) (acq : Bool)
  | fe (todo : List FeReq) (got : List (Nat × List Byte)) (d : Opnd) (size : Nat) (sx u : Bool)
  | feWait (todo : List Nat) (empty : Bool)
  | ring (k : RingOp) (i pos : Nat) (d : Opnd)
  | bar (n gen : Nat)
  | copy (c : CopyCmd)
  | matrix (m : MatCmd)
  | ready
  | obrel (r : Nat)
  | stamp (owed : Nat) (wbs : List Wb)
  | spawn (entry : Nat) (tmpl : Option Nat) (n : Nat) (todo : List (List W32))
  | fabric (x : Xfer)
  deriving DecidableEq, Repr, Inhabited

/-- An outstanding class-L command of a group slot (R86 to R88), with the team, context, launch and first thread it acts for. -/
structure POp where
  id : Nat
  slot : Nat
  tag : Nat
  pc : Nat
  lanes : W32
  flag : Option Nat := none
  vdest : List Nat := []
  sdest : Option Nat := none
  team : Nat := 0
  ctx : Nat := 0
  launch : Nat := 0
  thread : Nat := 0
  killed : List (Nat × Shaped) := []   -- registers a waiting word has killed (R376)
  kind : OpKind
  deriving DecidableEq, Repr, Inhabited

/-- A reservation record (R248). -/
structure Resv where
  team : Nat
  releasing : Bool := false
  base : Nat
  len : Nat
  fmt : Nat
  blk : Nat
  sp : Bool
  slay : Bool
  soff : Nat
  users : Nat := 0
  deriving DecidableEq, Repr, Inhabited

/-- A spawn bin (R303): its key, its threads' arguments, the cycle in which its timer ends. -/
structure Bin where
  team : Nat
  entry : Nat
  tmpl : Option Nat
  n : Nat
  threads : List (List W32)
  due : Nat
  full : Bool := false
  deriving DecidableEq, Repr, Inhabited

/-- A line of an instruction cache: 16 words (R169, R177). -/
structure ICLine where
  ctx : Nat
  va : Nat
  words : List W64
  pin : Bool := false
  deriving DecidableEq, Repr, Inhabited

/-- A soft-faulted word in the operand log with its source values: its group as it stood at the issue (R363). -/
structure LogEntry where
  slot : Nat
  tag : Nat
  team : Nat
  instr : Instr
  cur : Cur
  group : Group
  lost : List (Nat × W32) := []             -- registers and lanes that a trap's link has written over since (R85)
  deriving DecidableEq, Repr, Inhabited

/-- A compute core, by its logical number (R14). -/
structure Core where
  slots : List (Nat × Group) := []
  tags : List (Nat × Nat) := []
  ops : List POp := []
  ob : List Host.Cell := []
  obPoison : List Nat := []                 -- 8-byte units of the operand buffer found uncorrectable (R188)
  obCtx : List (Nat × Nat) := []
  resv : List (Nat × Resv) := []
  l1 : List (Nat × Hint) := []
  l1i : List ICLine := []
  l0i : List (List ICLine) := [[], [], [], []]
  tlb : List TlbEntry := []
  wtlb : List TlbEntry := []
  runs : List (Nat × Nat × Nat) := []        -- team, first way, ways (R170)
  bins : List (Nat × Bin) := []
  opLog : List LogEntry := []
  busy : List Nat := [0, 0, 0, 0]
  allocWait : Nat := 0
  counters : List (Nat × W64) := []
  deriving DecidableEq, Repr, Inhabited

/-- A physical core's own counters (R345, R356). -/
structure PCore where
  suspicion : Nat := 0
  refund : Nat := 0              -- refunds of this tick, applied at its end (R351)
  quarantined : Bool := false
  seq : BitVec 32 := 0
  start : Nat := 0
  dead : Bool := false           -- found bad at manufacture: bring-up maps no logical core to it (R286)
  deriving DecidableEq, Repr, Inhabited

/-- Class of a twin (R183). -/
inductive TwinCls where | c | b | d
  deriving DecidableEq, Repr, Inhabited

/-- A die's copy of a line homed elsewhere, or of a die-private line (R195), with the bytes of a die-private line written since
its last write-back; `held` in the twin region (R197). -/
structure Copy where
  words : List W32
  cls : Nat
  wmask : BitVec 128 := 0
  held : Bool := false
  deriving DecidableEq, Repr, Inhabited

/-- A twin (R181 to R185): the line as it stood, its class, its owner team, its order of making; in the twin region, or in the
twin cache. -/
structure Twin where
  words : List W32
  cls : TwinCls
  team : Nat
  made : Nat
  region : Bool := false
  hurt : List Nat := []                     -- offsets of its 8-byte units found uncorrectable (R188)
  deriving DecidableEq, Repr, Inhabited

/-- An entry of the synchronisation directory (R200): the next sequence, the last one whose write is performed, what each die
has seen, narrow holders, the log, recency. The lazy holders are the writers of the records held for the entry. -/
structure DirEntry where
  next : Nat := 1
  done : Nat := 0
  seen : List Nat := [0, 0, 0, 0]
  narrow : List Nat := []
  log : List (Nat × List Nat) := []
  used : Nat := 0
  deriving DecidableEq, Repr, Inhabited

/-- A difference record (R199), in flight, or held lazily at its writer (R201). -/
structure DiffRec where
  id : Nat
  kind : Nat
  seq : Nat
  sync : Nat
  writer : Nat
  line : Nat
  words : List (Nat × W32)
  launch : Nat := 0
  held : Bool := false
  deriving DecidableEq, Repr, Inhabited

/-- A compute die (R13). -/
structure Die where
  clk : Nat := 0
  mhz : Nat := 1100
  acc : Nat := 0
  copies : List (Nat × Copy) := []
  twins : List (Nat × Twin) := []
  l2 : List (Nat × Hint) := []
  leaving : List Nat := []                  -- lines chosen as victims, on their way out of the L2 (R182, R197)
  l2Poison : List Nat := []                 -- 8-byte units of the L2's copies found uncorrectable, by address (R188)
  ownCache : List (Nat × Nat) := []         -- cached entries of the ownership table: launch and line, most recent first (R272)
  dir : List (Nat × DirEntry) := []
  fence : DirEntry := {}
  evicted : List (Nat × List Nat) := []   -- keys whose entry was evicted, dies that have not acquired since (R202)
  notices : List Nat := []          -- host notices not yet seen by this die (R209)
  stale : List Nat := []   -- lines changed at their homes since the die cached them, for its next wide acquire (R192)
  counters : List (Nat × W64) := []
  acc4k : List (Nat × List Nat) := []  -- page, counts of the four dies (R277)
  migq : List (Nat × Nat × Nat × Nat) := []  -- page PA, destination die, VA, context
  migRec : Option (Nat × Nat × Nat × Nat) := none  -- context, VA, old and new PA of a record that waits for the ring (R278)
  beacons : List (Nat × BeaconMsg) := []
  served : List (Nat × Nat) := []      -- priority, queue last served (R317)
  predl : BitVec 32 := 20000
  clmap : List Nat := List.range 64
  withdrawn : List Nat := []
  deriving DecidableEq, Repr, Inhabited

/-- An HBM stack's address-hash state and error counts (R287, R380). -/
structure Stack where
  dropped : List Nat := []
  pendingDrop : List Nat := []
  boundary : Nat := 0
  gen : Nat := 0
  moving : Bool := false
  errs : List (Nat × Nat × List Nat) := []  -- bank, uncorrected errors, ticks of corrected errors
  newly : Nat := 0                          -- how many of the dropped banks belong to the generation being made
  shrunk : Bool := false
  deriving DecidableEq, Repr, Inhabited

/-- A stage ring (R329). -/
structure Ring where
  n : Nat := 0
  p : Nat := 0
  qr : Nat := 0
  q : Nat := 0
  c : Nat := 0
  d : Nat := 0
  filled : List Bool := []
  phase : List Bool := []
  deriving DecidableEq, Repr, Inhabited

/-- A named barrier (R326): E, A, generation, groups arrived. -/
structure Barrier where
  e : Nat
  a : Nat := 0
  gen : Nat := 0
  arrived : List (Nat × Nat) := []
  deriving DecidableEq, Repr, Inhabited

/-- The kernel descriptor (R315). -/
structure Desc where
  entry : Nat := 0
  gx : Nat := 1
  gy : Nat := 1
  gz : Nat := 1
  ncopy : Nat := 0
  nmatrix : Nat := 0
  nvector : Nat := 0
  ngeneral : Nat := 1
  bcopy : Nat := 0
  bmatrix : Nat := 0
  bvector : Nat := 0
  bgeneral : Nat := 1
  scratch : Nat := 0
  cshape : Nat := 1
  flags : Nat := 0
  auditk : Nat := 0
  migr : Nat := 0
  peerctx : Nat := 0
  watchdog : Nat := 0
  livetab : Nat := 0
  param : Nat := 0
  spillva : Nat := 0
  spillsz : Nat := 0
  rings : Nat := 0
  arena : Nat := 0
  arenasz : Nat := 0
  ranges : List (Nat × Nat) := []
  deriving DecidableEq, Repr, Inhabited

/-- Items a STAMP or FREEZE still owes (R297, R404). -/
structure Owed where
  id : Nat
  tmpl : Nat
  next : Nat
  count : Nat
  deriving DecidableEq, Repr, Inhabited

/-- Where a team stands (R307). -/
inductive TeamSt where | resident | suspended | sent | ended
  deriving DecidableEq, Repr, Inhabited

/-- A write or reduction buffered by a team of a DETERMINISTIC kernel, in program order (R281). -/
inductive BufOp where
  | bytes (thread pa : Nat) (bs : List Byte)
  | red (thread pa : Nat) (op : AtomOp) (w : Bool) (v : W64)
  deriving DecidableEq, Repr, Inhabited

/-- What is to be folded into a thread's digest once the copy command `op` has given its writes, and the stores issued after it;
0 where it is known (R349). -/
structure Fold where
  thread : Nat
  alloc : Nat
  op : Nat := 0
  parts : List (Bool × Nat × List Byte) := []
  deriving DecidableEq, Repr, Inhabited

/-- A team that runs again for an audit (R350): whether in writing mode, the die of the first run, whether it has trapped, its
private pool bitmaps. -/
structure Rerun where
  writes : Bool
  die : Nat
  trapped : Bool := false
  bitmaps : List Host.Cell := []
  deriving DecidableEq, Repr, Inhabited

/-- A team record with what the team owns (R307, R315, R373, R348). -/
structure Team where
  launch : Nat := 0
  index : Nat := 0
  ctx : Nat := 0
  queue : Nat := 0
  desc : Desc := {}
  die : Nat := 0
  cores : List Nat := []
  st : TeamSt := .resident
  prologue : Bool := false
  scratch : List Host.Cell := []
  fe : List Nat := []                       -- granules that are full
  feAt : List (Nat × Nat) := []             -- granule, cycle of its last change (R233)
  scPoison : List Nat := []                 -- 8-byte units of scratchpad found uncorrectable (R188)
  blocks : List (Nat × Nat × Nat) := []     -- template-shared blocks not yet copied: offset, length, template
  copying : List (Nat × Nat × Nat) := []    -- offset of a block that is being copied, the causing core, the cycle of its end
  received : List Nat := []                 -- templates whose ranges the team has received (R296)
  rings : List Ring := List.replicate 8 {}
  barriers : List Barrier := []
  owed : List Owed := []
  auditOk : Bool := true
  rollOk : Bool := false
  rollbacks : Nat := 0
  halted : Bool := false
  preempt : Option Nat := none              -- deadline tick (R375)
  saves : List Group := []
  savedResv : List (Nat × Resv × List Host.Cell) := []
  savedBins : List Bin := []
  savedOps : List (Nat × POp) := []         -- matrix commands and offers, by group index (R263)
  buf : List BufOp := []
  dirtied : List Nat := []
  rank : Nat := 0
  threads : List (Nat × Nat × W64) := []    -- digests: thread index, its group's number, T (R349)
  folds : List Fold := []                   -- what is not yet folded, in issue order
  wrote : List (Nat × Nat) := []            -- address and bytes of its global stores, in an AUDIT kernel (R350)
  rerun : Option Rerun := none
  deriving DecidableEq, Repr, Inhabited

/-- Progress of a templated launch's prologue (R289). -/
inductive Prologue where | none | running | frozen (t : Nat) | failed
  deriving DecidableEq, Repr, Inhabited

/-- A group whose trap stops its queue while threads that the trap does not touch go on (R61, R370): where it is, its number, the
identity of its capture, the cause. -/
structure Doom where
  core : Nat
  slot : Nat
  alloc : Nat
  capid : Nat
  cause : Nat
  deriving DecidableEq, Repr, Inhabited

/-- A launch record (R307). -/
structure Launch where
  queue : Nat := 0
  ctx : Nat := 0
  cmd : Nat := 0
  pri : Nat := 0
  desc : Desc := {}
  raw : List Byte := []             -- the descriptor as read
  sigVa : Nat := 0
  sigVal : W64 := 0
  todo : List (Nat × Nat) := []     -- rank and linear index of teams not admitted, in order
  suspended : List Nat := []
  away : List (Nat × Nat × Nat) := []  -- index, rank, port or die of teams sent elsewhere
  total : Nat := 0
  ended : Nat := 0
  nextRetire : Nat := 0
  dies : List Nat := []
  seed : W32 := 0
  prologue : Prologue := .none
  tmpls : List Nat := []
  own : List (Nat × Nat × Nat) := []  -- line, code, owner team (R281)
  rolls : List (Nat × Nat) := []      -- team index, rollbacks so far
  avoids : List (Nat × Nat) := []     -- team index, cluster where it failed (R374)
  released : List (Nat × Nat × Nat) := []  -- address and bytes released by a team of a DETERMINISTIC kernel, and the team (R217)
  spoiled : List Nat := []            -- pools into whose bitmap a program has stored, by address (R334)
  merged : List Nat := []             -- lines its teams' retirements have sent home (R283)
  waiting : Nat := 0                -- tick from which its teams have waited (R318)
  since : List ((Nat × Nat) × Nat) := []  -- the same of teams that have come back to it, and of re-executions, by their keys
  asked : List (Nat × Nat) := []    -- keys of the waiting teams that have requested a pre-emption (R318)
  dooms : List Doom := []           -- traps that stop the queue, whose teardown has not come yet (R370)
  foreign : Option (Nat × Nat × Nat) := none  -- of a team received from another package: its port, launch and index there (R322)
  deriving DecidableEq, Repr, Inhabited

/-- A command that has started (R312). -/
structure Cmd where
  index : Nat
  op : Nat
  tag : Nat
  words : List W64
  start : Nat
  polled : Nat := 0          -- tick of a WAITV's last load
  complete : Bool := false
  launch : Option Nat := none
  deriving DecidableEq, Repr, Inhabited

/-- States of a queue (R308, R309). -/
inductive QState where | off | running | draining | torn | disabled
  deriving DecidableEq, Repr, Inhabited

/-- A queue's register block and its commands (R308, R312). -/
structure Queue where
  base : W64 := 0
  cfg : W64 := 0
  stat : W64 := 0
  wr : BitVec 32 := 0
  rd : BitVec 32 := 0
  st : QState := .off
  done : BitVec 32 := 0
  cmds : List Cmd := []
  hostIdx : BitVec 32 := 0      -- the index of the host's last doorbell write
  sigs : List (BitVec 32) := []   -- indices at which QSIG has stored (R340)
  deriving DecidableEq, Repr, Inhabited

/-- A context: its table entry, the device's copy of it, and its registers (R274, R342, R358, R385). -/
structure Ctx where
  entry : List W64 := List.replicate 8 0
  copy : Option (List W64) := none
  inUse : Bool := false
  closing : Bool := false
  tqprod : BitVec 32 := 0
  tqcons : BitVec 32 := 0
  tqlost : BitVec 32 := 0
  bintmr : W64 := 256
  hcbase : W64 := 0
  hcidx : BitVec 32 := 0
  intAddr : W64 := 0
  intData : W64 := 0
  ringSeq : Nat := 0
  deriving DecidableEq, Repr, Inhabited

/-- The image of a template (R288, R292). -/
structure Image where
  regs : List (Nat × Shaped) := []
  byRef : List Nat := []          -- registers that are its parent's, entered by reference (R298)
  sregs : List (Nat × W64) := []
  preds : List W32 := []
  joins : List W32 := []
  pc : Nat := 0
  seta : Nat := 15
  setb : Nat := 15
  left : Nat := 0
  ranges : List (Nat × Nat) := []
  bytes : List Host.Cell := []
  fe : List Nat := []
  deriving DecidableEq, Repr, Inhabited

/-- A template table entry (R288). -/
structure Tmpl where
  dropped : Bool := false
  ctx : Nat := 0
  launch : Nat := 0
  parent : Option Nat := none
  depth : Nat := 1
  fdie : Nat := 0
  xreg : Nat := 0
  xbase : W32 := 0
  xstride : W32 := 0
  xu : Bool := false
  lanes : W32 := 0
  image : Image := {}
  ahold : Bool := false
  replicas : List Nat := []
  team : Nat := 0
  pages : Nat := 0
  deriving DecidableEq, Repr, Inhabited

/-- A message-signalled interrupt written to the host (R385). -/
structure Msi where
  addr : W64
  data : BitVec 32
  source : Nat
  deriving DecidableEq, Repr, Inhabited

/-- What the device has sent through a port or a die link (R389). -/
inductive OutMsg where
  | put (m : PutMsg) | getreq (m : GetMsg) | getdata (seq : Nat) (bytes : List Byte)
  | ack (seq : Nat) | nack (seq cause offset : Nat) | team (m : TeamMsg) | teamend (seq launch team : Nat)
  | beacon (b : BeaconMsg)
  deriving DecidableEq, Repr, Inhabited

/-- A fabric port (R307, R388). -/
structure Port where
  up : Bool := true
  outstanding : List (Nat × Nat × Nat) := []   -- sequence, core and command (or a team sent)
  sentTeams : List (Nat × Nat × Nat) := []     -- sequence, launch, team index
  unknown : Nat := 0
  resent : Nat := 0
  retries : Nat := 0                           -- retries of the flit that is being sent again (R388)
  ends : List (Nat × Nat) := []                -- launch and index, at their origin, of ended teams that wait to be reported (R332, R389)
  out : List OutMsg := []
  deriving DecidableEq, Repr, Inhabited

/-- A capture held by the save engine (R371). -/
structure Capture where
  capid : Nat
  queue : Nat
  ctx : Nat
  bytes : List Byte
  deriving DecidableEq, Repr, Inhabited

/-- A sampled team whose audit is not finished (R350). -/
structure Audit where
  launch : Nat
  index : Nat
  core : Nat
  digest : BitVec 128
  second : Option (Nat × Option (BitVec 128)) := none   -- the core of the second run, and its digest unless it trapped
  wrote : List (Nat × Nat) := []       -- address and bytes of the first run's global stores
  deriving DecidableEq, Repr, Inhabited

/-- An event-log record (R394). -/
structure LogRec where
  time : W64
  source : Nat
  code : Nat
  detail : List Nat
  deriving DecidableEq, Repr, Inhabited

/-- A fatal stop and the dump's header (R381). -/
structure Fatal where
  cause : Nat
  unit : Nat
  time : W64
  saves : List (List Byte)
  records : List (List Byte)     -- of the trap queues, not consumed
  log : List LogRec
  deriving DecidableEq, Repr, Inhabited

/-- The management subsystem (R391 to R397). -/
structure Mgmt where
  powered : Bool := true
  ready : Bool := true
  log : List LogRec := []
  capW : Nat := 2600
  slotVersions : List Nat := [1, 1]
  slotSigned : List Bool := [true, true]    -- whether the image's signature holds (R395)
  marked : Nat := 0
  running : Nat := 0
  fused : Nat := 1
  stopped : Bool := false              -- after a fatal error, until a reset
  halved : Bool := false               -- the scores have been halved in this tick (R351)
  dump : Option Fatal := none          -- the fatal-dump region
  header : Option Fatal := none        -- its header's copy in flash
  failedStep : Option Nat := none
  mbox : List Byte := []
  mboxDone : Bool := false
  pending : Option Nat := none         -- length of a mailbox request not yet answered
  i3c : List (Nat × List Byte) := []
  requests : Nat := 0
  linkRetries : List (Nat × Nat) := []
  repaired : List (Nat × Nat) := []
  linkFails : List (Nat × Nat) := []   -- retrainings of a die link that have failed in succession (R387)
  temps : List Nat := List.replicate 64 0   -- the temperature sensors, in °C (R393, R394)
  monitors : Monitors := {}
  irqs : List (Nat × List Nat) := []   -- interrupts to the host die: 1 a bank drop asks for the driver, 2 a fatal error (R380, R381)
  deriving DecidableEq, Repr, Inhabited

/-- A soft error that strikes as a word issues (R188, R284, R362, R365, R372): a shadow mismatch that the retry clears; one it does
not, in the vector datapath or the scalar pair; an uncorrectable error in a register or unit, by its code of R357; an uncorrectable
fetch of a line's ownership entry; a soft fault of the word's access; an SRAM error corrected; one in a cached code line or a clean
L1 line, whose line is filled again; one in 8 bytes of a team's scratchpad, of a core's operand buffer, of a die's L2 copy, of a
twin; one in a register that a matrix command of a core takes operands from, by the command, its tile group and the register; one of an
operand-log entry, found as it is replayed. -/
inductive Upset where
  | none | retried | mismatch (scalar : Bool) (mask : W64) | uce (place : Nat) | own (line : Nat)
  | soft | corrected (die : Nat) | refill (core line : Nat) | scratch (team off : Nat) | operand (core off : Nat) | l2 (die pa : Nat)
  | twin (die pa : Nat) | engine (core op tile reg : Nat) | log
  deriving DecidableEq, Repr, Inhabited

/-- What the device has to write of its own, in order, while an access of it is delayed (R278, R287): a trap record with its agent's die,
its context and launch (R358); words of a queue's status block, by the die and context that write it and its address (R313); an
interrupt of a context, by its source (R385). -/
inductive Later where
  | record (die ctx launch : Nat) (bytes : List Byte)
  | stat (die ctx va : Nat) (words : List (Nat × Nat))
  | msi (ctx source : Nat)
  deriving DecidableEq, Repr, Inhabited

/-- The whole package. -/
structure State where
  phase : Nat := 0
  time : W64 := 0
  inbox : List Instr := []
  upsets : List Upset := []
  freeCtr : Nat := 0
  serial : Nat := 1
  cur : Cur := {}
  mem : List Host.Cell := []
  poison : List Nat := []
  dies : List (Nat × Die) := []
  hbm : List (Nat × Stack) := []
  cores : List (Nat × Core) := []
  pcores : List (Nat × PCore) := []
  recs : List DiffRec := []
  teams : List (Nat × Team) := []
  launches : List (Nat × Launch) := []
  queues : List (Nat × Queue) := []
  ctxs : List (Nat × Ctx) := []
  tmpls : List (Nat × Tmpl) := []
  devCounters : List (Nat × W64) := []
  sdva : W64 := 0
  sdlen : W64 := 0
  sdasid : W64 := 0
  sdctl : W64 := 0x100
  capsel : W64 := 0
  caps : List Capture := []
  nextCap : Nat := 1
  pools : List (Nat × W64) := []
  poolUsed : List Nat := []
  admitted : List (Nat × Nat) := []   -- priority, launch last served with an admission (R317)
  migrating : List Nat := []
  portbind : List (Nat × W64) := []
  ports : List (Nat × Port) := []
  msis : List Msi := []
  later : List Later := []
  audits : List Audit := []
  mgmt : Mgmt := {}
  deriving DecidableEq, Repr, Inhabited

/-- The package right after reset: powered, brought up, the window enabled, every queue with EN 0 (R391 step 6), every
item at the reset value of its inventory row. Tables keyed by number list only entries that differ from the default of
their kind, which is the item's reset value. -/
def State.reset : State := {}

end Sys2Proof.Machine
end

