-- ==== Sys2Proof/Machine/Base.lean ====
section
/-! DEFINITION. Accessors: numbered tables, lanes, cores, groups, registers, operands, and the writing of results in time
(R51 to R54, R71 to R79, R84, R85). -/
namespace Sys2Proof.Machine

/-- The entry of a numbered table. -/
def aget {α : Type} : List (Nat × α) → Nat → Option α
  | [], _ => none
  | (k, v) :: r, n => if k = n then some v else aget r n
/-- The table with entry n set; entries are inserted in rising order. -/
def aset {α : Type} : List (Nat × α) → Nat → α → List (Nat × α)
  | [], n, v => [(n, v)]
  | (k, w) :: r, n, v =>
    if n < k then (n, v) :: (k, w) :: r else if n = k then (n, v) :: r else (k, w) :: aset r n v
/-- The table without entry n. -/
def adel {α : Type} (l : List (Nat × α)) (n : Nat) : List (Nat × α) := l.filter (·.1 != n)
/-- A list with its n-th element changed. -/
def lset {α : Type} (l : List α) (n : Nat) (f : α → α) : List α := l.mapIdx fun i x => if i = n then f x else x
/-- A table of k entries, one of them changed; an entry not listed has the value d. -/
def vset {α : Type} (k : Nat) (d : α) (l : List α) (n : Nat) (f : α → α) : List α :=
  (List.range k).map fun i => if i = n then f (l.getD i d) else l.getD i d
/-- The least number not a key of the table. -/
def firstFree {α : Type} (l : List (Nat × α)) (bound : Nat) : Option Nat :=
  (List.range bound).find? fun n => (aget l n).isNone

/-- A list put in an order, by insertion. -/
def insertBy {α : Type} (le : α → α → Bool) (x : α) : List α → List α
  | [] => [x]
  | y :: r => if le x y then x :: y :: r else y :: insertBy le x r
def sortBy {α : Type} (le : α → α → Bool) (l : List α) : List α := l.foldr (insertBy le) []

/-- The 32 lanes, and those of a mask in increasing order (R11). -/
def allLanes : List Nat := List.range 32
def lanesOf (m : W32) : List Nat := allLanes.filter m.getLsbD
/-- The mask of the lanes of which p holds. -/
def maskOf (p : Nat → Bool) : W32 := (BitVec.ofBoolListLE (allLanes.map p)).setWidth 32
/-- The lowest lane of a mask: first(active) (R110). -/
def firstLane (m : W32) : Nat := (lanesOf m).headD 0
/-- How many lanes a mask holds. -/
def laneCount (m : W32) : Nat := (lanesOf m).length
def allOnes32 : W32 := 0xFFFFFFFF

/-- Lane l of a register value (R73). -/
def Shaped.lane : Shaped → Nat → W32
  | .u c, _ => c
  | .a b st, l => b + BitVec.ofNat 32 l * st
  | .g vs, l => vs.getD l 0
/-- The shape code of R73. -/
def Shaped.code : Shaped → Nat | .u _ => 1 | .a _ _ => 2 | .g _ => 3
/-- Whether a shape is U. -/
def Shaped.isU : Shaped → Bool | .u _ => true | _ => false
/-- Base and stride of a U or A value (R75, R121). -/
def Shaped.affine : Shaped → Option (W32 × W32) | .u c => some (c, 0) | .a b st => some (b, st) | .g _ => none
/-- A G value from its lanes. -/
def gOf (f : Nat → W32) : Shaped := .g (allLanes.map f)

/-- A register's value; one that is not live reads as U(0) (R73). -/
def Group.reg (g : Group) (r : Nat) : Shaped := (aget g.regs r).getD (.u 0)
/-- A register's shape code (R73). -/
def Group.code (g : Group) (r : Nat) : Nat := ((aget g.regs r).map Shaped.code).getD 0
/-- A scalar register (R71). -/
def Group.sreg (g : Group) (r : Nat) : W64 := (aget g.sregs r).getD 0
/-- Predicate n of lane l; 7 reads as pt (R47). -/
def Group.pred (g : Group) (n : BitVec 3) (l : Nat) : Bool := n == 7 || (g.preds.getD n.toNat 0).getLsbD l
/-- A thread of a group. -/
def Group.thread (g : Group) (l : Nat) : Thread := g.threads.getD l {}
/-- A rejoin mask. -/
def Group.join (g : Group) (n : Nat) : W32 := g.joins.getD n 0
/-- The lanes whose thread exists and has not exited. -/
def Group.present (g : Group) : W32 := maskOf fun l => (g.thread l).wait != .empty
/-- The threads of a mask, changed. -/
def Group.updThreads (g : Group) (m : W32) (f : Thread → Thread) : Group :=
  { g with threads := allLanes.map fun l => if m.getLsbD l then f (g.thread l) else g.thread l }
/-- A flag. -/
def Group.flag (g : Group) (n : Nat) : FlagSt := g.flags.getD n {}

/-- A core, die, team, launch, queue, context, template, stack, port, physical core by its number. -/
def State.core (s : State) (n : Nat) : Core := (aget s.cores n).getD {}
def State.die (s : State) (n : Nat) : Die := (aget s.dies n).getD {}
def State.team (s : State) (n : Nat) : Team := (aget s.teams n).getD {}
def State.launchRec (s : State) (n : Nat) : Launch := (aget s.launches n).getD {}
def State.queue (s : State) (n : Nat) : Queue := (aget s.queues n).getD {}
def State.ctx (s : State) (n : Nat) : Ctx := (aget s.ctxs n).getD {}
def State.stack (s : State) (n : Nat) : Stack := (aget s.hbm n).getD {}
def State.port (s : State) (n : Nat) : Port := (aget s.ports n).getD {}
def State.pcore (s : State) (n : Nat) : PCore := (aget s.pcores n).getD {}
def State.updCore (s : State) (n : Nat) (f : Core → Core) : State := { s with cores := aset s.cores n (f (s.core n)) }
def State.updDie (s : State) (n : Nat) (f : Die → Die) : State := { s with dies := aset s.dies n (f (s.die n)) }
def State.updTeam (s : State) (n : Nat) (f : Team → Team) : State := { s with teams := aset s.teams n (f (s.team n)) }
def State.updLaunch (s : State) (n : Nat) (f : Launch → Launch) : State :=
  { s with launches := aset s.launches n (f (s.launchRec n)) }
def State.updQueue (s : State) (n : Nat) (f : Queue → Queue) : State := { s with queues := aset s.queues n (f (s.queue n)) }
def State.updCtx (s : State) (n : Nat) (f : Ctx → Ctx) : State := { s with ctxs := aset s.ctxs n (f (s.ctx n)) }
def State.updStack (s : State) (n : Nat) (f : Stack → Stack) : State := { s with hbm := aset s.hbm n (f (s.stack n)) }
def State.updPort (s : State) (n : Nat) (f : Port → Port) : State := { s with ports := aset s.ports n (f (s.port n)) }
def State.updPcore (s : State) (n : Nat) (f : PCore → PCore) : State := { s with pcores := aset s.pcores n (f (s.pcore n)) }
/-- A template, if its entry is not free. -/
def State.updTmpl (s : State) (n : Nat) (f : Tmpl → Tmpl) : State :=
  match aget s.tmpls n with | some t => { s with tmpls := aset s.tmpls n (f t) } | none => s

/-- The group of a slot, if one is resident. -/
def State.group? (s : State) (c k : Nat) : Option Group := aget (s.core c).slots k
def State.group (s : State) (c k : Nat) : Group := (s.group? c k).getD {}
/-- A resident group, changed; a free slot stays free. -/
def State.updGroup (s : State) (c k : Nat) (f : Group → Group) : State :=
  match s.group? c k with
  | some g => s.updCore c fun x => { x with slots := aset x.slots k (f g) }
  | none => s
/-- A serial number of the model's own (log 3). -/
def State.fresh (s : State) : Nat × State := (s.serial, { s with serial := s.serial + 1 })
/-- A free value for item k (log 2). -/
def State.freeW (s : State) (k : Nat) : W32 := Config.free s.freeCtr k

/-- The die of a logical core (R13, R342). -/
def dieOf (core : Nat) : Nat := core / 64
/-- The arithmetic cycle in which the core of the issue stands. -/
def State.now (s : State) (core : Nat) : Nat := (s.die (dieOf core)).clk

/-- The group that issues (R18). -/
def State.g (s : State) : Group := s.group s.cur.core s.cur.slot
def State.updG (s : State) (f : Group → Group) : State := s.updGroup s.cur.core s.cur.slot f
/-- The active lanes: the threads of the issue whose guard holds (R18). -/
def State.active (s : State) (c : Ctl) : W32 :=
  maskOf fun l => s.cur.mask.getLsbD l && (s.g.pred c.pg l != c.pn)

/-- Lane l of a vector register; one held by the matrix engine reads as a free value (R260, log 2). -/
def State.vlaneOf (s : State) (g : Group) (r l : Nat) : W32 :=
  if g.held.any (·.1 == r) then s.freeW (32 * r + l) else (g.reg r).lane l
/-- rd: the 32-bit value of a source in lane l (R51, R110). -/
def State.rd (s : State) (o : Opnd) (l : Nat) : W32 :=
  match o with
  | .v n => s.vlaneOf s.g n l
  | .s n => (s.g.sreg n).setWidth 32
  | .zero => 0
  | .lane => BitVec.ofNat 32 l
  | .ones => 0xFFFFFFFF
  | .group => BitVec.ofNat 32 s.g.index
  | .item => BitVec.ofNat 32 s.g.item
/-- rd64: the 64-bit value of a source in lane l (R53, R110). A special there, for which the manual gives no width, is its
32-bit value zero-extended (DESIGN CHOICE, log 63). -/
def State.rd64 (s : State) (o : Opnd) (l : Nat) : W64 :=
  match o with
  | .v n => s.vlaneOf s.g (n + 1) l ++ s.vlaneOf s.g n l
  | .s n => s.g.sreg n
  | o => (s.rd o l).setWidth 64
/-- A scalar source. -/
def State.srd (s : State) (n : Nat) : W64 := s.g.sreg n
/-- The shape a source is read with (R51, R73). -/
def State.shape (s : State) (o : Opnd) : Shaped :=
  match o with
  | .v n => if s.g.held.any (·.1 == n) then .g [] else s.g.reg n
  | .lane => .a 0 1
  | o => .u (s.rd o 0)
/-- Whether a source is U; a pair when both its registers are (R75, R77). -/
def State.isU (s : State) (o : Opnd) : Bool := (s.shape o).isU
def State.isUw (s : State) (o : Opnd) : Bool :=
  match o with | .v n => s.isU (.v n) && s.isU (.v (n + 1)) | o => s.isU o
/-- The shape code that VSHAPE returns (R125); 3 for a register the matrix engine holds, whose read R260 leaves open (DESIGN
CHOICE, log 66). -/
def State.code (s : State) (o : Opnd) : Nat :=
  match o with | .v n => if s.g.held.any (·.1 == n) then 3 else s.g.code n | .lane => 2 | _ => 1

/-- The cycles between a result's final pass and its write (R67, R84). -/
def latCycles : Lat → Nat | .i => 2 | .f => 4 | .sf => 12 | .s => 2 | .l => 0 | .c => 2

/-- An earlier write, with the lanes lost to a later-issued write of the same register that takes effect no later (R85): those
the later write covers, and no others (DESIGN CHOICE, log 65). -/
def Wb.trim (old new : Wb) : Option Wb :=
  match old, new with
  | .vec r m v d, .vec r' m' _ d' =>
    if r == r' && decide (d' ≤ d) then (if m &&& ~~~m' == 0 then none else some (.vec r (m &&& ~~~m') v d)) else some old
  | .prd n m v d, .prd n' m' _ d' =>
    if n == n' && decide (d' ≤ d) then (if m &&& ~~~m' == 0 then none else some (.prd n (m &&& ~~~m') v d)) else some old
  | .sca r _ d, .sca r' _ d' => if r == r' && decide (d' ≤ d) then none else some old
  | _, _ => some old
/-- The cycle in which a result is written. -/
def Wb.due : Wb → Nat | .vec _ _ _ d => d | .sca _ _ d => d | .prd _ _ _ d => d
/-- A result set on its way (R84, R85). -/
def Group.push (g : Group) (w : Wb) : Group := { g with wb := g.wb.filterMap (Wb.trim · w) ++ [w] }
/-- A vector register written now: unwritten lanes keep their values and make it G (R76). A register held by the matrix
engine is tainted instead (R260); the first write of a template's register ends the sharing (R80). -/
def Group.writeV (g : Group) (r : Nat) (m : W32) (v : Shaped) : Group :=
  if g.held.any (·.1 == r) then { g with taint := if g.taint.contains r then g.taint else r :: g.taint }
  else
    let new := if m == allOnes32 then v else gOf fun l => if m.getLsbD l then v.lane l else (g.reg r).lane l
    { g with regs := aset g.regs r new, shared := g.shared.filter (· != r) }
/-- A result written (R84). -/
def Group.commit (g : Group) (w : Wb) : Group :=
  match w with
  | .vec r m v _ => g.writeV r m v
  | .sca r v _ => { g with sregs := aset g.sregs r v }
  | .prd n m b _ => { g with preds := vset 7 0 g.preds n fun p => (p &&& ~~~m) ||| (b &&& m) }
/-- The result of a class-L instruction, written as it completes: results of its registers still on their way were issued
before it, and lose the lanes it writes (R85, R86). -/
def Group.land (g : Group) (w : Wb) : Group :=
  let w : Wb := match w with | .vec r m v _ => .vec r m v 0 | .sca r v _ => .sca r v 0 | .prd n m b _ => .prd n m b 0
  Group.commit { g with wb := g.wb.filterMap (Wb.trim · w) } w
/-- Every result whose cycle has come, in issue order (R84). -/
def Group.settle (g : Group) (clk : Nat) : Group :=
  if g.wb.isEmpty then g
  else (g.wb.filter (·.due ≤ clk)).foldl Group.commit { g with wb := g.wb.filter (fun w => decide (clk < w.due)) }
/-- A register's life ended (R78, R79): results issued before and still on their way are never written (R83). One held by the
matrix engine is tainted (R260). -/
def Group.kill (g : Group) (r : Nat) : Group :=
  if g.held.any (·.1 == r) then { g with taint := if g.taint.contains r then g.taint else r :: g.taint }
  else { g with
    regs := adel g.regs r
    shared := g.shared.filter (· != r)
    wb := g.wb.filter fun w => match w with | .vec n .. => n != r | _ => true }

/-- The write-back of a 32-bit vector result: `sh` is the U or A result, if R75 or the entry gives one, when every lane is
written; `val` the lanes. A destination that is not a vector register discards (R51). -/
def vecWb (d : Opnd) (m : W32) (val : Nat → W32) (sh : Option Shaped) (due : Nat) : Option Wb :=
  match d with
  | .v r =>
    if m == 0 then none
    else if m == allOnes32 then some (.vec r m (sh.getD (gOf val)) due) else some (.vec r m (gOf val) due)
  | _ => none
/-- A 32-bit vector result on its way (R84). -/
def State.wv (s : State) (d : Opnd) (m : W32) (val : Nat → W32) (sh : Option Shaped) (lat : Lat) : State :=
  match vecWb d m val sh (s.cur.last + latCycles lat) with
  | some w => s.updG (·.push w)
  | none => s
/-- A 64-bit vector result: both registers U or both G (R77). -/
def State.wv64 (s : State) (d : Opnd) (m : W32) (val : Nat → W64) (u : Bool) (lat : Lat) : State :=
  match d with
  | .v r =>
    let lo (l : Nat) : W32 := (val l).setWidth 32
    let hi (l : Nat) : W32 := (val l).extractLsb' 32 32
    (s.wv (.v r) m lo (if u then some (.u (lo 0)) else none) lat).wv (.v (r + 1)) m hi
      (if u then some (.u (hi 0)) else none) lat
  | _ => s
/-- A scalar result on its way. -/
def State.ws (s : State) (r : Nat) (v : W64) (lat : Lat) : State := s.updG (·.push (.sca r v (s.cur.last + latCycles lat)))
/-- Predicate p of the lanes of a mask on its way. -/
def State.wp (s : State) (p : BitVec 3) (m : W32) (val : Nat → Bool) (lat : Lat) : State :=
  if m == 0 then s else s.updG (·.push (.prd p.toNat m (maskOf val) (s.cur.last + latCycles lat)))
/-- A result to a vector register in the active lanes, or once, zero-extended, to s0 to s127. -/
def State.wvs (s : State) (d : Opnd) (m : W32) (v : W32) (lat : Lat) : State :=
  match d with
  | .s r => if m == 0 then s else s.ws r (v.setWidth 64) lat
  | d => s.wv d m (fun _ => v) (some (.u v)) lat

/-- PC as a 57-bit number, and a canonical address from it (R137, R139). -/
def pcMod (n : Nat) : Nat := n % 0x200000000000000
def sext57 (n : Nat) : W64 := (BitVec.ofNat 57 n).signExtend 64
/-- A thread gone past its word (R60). -/
def Thread.past (t : Thread) : Thread := { t with pc := pcMod (t.pc + 8), left := t.left - 1 }
/-- The word has issued: if some lane was active its kills take effect, except on its destinations (R79), and its threads
go to the next word. A replayed word had issued before (R363). -/
def State.finish (s : State) (i : Instr) : State :=
  if s.cur.replay then s else
  match i.tab with
  | some t =>
    s.updG fun g =>
      let g := if s.active t.ctl == 0 then g
        else (t.killed.filter fun r => !t.vwrites.contains r).foldl Group.kill g
      g.updThreads s.cur.mask Thread.past
  | none => s

end Sys2Proof.Machine
end

