-- ==== Sys2Proof/Machine/Flags.lean ====
section
/-! DEFINITION. Pure integer functions and every predicate computation: readings of a value as an integer, clamping,
comparison, combination with a predicate, tables of three inputs, bit fields, division (R108 to R123). -/
namespace Sys2Proof.Machine

/-- What a meaning answers. -/
abbrev Out := Host.Outcome State Fault Refusal

/-- num: the integer a value holds under type t (R110). -/
def num {n : Nat} (v : BitVec n) (t : IntTy) : Int := match t with | .i => v.toInt | .n => v.toNat
/-- clamp: x limited to the n-bit range of type t (R110). -/
def clampTo (n : Nat) (t : IntTy) (x : Int) : Int :=
  match t with
  | .n => max 0 (min x ((2 : Int) ^ n - 1))
  | .i => max (-(2 : Int) ^ (n - 1)) (min x ((2 : Int) ^ (n - 1) - 1))
/-- compare on integers (R109, R122). -/
def cmpInt (k : Cmp) (x y : Int) : Bool :=
  match k with
  | .eq => x == y | .ne => x != y | .lt => x < y | .le => x ≤ y | .gt => y < x | .ge => y ≤ x
/-- How a comparison joins the predicate it writes (R122). -/
def combine (k : Comb) (old new : Bool) : Bool :=
  match k with | .set => new | .and => old && new | .or => old || new | .xor => old != new
/-- A result under SAT (R111). -/
def sat32 (sat : Bool) (t : IntTy) (x : Int) : W32 := BitVec.ofInt 32 (if sat then clampTo 32 t x else x)
/-- Sign- and zero-extended immediates (R108). -/
def immS {n : Nat} (imm : BitVec 17) : BitVec n := imm.signExtend n
def immZ {n : Nat} (imm : BitVec 17) : BitVec n := imm.setWidth n

/-- IADD, ISUB on integers, under T and SAT (R111). -/
def addT (t : IntTy) (sat : Bool) (a b : W32) : W32 := sat32 sat t (num a t + num b t)
def subT (t : IntTy) (sat : Bool) (a b : W32) : W32 := sat32 sat t (num a t - num b t)
/-- IMULH: the high half of the product (R111). -/
def mulh {n : Nat} (t : IntTy) (a b : BitVec n) : BitVec n := BitVec.ofInt n ((num a t * num b t).fdiv ((2 : Int) ^ n))
/-- IMIN, IMAX: the lesser, the greater (R111, R133). -/
def minT {n : Nat} (t : IntTy) (a b : BitVec n) : BitVec n := if num b t < num a t then b else a
def maxT {n : Nat} (t : IntTy) (a b : BitVec n) : BitVec n := if num a t < num b t then b else a
/-- IDIV: the quotient rounded towards zero (R112). -/
def divT (t : IntTy) (a b : W32) : W32 :=
  if b == 0 then 0xFFFFFFFF else BitVec.ofInt 32 ((num a t).tdiv (num b t))
/-- IREM: a − b × quotient (R112). -/
def remT (t : IntTy) (a b : W32) : W32 := if b == 0 then a else BitVec.ofInt 32 ((num a t).tmod (num b t))
/-- IABS (R113). -/
def abs32 (sat : Bool) (a : W32) : W32 := sat32 sat .i (num a .i).natAbs
/-- ISAD (R113). -/
def sad32 (t : IntTy) (a b c : W32) : W32 := BitVec.ofNat 32 (num a t - num b t).natAbs + c
/-- IMADW (R113). -/
def madw (t : IntTy) (a b : W32) (c : W64) : W64 := BitVec.ofInt 64 (num a t * num b t + c.toInt)
/-- SHL, SHR, SRA by a count of five bits (R114). -/
def shl32 (a : W32) (n : Nat) : W32 := a <<< n
def shr32 (a : W32) (n : Nat) : W32 := a >>> n
def sra32 (a : W32) (n : Nat) : W32 := a.sshiftRight n
/-- ROT (R114). -/
def rot32 (right : Bool) (a : W32) (n : Nat) : W32 := if right then a.rotateRight n else a.rotateLeft n
/-- SHF (R114). -/
def shf32 (right : Bool) (a b : W32) (n : Nat) : W32 :=
  let q : W64 := b ++ a
  if right then (q >>> n).setWidth 32 else (q <<< n).extractLsb' 32 32
/-- The count in bits [4:0] of a value (R114). -/
def cnt5 (b : W32) : Nat := b.toNat % 32
/-- BOOL3: the table chosen by each bit of c (R115). -/
def bool3 (g0 g1 : BitVec 4) (a b c : W32) : W32 :=
  maskOf fun i =>
    let j := 2 * (a.getLsbD i).toNat + (b.getLsbD i).toNat
    if c.getLsbD i then g1.getLsbD j else g0.getLsbD j
/-- POPC, CLZ, CTZ, BREV (R116). -/
def popc32 (a : W32) : W32 := BitVec.ofNat 32 (laneCount a)
def clz32 (a : W32) : W32 := BitVec.ofNat 32 ((allLanes.find? fun i => a.getLsbD (31 - i)).getD 32)
def ctz32 (a : W32) : W32 := BitVec.ofNat 32 ((allLanes.find? fun i => a.getLsbD i).getD 32)
def brev32 (a : W32) : W32 := maskOf fun i => a.getLsbD (31 - i)
/-- BFX (R117). -/
def bfx32 (t : IntTy) (a b c : W32) : W32 :=
  let p := cnt5 b
  let w := min (c.toNat % 64) (32 - p)
  let f := (a >>> p).toNat % 2 ^ w
  if w == 0 then 0
  else match t with
    | .n => BitVec.ofNat 32 f
    | .i => BitVec.ofInt 32 (if f < 2 ^ (w - 1) then (f : Int) else (f : Int) - (2 : Int) ^ w)
/-- BFI (R117). -/
def bfi32 (a b c : W32) : W32 :=
  let p := cnt5 c
  let w := min ((c >>> 8).toNat % 64) (32 - p)
  maskOf fun i => if p ≤ i && i < p + w then b.getLsbD (i - p) else a.getLsbD i
/-- BSHUF (R118). -/
def bshuf32 (a b c : W32) : W32 :=
  let q : W64 := b ++ a
  let byte (k : Nat) : BitVec 8 :=
    let e := fld c (8 * k) 8
    let g : BitVec 8 := (q >>> (8 * (e.toNat % 8))).setWidth 8
    match (e.toNat / 8) % 4 with
    | 0 => g
    | 1 => 0
    | 2 => if g.msb then 0xFF else 0
    | _ => 0xFF
  byte 3 ++ byte 2 ++ byte 1 ++ byte 0
/-- A two-input table: bit 2a + b (R115, R123). -/
def lut2 (t : BitVec 4) (a b : Bool) : Bool := t.getLsbD (2 * a.toNat + b.toNat)

end Sys2Proof.Machine
end

