-- ==== Sys2Proof/Machine/Integer.lean ====
section
/-! DEFINITION. The integer, logic, move and predicate instructions (R106 to R125). -/
namespace Sys2Proof.Machine

/-- The word done: its kills, and its threads at the next word. -/
def State.done (s : State) (i : Instr) : Out := .next (s.finish i)

/-- A 32-bit vector result in the active lanes: U from all-U sources, else `aff`, else G (R75, R76). -/
def State.vec (s : State) (c : Ctl) (d : Opnd) (srcs : List Opnd) (lat : Lat) (f : Nat → W32)
    (aff : Option Shaped := none) : State :=
  s.wv d (s.active c) f (if srcs.all s.isU then some (.u (f 0)) else aff) lat
/-- A 64-bit vector result (R77). -/
def State.vec64 (s : State) (c : Ctl) (d : Opnd) (u : Bool) (lat : Lat) (f : Nat → W64) : State :=
  s.wv64 d (s.active c) f u lat
/-- A result per lane from one source, two, three. -/
def State.vec1 (s : State) (c : Ctl) (d a : Opnd) (f : W32 → W32) : State :=
  s.vec c d [a] .i fun l => f (s.rd a l)
def State.vec2 (s : State) (c : Ctl) (d a b : Opnd) (f : W32 → W32 → W32) : State :=
  s.vec c d [a, b] .i fun l => f (s.rd a l) (s.rd b l)
def State.vec3 (s : State) (c : Ctl) (d a b e : Opnd) (f : W32 → W32 → W32 → W32) : State :=
  s.vec c d [a, b, e] .i fun l => f (s.rd a l) (s.rd b l) (s.rd e l)

/-- The A result of IADD or ISUB, with bases and strides combined (R75). -/
def affAdd (sub : Bool) (a b : Shaped) : Option Shaped :=
  match a.affine, b.affine with
  | some (b1, s1), some (b2, s2) => some (if sub then .a (b1 - b2) (s1 - s2) else .a (b1 + b2) (s1 + s2))
  | _, _ => none
/-- The A result of IMUL of A and U (R75). -/
def affMul (a b : Shaped) : Option Shaped :=
  match a, b with
  | .a b1 s1, .u c => some (.a (b1 * c) (s1 * c))
  | .u c, .a b1 s1 => some (.a (b1 * c) (s1 * c))
  | _, _ => none
/-- The A result of SHL of A by U (R75). -/
def affShl (a b : Shaped) : Option Shaped :=
  match a, b with
  | .a b1 s1, .u c => some (.a (b1 <<< cnt5 c) (s1 <<< cnt5 c))
  | _, _ => none
/-- The A result of LEA (R121). -/
def affLea (n : Nat) (a b e : Shaped) : Option Shaped :=
  match a.affine, b.affine, e.affine with
  | some (b1, s1), some (b2, s2), some (b3, s3) => some (.a ((b1 <<< n) + b2 + b3) ((s1 <<< n) + s2 + s3))
  | _, _, _ => none
/-- The A result of MOV: the source's own shape, when it is A (R75). -/
def affSame (a : Shaped) : Option Shaped := match a with | .a b st => some (.a b st) | _ => none

/-- IADD and ISUB in the 32-bit and 64-bit forms, with y the second source and its shape (R111). -/
def State.addSub (s : State) (c : Ctl) (d : Opnd) (srcs : List Opnd) (sub : Bool) (t : IntTy) (sat w : Bool)
    (a b : Shaped) (x y : Nat → W32) (xw yw : Nat → W64) : State :=
  if w then
    s.vec64 c d (srcs.all s.isUw) .i fun l => if sub then xw l - yw l else xw l + yw l
  else
    s.vec c d srcs .i (fun l => if sub then subT t sat (x l) (y l) else addT t sat (x l) (y l))
      (if sat then none else affAdd sub a b)

/-- NOP does nothing (R67). -/
def execNop (c : Ctl) (s : State) : Out := s.done (.nop c)
/-- IADD of registers (R111). -/
def execIaddRegisters (c : Ctl) (d a b : Opnd) (t : IntTy) (sat w : Bool) (s : State) : Out :=
  (s.addSub c d [a, b] false t sat w (s.shape a) (s.shape b) (s.rd a) (s.rd b) (s.rd64 a) (s.rd64 b)).done
    (.iaddRegisters c d a b t sat w)
/-- IADD of an immediate, sign-extended (R108, R111). -/
def execIaddImmediate (c : Ctl) (d a : Opnd) (imm : BitVec 17) (t : IntTy) (sat w : Bool) (s : State) : Out :=
  (s.addSub c d [a] false t sat w (s.shape a) (.u (immS imm)) (s.rd a) (fun _ => immS imm) (s.rd64 a)
    (fun _ => immS imm)).done (.iaddImmediate c d a imm t sat w)
/-- ISUB (R111). -/
def execIsub (c : Ctl) (d a b : Opnd) (t : IntTy) (sat w : Bool) (s : State) : Out :=
  (s.addSub c d [a, b] true t sat w (s.shape a) (s.shape b) (s.rd a) (s.rd b) (s.rd64 a) (s.rd64 b)).done
    (.isub c d a b t sat w)
/-- IMUL: the low 32 bits of the product (R111). -/
def execImulRegisters (c : Ctl) (d a b : Opnd) (s : State) : Out :=
  (s.vec c d [a, b] .i (fun l => s.rd a l * s.rd b l) (affMul (s.shape a) (s.shape b))).done (.imulRegisters c d a b)
/-- IMUL of an immediate. -/
def execImulImmediate (c : Ctl) (d a : Opnd) (imm : BitVec 17) (s : State) : Out :=
  (s.vec c d [a] .i (fun l => s.rd a l * immS imm) (affMul (s.shape a) (.u (immS imm)))).done (.imulImmediate c d a imm)
/-- IMULH (R111). -/
def execImulh (c : Ctl) (d a b : Opnd) (t : IntTy) (s : State) : Out := (s.vec2 c d a b (mulh t)).done (.imulh c d a b t)
/-- IMAD (R113). -/
def execImad (c : Ctl) (d a b e : Opnd) (s : State) : Out :=
  (s.vec3 c d a b e fun x y z => x * y + z).done (.imad c d a b e)
/-- IMADW: a 64-bit sum (R113). -/
def execImadw (c : Ctl) (d a b e : Opnd) (t : IntTy) (s : State) : Out :=
  (s.vec64 c d (s.isU a && s.isU b && s.isUw e) .i fun l => madw t (s.rd a l) (s.rd b l) (s.rd64 e l)).done
    (.imadw c d a b e t)
/-- IDIV, class SF (R112). -/
def execIdiv (c : Ctl) (d a b : Opnd) (t : IntTy) (s : State) : Out :=
  (s.vec c d [a, b] .sf fun l => divT t (s.rd a l) (s.rd b l)).done (.idiv c d a b t)
/-- IREM, class SF (R112). -/
def execIrem (c : Ctl) (d a b : Opnd) (t : IntTy) (s : State) : Out :=
  (s.vec c d [a, b] .sf fun l => remT t (s.rd a l) (s.rd b l)).done (.irem c d a b t)
/-- IMIN (R111). -/
def execImin (c : Ctl) (d a b : Opnd) (t : IntTy) (s : State) : Out := (s.vec2 c d a b (minT t)).done (.imin c d a b t)
/-- IMAX (R111). -/
def execImax (c : Ctl) (d a b : Opnd) (t : IntTy) (s : State) : Out := (s.vec2 c d a b (maxT t)).done (.imax c d a b t)
/-- IABS (R113). -/
def execIabs (c : Ctl) (d a : Opnd) (sat : Bool) (s : State) : Out := (s.vec1 c d a (abs32 sat)).done (.iabs c d a sat)
/-- ISAD (R113). -/
def execIsad (c : Ctl) (d a b e : Opnd) (t : IntTy) (s : State) : Out :=
  (s.vec3 c d a b e (sad32 t)).done (.isad c d a b e t)
/-- SHL by a register (R114); SHL of A by U is A. -/
def execShlRegisters (c : Ctl) (d a b : Opnd) (s : State) : Out :=
  (s.vec c d [a, b] .i (fun l => shl32 (s.rd a l) (cnt5 (s.rd b l))) (affShl (s.shape a) (s.shape b))).done
    (.shlRegisters c d a b)
/-- SHL by an immediate. -/
def execShlImmediate (c : Ctl) (d a : Opnd) (n : BitVec 5) (s : State) : Out :=
  (s.vec c d [a] .i (fun l => shl32 (s.rd a l) n.toNat) (affShl (s.shape a) (.u (n.setWidth 32)))).done
    (.shlImmediate c d a n)
/-- SHR by a register. -/
def execShrRegisters (c : Ctl) (d a b : Opnd) (s : State) : Out :=
  (s.vec2 c d a b fun x y => shr32 x (cnt5 y)).done (.shrRegisters c d a b)
/-- SHR by an immediate. -/
def execShrImmediate (c : Ctl) (d a : Opnd) (n : BitVec 5) (s : State) : Out :=
  (s.vec1 c d a fun x => shr32 x n.toNat).done (.shrImmediate c d a n)
/-- SRA by a register. -/
def execSraRegisters (c : Ctl) (d a b : Opnd) (s : State) : Out :=
  (s.vec2 c d a b fun x y => sra32 x (cnt5 y)).done (.sraRegisters c d a b)
/-- SRA by an immediate. -/
def execSraImmediate (c : Ctl) (d a : Opnd) (n : BitVec 5) (s : State) : Out :=
  (s.vec1 c d a fun x => sra32 x n.toNat).done (.sraImmediate c d a n)
/-- SHF (R114). -/
def execShf (c : Ctl) (d a b e : Opnd) (right : Bool) (s : State) : Out :=
  (s.vec3 c d a b e fun x y z => shf32 right x y (cnt5 z)).done (.shf c d a b e right)
/-- ROT (R114). -/
def execRot (c : Ctl) (d a b : Opnd) (right : Bool) (s : State) : Out :=
  (s.vec2 c d a b fun x y => rot32 right x (cnt5 y)).done (.rot c d a b right)
/-- AND (R115). -/
def execAndRegisters (c : Ctl) (d a b : Opnd) (s : State) : Out :=
  (s.vec2 c d a b fun x y => x &&& y).done (.andRegisters c d a b)
/-- AND of an immediate, zero-extended (R108). -/
def execAndImmediate (c : Ctl) (d a : Opnd) (imm : BitVec 17) (s : State) : Out :=
  (s.vec1 c d a fun x => x &&& immZ imm).done (.andImmediate c d a imm)
/-- OR. -/
def execOrRegisters (c : Ctl) (d a b : Opnd) (s : State) : Out :=
  (s.vec2 c d a b fun x y => x ||| y).done (.orRegisters c d a b)
/-- OR of an immediate. -/
def execOrImmediate (c : Ctl) (d a : Opnd) (imm : BitVec 17) (s : State) : Out :=
  (s.vec1 c d a fun x => x ||| immZ imm).done (.orImmediate c d a imm)
/-- XOR. -/
def execXorRegisters (c : Ctl) (d a b : Opnd) (s : State) : Out :=
  (s.vec2 c d a b fun x y => x ^^^ y).done (.xorRegisters c d a b)
/-- XOR of an immediate. -/
def execXorImmediate (c : Ctl) (d a : Opnd) (imm : BitVec 17) (s : State) : Out :=
  (s.vec1 c d a fun x => x ^^^ immZ imm).done (.xorImmediate c d a imm)
/-- BOOL3 (R115). -/
def execBool3 (c : Ctl) (d a b e : Opnd) (g0 g1 : BitVec 4) (s : State) : Out :=
  (s.vec3 c d a b e (bool3 g0 g1)).done (.bool3 c d a b e g0 g1)
/-- POPC (R116). -/
def execPopc (c : Ctl) (d a : Opnd) (s : State) : Out := (s.vec1 c d a popc32).done (.popc c d a)
/-- CLZ. -/
def execClz (c : Ctl) (d a : Opnd) (s : State) : Out := (s.vec1 c d a clz32).done (.clz c d a)
/-- CTZ. -/
def execCtz (c : Ctl) (d a : Opnd) (s : State) : Out := (s.vec1 c d a ctz32).done (.ctz c d a)
/-- BREV. -/
def execBrev (c : Ctl) (d a : Opnd) (s : State) : Out := (s.vec1 c d a brev32).done (.brev c d a)
/-- BFX (R117). -/
def execBfx (c : Ctl) (d a b e : Opnd) (t : IntTy) (s : State) : Out :=
  (s.vec3 c d a b e (bfx32 t)).done (.bfx c d a b e t)
/-- BFI (R117). -/
def execBfi (c : Ctl) (d a b e : Opnd) (s : State) : Out := (s.vec3 c d a b e bfi32).done (.bfi c d a b e)
/-- BSHUF (R118). -/
def execBshuf (c : Ctl) (d a b e : Opnd) (s : State) : Out := (s.vec3 c d a b e bshuf32).done (.bshuf c d a b e)
/-- LEA of registers (R121). -/
def execLeaRegisters (c : Ctl) (d a b e : Opnd) (n : BitVec 5) (s : State) : Out :=
  (s.vec c d [a, b, e] .i (fun l => (s.rd a l <<< n.toNat) + s.rd b l + s.rd e l)
    (affLea n.toNat (s.shape a) (s.shape b) (s.shape e))).done (.leaRegisters c d a b e n)
/-- LEA of an immediate. -/
def execLeaImmediate (c : Ctl) (d a : Opnd) (imm : BitVec 17) (n : BitVec 5) (s : State) : Out :=
  (s.vec c d [a] .i (fun l => (s.rd a l <<< n.toNat) + immS imm)
    (affLea n.toNat (s.shape a) (.u (immS imm)) (.u 0))).done (.leaImmediate c d a imm n)
/-- MOV (R119). -/
def execMov (c : Ctl) (d a : Opnd) (w : Bool) (s : State) : Out :=
  (if w then s.vec64 c d (s.isUw a) .i (s.rd64 a)
    else s.vec c d [a] .i (s.rd a) (affSame (s.shape a))).done (.mov c d a w)
/-- MOVI: a constant, or sixteen bits shifted in (R119). -/
def execMovi (c : Ctl) (d : Opnd) (m : MoviMode) (s : State) : Out :=
  (match m with
    | .const imm => s.vec c d [] .i fun _ => imm.signExtend 32
    | .ins a imm => s.vec c d [a] .i fun l => (s.rd a l <<< 16) ||| imm.setWidth 32).done (.movi c d m)
/-- SEL: the result is G (R120). A 64-bit result is G in both registers. -/
def execSel (c : Ctl) (d a b : Opnd) (p : BitVec 3) (neg w : Bool) (s : State) : Out :=
  (if w then s.vec64 c d false .i fun l => if s.g.pred p l != neg then s.rd64 a l else s.rd64 b l
    else s.wv d (s.active c) (fun l => if s.g.pred p l != neg then s.rd a l else s.rd b l) none .i).done
    (.sel c d a b p neg w)
/-- ISET of registers (R122). -/
def execIsetRegisters (c : Ctl) (p : BitVec 3) (a b : Opnd) (cmp : Cmp) (t : IntTy) (comb : Comb) (s : State) : Out :=
  (s.wp p (s.active c) (fun l => combine comb (s.g.pred p l) (cmpInt cmp (num (s.rd a l) t) (num (s.rd b l) t))) .i).done
    (.isetRegisters c p a b cmp t comb)
/-- ISET of an immediate, sign-extended for .i32 and zero-extended for .n32 (R108). -/
def execIsetImmediate (c : Ctl) (p : BitVec 3) (a : Opnd) (imm : BitVec 17) (cmp : Cmp) (t : IntTy) (comb : Comb)
    (s : State) : Out :=
  let y : W32 := match t with | .i => immS imm | .n => immZ imm
  (s.wp p (s.active c) (fun l => combine comb (s.g.pred p l) (cmpInt cmp (num (s.rd a l) t) (num y t))) .i).done
    (.isetImmediate c p a imm cmp t comb)
/-- PLOP (R123). -/
def execPlop (c : Ctl) (p pa pb : BitVec 3) (lut : BitVec 4) (s : State) : Out :=
  (s.wp p (s.active c) (fun l => lut2 lut (s.g.pred pa l) (s.g.pred pb l)) .i).done (.plop c p pa pb lut)
/-- P2V: always G (R124). -/
def execP2v (c : Ctl) (d : Opnd) (s : State) : Out :=
  (s.wv d (s.active c) (fun l => BitVec.setWidth 32 (BitVec.ofBoolListLE ((List.range 7).map fun i =>
    (s.g.preds.getD i 0).getLsbD l))) none .i).done (.p2v c d)
/-- V2P: each predicate the mask names (R124). -/
def execV2p (c : Ctl) (a : Opnd) (mask : BitVec 7) (s : State) : Out :=
  (((List.range 7).filter mask.getLsbD).foldl (fun s' i =>
    s'.wp (BitVec.ofNat 3 i) (s.active c) (fun l => (s.rd a l).getLsbD i) .i) s).done (.v2p c a mask)
/-- VSHAPE: the shape code of a register (R125). -/
def execVshape (c : Ctl) (d a : Opnd) (s : State) : Out :=
  (s.wvs d (s.active c) (BitVec.ofNat 32 (s.code a)) .i).done (.vshape c d a)
/-- VWIDEN: the value, as G (R125). -/
def execVwiden (c : Ctl) (d a : Opnd) (s : State) : Out :=
  (s.wv d (s.active c) (s.rd a) none .i).done (.vwiden c d a)

end Sys2Proof.Machine
end

