-- ==== Sys2Proof/Machine/Numbers.lean ====
section
/-! DEFINITION. The number formats (R89 to R105): values as exact dyadic numbers, one rounding, conversion and its overflow
policies, exact sums and products, and the special functions of R161. -/
namespace Sys2Proof.Machine

/-- A value: NaN, an infinity, or (−1)^neg × m × 2^e, where m = 0 is a zero with its sign (R91). -/
inductive Val where
  | nan | inf (neg : Bool) | fin (neg : Bool) (m : Nat) (e : Int)
  deriving DecidableEq, Repr, Inhabited

/-- Bits of a number. -/
def bitLen (n : Nat) : Nat := if n = 0 then 0 else Nat.log2 n + 1
/-- Fraction bits of a floating format (R89). -/
def fracBits : Fmt → Nat
  | .f32 => 23 | .f19 => 10 | .f16 => 10 | .b16 => 7 | .e5m2 => 2 | .e4m3 => 3 | .e3m4 => 4 | .e2m1 => 1 | .e1m2 => 2 | _ => 0
/-- Exponent bias of a floating format (R89). -/
def expBias : Fmt → Int
  | .f32 | .f19 | .b16 => 127 | .f16 | .e5m2 => 15 | .e4m3 => 7 | .e3m4 => 3 | .e2m1 => 1 | _ => 0
/-- Position of the sign bit of a floating format or LG8 (R89). -/
def signPos : Fmt → Nat
  | .f32 => 31 | .f19 => 18 | .f16 | .b16 => 15 | .e5m2 | .e4m3 | .e3m4 | .lg8 => 7 | _ => 3
/-- Magnitude code of the largest finite value (R92). -/
def maxCode : Fmt → Nat
  | .f32 => 0x7F7FFFFF | .f19 => 0x3FBFF | .f16 => 0x7BFF | .b16 => 0x7F7F | .e5m2 => 0x7B
  | .e4m3 | .e3m4 => 0x7E | .lg8 => 0x7F | .e2m1 | .e1m2 => 7 | _ => 0
/-- The formats with infinities (R89). -/
def hasInf : Fmt → Bool | .f32 | .f19 | .f16 | .b16 | .e5m2 => true | _ => false
/-- The canonical NaN, or the NaN-ternary; none where the format has no NaN (R92, R94). -/
def nanCode : Fmt → Option Nat
  | .f32 => some 0x7FC00000 | .f19 => some 0x3FE00 | .f16 => some 0x7E00 | .b16 => some 0x7FC0 | .e5m2 => some 0x7E
  | .e4m3 | .e3m4 => some 0x7F | .lg8 => some 0x80 | .t2 => some 2 | _ => none
/-- The exponent of the last place of a format's subnormals. -/
def ulpExp (f : Fmt) : Int := 1 - expBias f - fracBits f
/-- The least and greatest value of an integer or ternary range (R89). -/
def intRange : CvtTy → Int × Int
  | .i32 => (-2147483648, 2147483647) | .n32 => (0, 4294967295)
  | .i64 => (-9223372036854775808, 9223372036854775807) | .n64 => (0, 18446744073709551615)
  | .el .i8 => (-128, 127) | .el .n8 => (0, 255) | .el .i4 => (-8, 7) | .el .n4 => (0, 15) | .el .i2 => (-2, 1)
  | .el .t2 => (-1, 1) | _ => (0, 0)
/-- Bits of a CVT type's code. -/
def tyWidth : CvtTy → Nat | .el f => f.width | .i32 | .n32 => 32 | .i64 | .n64 => 64

/-- The constants of LG8 (R93). -/
def lgConst : Nat → Nat | 0 => 1024 | 1 => 1117 | 2 => 1218 | 3 => 1328 | 4 => 1448 | 5 => 1579 | 6 => 1722 | _ => 1878
/-- The magnitude of logarithm L of LG8 as m × 2^e; L = 0 is zero (R93). -/
def lgMag (l : Nat) : Nat × Int :=
  if l = 0 then (0, 0) else (lgConst (l % 8), (l : Int) / 8 - 18)
/-- m1 × 2^e1 ≤ m2 × 2^e2. -/
def magLe (a b : Nat × Int) : Bool :=
  let e := min a.2 b.2
  a.1 * 2 ^ (a.2 - e).toNat ≤ b.1 * 2 ^ (b.2 - e).toNat

/-- An integer as a value. -/
def valInt (i : Int) : Val := .fin (i < 0) i.natAbs 0
/-- val: the value of a code in a format (R91 to R94). -/
def val (x : Nat) (f : Fmt) : Val :=
  match f with
  | .i8 => valInt (BitVec.ofNat 8 x).toInt | .n8 => valInt (x % 256)
  | .i4 => valInt (BitVec.ofNat 4 x).toInt | .n4 => valInt (x % 16)
  | .i2 => valInt (BitVec.ofNat 2 x).toInt
  | .t2 => match x % 4 with | 0 => .fin false 0 0 | 1 => .fin false 1 0 | 3 => .fin true 1 0 | _ => .nan
  | .lg8 =>
    if x % 256 = 0x80 then .nan
    else let m := lgMag (x % 128); .fin (x % 256 / 128 = 1) m.1 m.2
  | f =>
    let neg : Bool := x / 2 ^ signPos f % 2 = 1
    let mag := x % 2 ^ signPos f
    let ef := mag / 2 ^ fracBits f
    let fr := mag % 2 ^ fracBits f
    if hasInf f && maxCode f < mag then (if fr = 0 then .inf neg else .nan)
    else if (f == .e4m3 || f == .e3m4) && maxCode f < mag then .nan
    else if ef = 0 then .fin neg fr (ulpExp f)
    else .fin neg (2 ^ fracBits f + fr) (ulpExp f + ef - 1)

/-- m × 2^e rounded to a multiple n × 2^q, for a value of this sign (R96); on a tie `even` says whether n is to be kept. -/
def roundAt (rm : Rm) (neg : Bool) (m : Nat) (e q : Int) : Nat :=
  if q ≤ e then m * 2 ^ (e - q).toNat
  else
    let d := (q - e).toNat
    let far : Bool := bitLen m + 1 < d
    let n := if far then 0 else m / 2 ^ d
    let r := if far then m else m % 2 ^ d
    let up : Bool := match rm with
      | .rz => false
      | .ru => !neg && r != 0
      | .rd => neg && r != 0
      | .rn => !far && (2 ^ d < 2 * r || (2 * r == 2 ^ d && n % 2 == 1))
    if up then n + 1 else n
/-- The integer nearest a finite value in a mode (R96, R160). -/
def roundInt (rm : Rm) (neg : Bool) (m : Nat) (e : Int) : Int :=
  let n : Int := roundAt rm neg m e 0
  if neg then -n else n
/-- The magnitude code on a format's grid with its exponent range continued upwards (R99). -/
def unboundedCode (f : Fmt) (rm : Rm) (neg : Bool) (m : Nat) (e : Int) : Nat :=
  let q := max (ulpExp f) (bitLen m + e - (fracBits f + 1))
  if m = 0 then 0 else (q - ulpExp f).toNat * 2 ^ fracBits f + roundAt rm neg m e q
/-- The logarithm of LG8 nearest a magnitude, 128 standing for every value above the largest (R93, R96, R99). -/
def lgCode (rm : Rm) (neg : Bool) (m : Nat) (e : Int) : Nat :=
  if m = 0 then 0
  else if magLe (lgMag 128) (m, e) then 128
  else
    let l := ((List.range 128).filter fun i => magLe (lgMag i) (m, e)).length - 1
    let lo := lgMag l
    let hi := lgMag (l + 1)
    let em := min lo.2 hi.2
    let mid : Nat × Int := (lo.1 * 2 ^ (lo.2 - em).toNat + hi.1 * 2 ^ (hi.2 - em).toNat, em - 1)
    let exact := magLe (m, e) lo
    let up : Bool := match rm with
      | .rz => false
      | .ru => !neg
      | .rd => neg
      | .rn => !magLe (m, e) mid || (magLe mid (m, e) && l % 2 == 1)
    if !exact && up then l + 1 else l
/-- The code of an infinity (R91). -/
def infCode (f : Fmt) (neg : Bool) : Nat := (if neg then 2 ^ signPos f else 0) + maxCode f + 1
/-- The code of the largest finite value of a sign. -/
def bigCode (f : Fmt) (neg : Bool) : Nat := (if neg then 2 ^ signPos f else 0) + maxCode f
/-- Whether IEEE 754-2019 overflow in this mode gives an infinity (R99). -/
def ovfInf (rm : Rm) (neg : Bool) : Bool := match rm with | .rn => true | .rz => false | .ru => !neg | .rd => neg
/-- An integer's code in a type. -/
def intCode (t : CvtTy) (i : Int) : Nat := (i % (2 : Int) ^ tyWidth t).toNat
/-- overflow_result of R99; rm is none for an infinite source. None is CVTOVF. -/
def overflowResult (t : CvtTy) (neg : Bool) (rm : Option Rm) (pol : Pol) : Option Nat :=
  match pol with
  | .trap => none
  | pol =>
    match t with
    | .el .t2 => some (if pol == .sat then (if neg then 3 else 1) else 2)
    | .el .e2m1 => some (bigCode .e2m1 neg)
    | .el .e1m2 => some (bigCode .e1m2 neg)
    | .el f =>
      if f.isInt then some (intCode (.el f) (if neg then (intRange (.el f)).1 else (intRange (.el f)).2))
      else match pol with
        | .nan => nanCode f
        | .inf =>
          if rm.all (ovfInf · neg) then (if hasInf f then some (infCode f neg) else nanCode f) else some (bigCode f neg)
        | _ => some (bigCode f neg)
    | t => some (intCode t (if neg then (intRange t).1 else (intRange t).2))

/-- convert of R99: the code, or none for CVTOVF. -/
def convert (x : Val) (t : CvtTy) (rm : Rm) (pol : Pol) : Option Nat :=
  let isFlt : Bool := match t with | .el f => !f.isInt && f != .t2 | _ => false
  let fm : Fmt := match t with | .el f => f | _ => .i8
  match x with
  | .nan =>
    match t with
    | .el f => match nanCode f with
      | some n => some n
      | none => if pol == .trap then none else some 0
    | _ => if pol == .trap then none else some 0
  | .inf neg =>
    if isFlt && hasInf fm then some (infCode fm neg) else overflowResult t neg none pol
  | .fin neg m e =>
    if isFlt then
      if fm == .lg8 then
        let l := lgCode rm neg m e
        if l = 0 then some 0 else if 127 < l then overflowResult t neg (some rm) pol else some ((if neg then 128 else 0) + l)
      else
        let n := unboundedCode fm rm neg m e
        if maxCode fm < n then overflowResult t neg (some rm) pol
        else some ((if neg then 2 ^ signPos fm else 0) + n)
    else
      let i := roundInt rm neg m e
      if i < (intRange t).1 || (intRange t).2 < i then overflowResult t neg (some rm) pol else some (intCode t i)
/-- rnd: the code of a value in a floating format, with the IEEE 754-2019 overflow of the mode (R156). -/
def rnd (x : Val) (f : Fmt) (rm : Rm) : W32 := BitVec.ofNat 32 ((convert x (.el f) rm .inf).getD 0)

/-- The sign of a value; NaN has none. -/
def Val.neg : Val → Val
  | .nan => .nan | .inf n => .inf (!n) | .fin n m e => .fin (!n) m e
/-- An exact product (R101, R102). -/
def Val.mul (x y : Val) : Val :=
  match x, y with
  | .nan, _ | _, .nan => .nan
  | .inf a, .inf b => .inf (a != b)
  | .inf a, .fin b m _ | .fin b m _, .inf a => if m = 0 then .nan else .inf (a != b)
  | .fin a m e, .fin b n f => .fin (a != b) (m * n) (e + f)
/-- An exact sum, with the sign of an exact zero in the mode (R97, R101, R102). -/
def sumVals (rm : Rm) (l : List Val) : Val :=
  if l.contains .nan || (l.contains (.inf false) && l.contains (.inf true)) then .nan
  else if l.contains (.inf false) then .inf false
  else if l.contains (.inf true) then .inf true
  else
    let e := l.foldl (fun a x => match x with | .fin _ m e => if m = 0 then a else min a e | _ => a) 0
    let t : Int := l.foldl (fun a x => match x with
      | .fin n m f => if m = 0 then a else let v : Int := m * 2 ^ (f - e).toNat; if n then a - v else a + v
      | _ => a) 0
    if t = 0 then
      let allZ (s : Bool) := l.all fun x => match x with | .fin n m _ => m == 0 && n == s | _ => false
      .fin (if rm == .rd then !allZ false else allZ true) 0 0
    else .fin (t < 0) t.natAbs e
/-- x + y in a mode (R97). -/
def Val.add (rm : Rm) (x y : Val) : Val := sumVals rm [x, y]
/-- Whether x < y, neither a NaN; −0 and +0 are equal. -/
def Val.lt (x y : Val) : Bool :=
  match x, y with
  | .nan, _ | _, .nan => false
  | .inf a, .inf b => a && !b
  | .inf a, _ => a
  | _, .inf b => !b
  | x, y => match sumVals .rn [x, y.neg] with | .fin n m _ => n && m != 0 | _ => false
/-- Equality of values; −0 equals +0, and a NaN nothing (R158). -/
def Val.eqv (x y : Val) : Bool := x != .nan && y != .nan && !x.lt y && !y.lt x
/-- The comparisons of R158. -/
def cmpVal (k : FCmp) (x y : Val) : Bool :=
  match k with
  | .eq => x.eqv y | .ne => !x.eqv y | .lt => x.lt y | .le => x.lt y || x.eqv y | .gt => y.lt x | .ge => y.lt x || x.eqv y
  | .num => x != .nan && y != .nan | .nan => x == .nan || y == .nan
/-- Whether the first of two codes is the minimumNumber (R157): −0 is less than +0. -/
def minFirst (x y : Val) : Bool :=
  match x, y with
  | .fin a 0 _, .fin b 0 _ => a || !b
  | x, y => !y.lt x
/-- minimumNumber and maximumNumber on codes of a format: the chosen source's bits (R157). -/
def fminCode (f : Fmt) (a b : Nat) : Nat :=
  match val a f, val b f with
  | .nan, .nan => (nanCode f).getD 0
  | .nan, _ => b
  | _, .nan => a
  | x, y => if minFirst x y then a else b
def fmaxCode (f : Fmt) (a b : Nat) : Nat :=
  match val a f, val b f with
  | .nan, .nan => (nanCode f).getD 0
  | .nan, _ => b
  | _, .nan => a
  | x, y => if minFirst x y then b else a
/-- The class mask of R159, for codes of w(f) bits. -/
def classMask (f : Fmt) (x : Nat) : W32 :=
  match val x f with
  | .nan => 0x100
  | .inf n => if n then 0x001 else 0x080
  | .fin n m _ =>
    if m = 0 then (if n then 0x008 else 0x010)
    else if m < 2 ^ fracBits f then (if n then 0x004 else 0x020) else (if n then 0x002 else 0x040)

/-- The square root, rounded down, of a number of at most 2k bits: bit by bit. -/
def isqrtAux (n : Nat) : Nat → Nat → Nat
  | 0, r => r
  | k + 1, r => let t := r + 2 ^ k; isqrtAux n k (if t * t ≤ n then t else r)
def isqrt (n : Nat) : Nat := isqrtAux n (bitLen n / 2 + 1) 0
/-- A value with a sticky last bit: m × 2^e and a remainder below one unit. -/
def stickyVal (neg : Bool) (m : Nat) (e : Int) (exact : Bool) : Val := .fin neg (2 * m + (if exact then 0 else 1)) (e - 1)
/-- 1 / x (R161). -/
def recipVal (x : Val) : Val :=
  match x with
  | .nan => .nan
  | .inf n => .fin n 0 0
  | .fin n m e =>
    if m = 0 then .inf n
    else let k := bitLen m + 64; stickyVal n (2 ^ k / m) (-(k : Int) - e) (2 ^ k % m == 0)
/-- √x (R161). -/
def sqrtVal (x : Val) : Val :=
  match x with
  | .nan => .nan
  | .inf n => if n then .nan else .inf false
  | .fin n m e =>
    if m = 0 then .fin n 0 0
    else if n then .nan
    else
      let a := if e % 2 = 0 then m else 2 * m
      let f := if e % 2 = 0 then e else e - 1
      let r := isqrt (a * 2 ^ 128)
      stickyVal false r (f / 2 - 64) (r * r == a * 2 ^ 128)
/-- 1 / √x (R161). -/
def rsqrtVal (x : Val) : Val :=
  match x with
  | .nan => .nan
  | .inf n => if n then .nan else .fin false 0 0
  | .fin n m e =>
    if m = 0 then .inf n
    else if n then .nan
    else
      let a := if e % 2 = 0 then m else 2 * m
      let f := if e % 2 = 0 then e else e - 1
      let r := isqrt (2 ^ 256 / a)
      stickyVal false r (-f / 2 - 128) (r * r * a == 2 ^ 256)

/-- Fixed-point constants with 400 fraction bits: π, ln 2, log2 e. -/
def fpBits : Nat := 400
def fpPi : Nat := 0x3243F6A8885A308D313198A2E03707344A4093822299F31D0082EFA98EC4E6C89452821E638D01377BE5466CF34E90C6CC0AC
def fpLn2 : Nat := 0xB17217F7D1CF79ABC9E3B39803F2F6AF40F343267298B62D8A0D175B8BAAFA2BE7B876206DEBAC98559552FB4AFA1B10ED2E
def fpLog2e : Nat := 0x171547652B82FE1777D0FFDA0D23A7D11D6AEF551BAD2B4B1164A2CD9A342648FBC3887EEAA2ED9AC49B25EEB82D7C167D521
/-- A fixed-point product. -/
def fpMul (a b : Nat) : Nat := a * b / 2 ^ fpBits
/-- e^y for a fixed-point y below 1, by its series. -/
def expSeries (y : Nat) : Nat → Nat → Nat → Nat
  | 0, _, acc => acc
  | k + 1, t, acc =>
    let i := 100 - k
    let t' := fpMul t y / i
    expSeries y k t' (acc + t')
def fpExp (y : Nat) : Nat := expSeries y 100 (2 ^ fpBits) (2 ^ fpBits)
/-- 2^t for a fixed-point number: the value 2^(whole part) × 2^(fraction). -/
def exp2Val (t : Int) : Val :=
  let k := t / (2 : Int) ^ fpBits
  let f := (t % (2 : Int) ^ fpBits).toNat
  if f = 0 then .fin false 1 k else stickyVal false (fpExp (fpMul f fpLn2)) (k - fpBits) false
/-- A finite value in fixed point; values below its last place do not occur in FP32. -/
def toFixed (neg : Bool) (m : Nat) (e : Int) : Int :=
  let v : Int := m * 2 ^ (fpBits + e).toNat
  if neg then -v else v
/-- 2^x (R161). -/
def fexp2Val (x : Val) : Val :=
  match x with
  | .nan => .nan
  | .inf n => if n then .fin false 0 0 else .inf false
  | .fin n m e => if 2048 < roundInt .rz false m e then (if n then .fin false 1 (-1000) else .fin false 1 1000) else exp2Val (toFixed n m e)
/-- 2 × (z + z³/3 + z⁵/5 + …), the logarithm of (1 + z) / (1 − z). -/
def atanhSeries (z2 : Nat) : Nat → Nat → Nat → Nat
  | 0, _, acc => acc
  | k + 1, t, acc => let i := 2 * (140 - k) - 1; atanhSeries z2 k (fpMul t z2) (acc + 2 * t / i)
/-- log2 x (R161). -/
def flog2Val (x : Val) : Val :=
  match x with
  | .nan => .nan
  | .inf n => if n then .nan else .inf false
  | .fin n m e =>
    if m = 0 then .inf true
    else if n then .nan
    else
      let k := Nat.log2 m
      let w : Int := k + e
      if m = 2 ^ k then valInt w
      else
        let z := (m - 2 ^ k) * 2 ^ fpBits / (m + 2 ^ k)
        let l := fpMul (atanhSeries (fpMul z z) 140 z 0) fpLog2e
        let t : Int := w * 2 ^ fpBits + l
        stickyVal (t < 0) t.natAbs (-(fpBits : Int)) false
/-- y − y³/3! + y⁵/5! − …: the sine of a fixed-point y. -/
def sinSeries (y2 : Nat) : Nat → Nat → Int → Int
  | 0, _, acc => acc
  | k + 1, t, acc =>
    let i := 2 * (60 - k)
    let acc' : Int := if k % 2 = 1 then acc + t else acc - t
    sinSeries y2 k (fpMul t y2 / (i * (i + 1))) acc'
/-- sin(π r) for r in half-turns, 0 ≤ r < 2, in fixed point; none for an exact zero. -/
def sinTurn (r : Nat) : Option Val :=
  let one := 2 ^ fpBits
  let neg : Bool := one ≤ r
  let r1 := if neg then r - one else r
  let r2 := if 2 * r1 ≤ one then r1 else one - r1
  if r2 = 0 then none
  else if 2 * r2 = one then some (.fin neg 1 0)
  else
    let y := fpMul r2 fpPi
    let v := sinSeries (fpMul y y) 60 y 0
    some (stickyVal neg v.natAbs (-(fpBits : Int)) false)
/-- A magnitude modulo two half-turns, in fixed point. -/
def turnOf (m : Nat) (e : Int) : Nat := m * 2 ^ (fpBits + e).toNat % 2 ^ (fpBits + 1)
/-- sin(π x) (R161). -/
def fsinVal (x : Val) : Val :=
  match x with
  | .nan | .inf _ => .nan
  | .fin n m e =>
    match sinTurn (turnOf m e) with
    | none => .fin n 0 0
    | some v => if n then v.neg else v
/-- cos(π x) = sin(π (x + 1/2)) (R161). -/
def fcosVal (x : Val) : Val :=
  match x with
  | .nan | .inf _ => .nan
  | .fin _ m e => (sinTurn ((turnOf m e + 2 ^ (fpBits - 1)) % 2 ^ (fpBits + 1))).getD (.fin false 0 0)
/-- tanh x = (e^2x − 1) / (e^2x + 1) (R161). -/
def ftanhVal (x : Val) : Val :=
  match x with
  | .nan => .nan
  | .inf n => .fin n 1 0
  | .fin n m e =>
    if m = 0 then .fin n 0 0
    else if 16 ≤ roundInt .rz false m e then .fin n (2 ^ 40 - 1) (-40)
    else
      let t := fpMul (2 * (toFixed false m e).toNat) fpLog2e
      let k := t / 2 ^ fpBits
      let ex := fpExp (fpMul (t % 2 ^ fpBits) fpLn2) * 2 ^ k
      let one := 2 ^ fpBits
      stickyVal n ((ex - one) * one / (ex + one)) (-(fpBits : Int)) false
/-- A block scale's value (R95). -/
def bs8 (x : Nat) : Val :=
  if x = 0 then .fin false 0 0 else if x = 255 then .nan else .fin false (4 + x % 4) ((x / 4 : Int) - 34)

/-- Special function of an FP32 lane. -/
def sf32 (g : Val → Val) (rm : Rm) (x : W32) : W32 := rnd (g (val x.toNat .f32)) .f32 rm
/-- FADD, FSUB, FMUL, FFMA on codes of a format (R156). -/
def faddCode (f : Fmt) (rm : Rm) (x y : W32) : W32 := rnd ((val x.toNat f).add rm (val y.toNat f)) f rm
def fsubCode (f : Fmt) (rm : Rm) (x y : W32) : W32 := rnd ((val x.toNat f).add rm (val y.toNat f).neg) f rm
def fmulCode (f : Fmt) (rm : Rm) (x y : W32) : W32 := rnd ((val x.toNat f).mul (val y.toNat f)) f rm
def ffmaCode (f : Fmt) (rm : Rm) (np nc : Bool) (x y z : W32) : W32 :=
  let p := (val x.toNat f).mul (val y.toNat f)
  let c := val z.toNat f
  rnd ((if np then p.neg else p).add rm (if nc then c.neg else c)) f rm
def fmin32 (x y : W32) : W32 := BitVec.ofNat 32 (fminCode .f32 x.toNat y.toNat)
def fmax32 (x y : W32) : W32 := BitVec.ofNat 32 (fmaxCode .f32 x.toNat y.toNat)
/-- FRND (R160): a zero result has the sign of the source. -/
def frnd32 (rm : Rm) (x : W32) : W32 :=
  match val x.toNat .f32 with
  | .fin n m e => rnd (.fin n (roundInt rm n m e).natAbs 0) .f32 rm
  | v => rnd v .f32 rm
/-- FSCALE (R160). -/
def fscale32 (rm : Rm) (x k : W32) : W32 :=
  match val x.toNat .f32 with
  | .fin n m e => rnd (.fin n m (if m = 0 then 0 else e + k.toInt)) .f32 rm
  | v => rnd v .f32 rm
/-- A packed 16-bit operation, element by element (R162). -/
def packed2 (op : W32 → W32 → W32) (x y : W32) : W32 :=
  let el (v : W32) (k : Nat) : W32 := (fld v (16 * k) 16).setWidth 32
  (op (el x 1) (el y 1)).setWidth 16 ++ (op (el x 0) (el y 0)).setWidth 16
def packed3 (op : W32 → W32 → W32 → W32) (x y z : W32) : W32 :=
  let el (v : W32) (k : Nat) : W32 := (fld v (16 * k) 16).setWidth 32
  (op (el x 1) (el y 1) (el z 1)).setWidth 16 ++ (op (el x 0) (el y 0) (el z 0)).setWidth 16
/-- The 16-bit format a packed word names (R155). -/
def fmt16 (b16 : Bool) : Fmt := if b16 then .b16 else .f16
/-- Element i of a register read in a format (R90). -/
def elemOf (f : Fmt) (x : W32) (i : Nat) : Nat := x.toNat / 2 ^ (f.width * i) % 2 ^ f.width
/-- A per-lane dot product of n elements (R167, R168). -/
def dotProduct (n : Nat) (fa fb : Fmt) (rm : Rm) (x y z : W32) : W32 :=
  let prods := (List.range n).map fun i => (val (elemOf fa x i) fa).mul (val (elemOf fb y i) fb)
  if fa.isInt && fb.isInt then
    match sumVals .rn prods with
    | .fin neg m e => BitVec.ofInt 32 (z.toInt + (if neg then -1 else 1) * (m * 2 ^ e.toNat : Nat))
    | _ => z
  else rnd (sumVals rm (prods ++ [val z.toNat .f32])) .f32 rm
/-- UNPACK (R166). -/
def unpack32 (f : Fmt) (int : Bool) (x k : W32) : W32 :=
  let e := elemOf f x (k.toNat % (32 / f.width))
  if int then BitVec.ofInt 32 (match val e f with | .fin n m _ => (if n then -(m : Int) else m) | _ => 0)
  else rnd (val e f) .f32 .rn
/-- PACK: the two elements, if neither raises CVTOVF (R165). -/
def pack32 (f : Fmt) (rm : Rm) (pol : Pol) (x y z : W32) : Option W32 :=
  match convert (val x.toNat .f32) (.el f) rm pol, convert (val y.toNat .f32) (.el f) rm pol with
  | some e0, some e1 =>
    let w := f.width
    some ((z >>> (2 * w)) ||| (BitVec.ofNat 32 (e1 * 2 ^ w + e0) <<< (32 - 2 * w)))
  | _, _ => none
/-- The value a CVT source holds (R164). -/
def cvtSrc (t : CvtTy) (x : W64) : Val :=
  match t with
  | .el f => val (x.toNat % 2 ^ f.width) f
  | .i32 => valInt (x.setWidth 32).toInt | .n32 => valInt (x.setWidth 32).toNat
  | .i64 => valInt x.toInt | .n64 => valInt x.toNat

end Sys2Proof.Machine
end

