-- ==== Sys2Proof/Machine/Mem.lean ====
section
/-! DEFINITION. Memory and its coherence within and between dies (R169, R174, R179 to R185, R193 to R206, R209, R400):
cells, homes, copies, twins, difference records, the synchronisation directory, releases and acquires. -/
namespace Sys2Proof.Machine

/-- The byte of a cell list at an address; an unlisted address reads as 0 (R171, R176, R179). -/
def memGet : List Host.Cell → Nat → Byte
  | [], _ => 0
  | (k, v) :: r, a => if k = a then v else memGet r a
/-- A byte written, keeping the canonical form: addresses rise and no zero is listed. -/
def memSet : List Host.Cell → Nat → Byte → List Host.Cell
  | [], a, b => if b = 0 then [] else [(a, b)]
  | (k, v) :: r, a, b =>
    if a < k then (if b = 0 then (k, v) :: r else (a, b) :: (k, v) :: r)
    else if a = k then (if b = 0 then r else (a, b) :: r)
    else (k, v) :: memSet r a b
/-- The canonical form. -/
def Memory.wf : List Host.Cell → Bool
  | [] => true
  | [(_, v)] => v != 0
  | (k, v) :: (k', v') :: r => v != 0 && decide (k < k') && Memory.wf ((k', v') :: r)
/-- Bytes read and written, little-endian (R5). -/
def memRd (m : List Host.Cell) (a n : Nat) : List Byte := (List.range n).map fun i => memGet m (a + i)
def memWr (m : List Host.Cell) (a : Nat) : List Byte → List Host.Cell
  | [] => m
  | b :: r => memWr (memSet m a b) (a + 1) r
def leNat (l : List Byte) : Nat := l.foldr (fun b n => b.toNat + 256 * n) 0
def leBytes (n v : Nat) : List Byte := (List.range n).map fun i => BitVec.ofNat 8 (v >>> (8 * i))
/-- The 32 words of a line in a cell list (R197). -/
def lineAt (m : List Host.Cell) (a : Nat) : List W32 :=
  (List.range 32).map fun i => BitVec.ofNat 32 (leNat (memRd m (a + 4 * i) 4))
/-- Byte o of a line's words, and the words with it set. -/
def wget (ws : List W32) (o : Nat) : Byte := ((ws.getD (o / 4) 0) >>> (8 * (o % 4))).setWidth 8
def wput (ws : List W32) (o : Nat) (b : Byte) : List W32 :=
  lset ws (o / 4) fun w => (w &&& ~~~(0xFF#32 <<< (8 * (o % 4)))) ||| (b.setWidth 32 <<< (8 * (o % 4)))
def wputs (ws : List W32) (o : Nat) : List Byte → List W32
  | [] => ws
  | b :: r => wputs (wput ws o b) (o + 1) r

/-- The home die of a physical address: the owner of its stack (R179), and its line. -/
def homeOf (pa : Nat) : Nat := pa / Config.stackBytes / 2
def lineOf (pa : Nat) : Nat := pa - pa % 128
/-- The home's bytes and a home line. -/
def State.homeRd (s : State) (pa n : Nat) : List Byte := memRd s.mem pa n
/-- Bytes written at the home. A die that caches a line of them has yet to take it in, at its next wide acquire (R192, R202). -/
def State.homeWr (s : State) (pa : Nat) (bs : List Byte) : State :=
  let hit (l : Nat) : Bool := decide (lineOf pa ≤ l) && decide (l < pa + bs.length)
  { s with
    mem := memWr s.mem pa bs
    dies := s.dies.map fun d =>
      let ls := (d.2.copies.map (·.1)).filter fun l => hit l && !d.2.stale.contains l
      if ls.isEmpty then d else (d.1, { d.2 with stale := d.2.stale ++ ls }) }
def State.homeWords (s : State) (line : Nat) : List W32 := lineAt s.mem line
/-- Words of a home line written. -/
def State.homeWordsWr (s : State) (line : Nat) (ws : List (Nat × W32)) : State :=
  ws.foldl (fun s w => s.homeWr (line + 4 * w.1) (leBytes 4 w.2.toNat)) s
/-- An address in the visible range as it stands (R179, R380). -/
def State.visible (s : State) (pa : Nat) : Bool :=
  decide (pa < Config.visibleBytes) &&
    !((s.stack (pa / Config.stackBytes)).shrunk && decide (Config.stackBytes ≤ pa % Config.stackBytes + 0x10000000))
/-- A die's own counter, a core's, and the device's, plus one (R346). -/
def bumpIn (l : List (Nat × W64)) (n k : Nat) : List (Nat × W64) := aset l n ((aget l n).getD 0 + BitVec.ofNat 64 k)
def State.countDie (s : State) (x n : Nat) (k : Nat := 1) : State := s.updDie x fun d => { d with counters := bumpIn d.counters n k }
def State.countCore (s : State) (c n : Nat) (k : Nat := 1) : State := s.updCore c fun d => { d with counters := bumpIn d.counters n k }
def State.countDev (s : State) (n : Nat) : State := { s with devCounters := bumpIn s.devCounters n 1 }

/-- The words a die sees of a line: its own copy, or the home's (R195). -/
def State.lineWords (s : State) (x line : Nat) : List W32 :=
  match aget (s.die x).copies line with | some c => c.words | none => s.homeWords line
/-- A line at its home with the die's own records still in flight laid over it. -/
def State.fetchWords (s : State) (x line : Nat) : List W32 :=
  (s.recs.filter fun r => r.writer == x && r.line == line).foldl
    (fun ws r => r.words.foldl (fun ws w => lset ws w.1 fun _ => w.2) ws) (s.homeWords line)
/-- The words in which a line differs from its twin (R199). -/
def diffWords (cur twin : List W32) : List (Nat × W32) :=
  (List.range 32).filterMap fun i => if cur.getD i 0 == twin.getD i 0 then none else some (i, cur.getD i 0)

/-- A line's copies discarded in the L1 data caches of a die, but for one core's (R174, R196). -/
def State.l1Drop (s : State) (x line : Nat) (keep : Option Nat) : State :=
  { s with cores := s.cores.map fun c =>
      if dieOf c.1 == x && some c.1 != keep then (c.1, { c.2 with l1 := adel c.2.l1 line }) else c }

/-- The hint of a line after a touch (R182). -/
def bumpHint (old new : Hint) : Hint :=
  match old, new with | .el, _ => .el | _, .el => .el | .ef, _ => .ef | .n, h => h
/-- A recency list, most recent first, with a line touched. -/
def touchList (l : List (Nat × Hint)) (line : Nat) (h : Hint) : List (Nat × Hint) :=
  (line, bumpHint ((aget l line).getD .n) h) :: adel l line
/-- The victim of a set: the least recently used .ef line, else .n, else .el (R182). -/
def victim (l : List (Nat × Hint)) : Option Nat :=
  let last (h : Hint) := ((l.filter (·.2 == h)).getLast?).map (·.1)
  (last .ef).orElse fun _ => (last .n).orElse fun _ => last .el
/-- The twins of a die in the ways of a line's L2 set (R181). -/
def Die.cachedTwins (d : Die) (line : Nat) : List (Nat × Twin) :=
  d.twins.filter fun t => !t.2.region && Config.l2Set t.1 == Config.l2Set line
/-- The least recently made of some twins. -/
def oldestTwin (l : List (Nat × Twin)) : Option (Nat × Twin) :=
  l.foldl (fun m t => match m with | some u => if t.2.made < u.2.made then some t else m | none => some t) none
/-- The L2 set of a line made to fit its 24 ways, less those that hold twins: a victim other than the line is on its way out
(R181, R182). -/
def Die.fit (d : Die) (line : Nat) : Die :=
  if d.l2.length ≤ 22 then d
  else
    let set := d.l2.filter fun p => Config.l2Set p.1 == Config.l2Set line
    if set.length ≤ 24 - (d.cachedTwins line).length then d
    else match victim (set.filter (·.1 != line)) with
      | some v => { d with l2 := adel d.l2 v, leaving := d.leaving.filter (· != v) ++ [v] }
      | none => d
/-- A line touched in the die's L2 (R182). -/
def State.touchL2 (s : State) (x line : Nat) (h : Hint) : State :=
  s.updDie x fun d => { d with l2 := touchList d.l2 line h, leaving := d.leaving.filter (· != line) }.fit line
/-- A line touched in a core's L1 data cache, whose ways are those the scratchpad leaves (R170, R174, R182). A line another die is
the home of, on a home-only page, is kept nowhere but there (R195). -/
def Core.ways (k : Core) : Nat := 32 - (k.runs.foldl (fun m r => max m (r.2.1 + r.2.2)) 0)
def State.touchL1 (s : State) (c line : Nat) (h : Hint) : State :=
  s.updCore c fun k =>
    let l := touchList k.l1 line h
    let l := if l.length ≤ k.ways then l
      else
        let set := l.filter fun p => Config.l1Set p.1 == Config.l1Set line
        if set.length ≤ k.ways then l
        else match victim (set.filter (·.1 != line)) with | some v => adel l v | none => l
    { k with l1 := l }
/-- A core's L1 after its ways have become fewer: each set gives up the lines its ways no longer hold, the victims of R182 first
(R170; which lines stood in the lost ways is the model's choice, log 71). -/
def Core.trimL1 (k : Core) : Core :=
  let extra (l : List (Nat × Hint)) : Option Nat :=
    l.findSome? fun p =>
      let set := l.filter fun q => Config.l1Set q.1 == Config.l1Set p.1
      if set.length ≤ k.ways then none else victim set
  let drop (l : List (Nat × Hint)) (_ : Nat) : List (Nat × Hint) := match extra l with | some v => adel l v | none => l
  if k.l1.length ≤ k.ways then k else { k with l1 := (List.range k.l1.length).foldl drop k.l1 }

/-- A twin freed, and a line's copy with it when that copy was held in the twin region (R185, R198). -/
def State.freeTwin (s : State) (x line : Nat) : State :=
  s.updDie x fun d => { d with twins := adel d.twins line, copies := d.copies.filter fun c => !(c.1 == line && c.2.held) }
/-- No synchronisation variable: beyond every physical address and fence variable (R200). -/
def noSync : Nat := 0x2000000000000000
/-- The words of a line that its record carries (R199): those that differ from its twin, and those whose twin is uncorrectable, of which
no more is known (R188; DESIGN CHOICE, log 92). -/
def Twin.changed (t : Twin) (ws : List W32) : List (Nat × W32) :=
  (List.range 32).filterMap fun i =>
    if ws.getD i 0 == t.words.getD i 0 && !t.hurt.contains (i / 2 * 8) then none else some (i, ws.getD i 0)
/-- Publication of a line (R199, R200, R205, R206): a class-C twin is freed, and a changed line yields a record of the kind,
in flight, or held under lazy publication; a line homed on the die itself needs no record. Answers whether the line had
changed. Twins of class B and D are passed by (R198). -/
def State.publish (s : State) (x line kind seq sync launch : Nat) (held : Bool) : Bool × State :=
  match aget (s.die x).twins line with
  | none => (false, s)
  | some t =>
    if t.cls != .c then (false, s)
    else
      let d := t.changed (s.lineWords x line)
      let s' := s.freeTwin x line
      if d.isEmpty then (false, s')
      else if homeOf line == x then (true, s')
      else
        let s' := if kind == 1 then s'.countDie x 0x114 else s'
        let (id, s') := s'.fresh
        (true, { s' with recs := s'.recs ++ [{ id, kind, seq, sync, writer := x, line, words := d, launch, held }] })

/-- The runs of a record's words, as first word and length: maximal, in increasing order (R199). -/
def runsOf (ws : List (Nat × W32)) : List (Nat × Nat) :=
  (ws.foldl (fun l w => match l with
    | (f, n) :: r => if f + n == w.1 then (f, n + 1) :: r else (w.1, 1) :: (f, n) :: r
    | [] => [(w.1, 1)]) []).reverse
/-- A record as it travels: header, run descriptors padded to a multiple of 4 bytes, changed words (R199). -/
def DiffRec.bytes (r : DiffRec) : List Byte :=
  let runs := runsOf r.words
  leBytes 8 (r.line / 128 + r.writer * 2 ^ 49 + runs.length * 2 ^ 51) ++ leBytes 8 (r.seq + r.kind * 2 ^ 32)
    ++ (runs.flatMap fun q => leBytes 2 (q.1 + 32 * (q.2 - 1))) ++ List.replicate (2 * (runs.length % 2)) 0
    ++ r.words.flatMap fun w => leBytes 4 w.2.toNat

/-- A record merged at the home (R203): the words it carries change, in a twin of the home's own too, but for records of
kind 4, against which a class-D twin keeps the line at kernel start. The home's L1 copies of the line go (R196). What its writer
still holds of the line from before has lost those words: it wrote them again (R192, R201). -/
def State.merge (s : State) (r : DiffRec) : State :=
  let h := homeOf r.line
  let older (q : DiffRec) : DiffRec :=
    if q.held && q.writer == r.writer && q.line == r.line && q.id < r.id then { q with words := q.words.filter fun w => !r.words.any (·.1 == w.1) } else q
  let s : State := { s.homeWordsWr r.line r.words with recs := (s.recs.filter fun q => q.id != r.id).map older }
  let s := s.updDie h fun d =>
    { d with twins := d.twins.map fun t =>
        if t.1 == r.line && r.kind != 4 then
          (t.1, { t.2 with words := r.words.foldl (fun ws w => lset ws w.1 fun _ => w.2) t.2.words })
        else t }
  (s.touchL2 h r.line .n).l1Drop h r.line none
/-- Whether a record may be merged now (R203): it is in flight, and no record of a lower sequence of its variable is outstanding, nor
is an earlier record of its writer for its line on its way. -/
def State.ripe (s : State) (r : DiffRec) : Bool :=
  !r.held && s.recs.all fun q =>
    !((q.sync == r.sync && q.sync != noSync && q.seq < r.seq) || (!q.held && q.writer == r.writer && q.line == r.line && q.id < r.id))
/-- Held records sent on their way (R201). -/
def State.forward (s : State) (p : DiffRec → Bool) : State :=
  { s with recs := s.recs.map fun r => if r.held && p r then { r with held := false } else r }
/-- Records in flight, up to a serial number, merged one by one as they may be (R203): they arrive, and are acknowledged. -/
def State.landN (s : State) (upto : Nat) : Nat → State
  | 0 => s
  | n + 1 => match s.recs.find? fun r => decide (r.id < upto) && s.ripe r with
    | some r => (s.merge r).landN upto n
    | none => s
def State.land (s : State) (upto : Nat) : State := s.landN upto s.recs.length
/-- The die's held records of a line, with those their sequences wait for, forwarded: it is about to access the line at its home. -/
def State.forwardLine (s : State) (x line : Nat) : State :=
  let mine := s.recs.filter fun r => r.held && r.writer == x && r.line == line
  s.forward fun r => mine.any fun q => q.sync == r.sync && decide (r.seq ≤ q.seq)
/-- Publication at once, its record and those it waits for merged (R206). -/
def State.publishNow (s : State) (x line kind : Nat) : State :=
  let s := (s.forwardLine x line).publish x line kind 0 noSync 0 false |>.2
  s.land s.serial

/-- A die-private line written back whole to its home (R195), its bytes then defined for all. -/
def State.writeBack (s : State) (x line : Nat) : State :=
  match aget (s.die x).copies line with
  | some c =>
    if c.cls == 3 && c.wmask != 0 then
      let s := s.homeWordsWr line (c.words.mapIdx fun i w => (i, w))
      (s.updDie x fun d => { d with copies := aset d.copies line { c with wmask := 0 } }).l1Drop (homeOf line) line none
    else s
  | none => s
def State.dropCopy (s : State) (x line : Nat) : State :=
  s.updDie x fun d => { d with copies := adel d.copies line, l2Poison := if homeOf line == x then d.l2Poison else d.l2Poison.filter (lineOf · != line) }

/-- An early publication of a line's class-C twin, which is allowed at any time (R183, R202). -/
def State.early (s : State) (x line : Nat) : State :=
  match aget (s.die x).twins line with
  | some t => if t.cls == .c then (s.publish x line 1 0 noSync 0 false).2 else s
  | none => s
/-- Lines of the die's twin region in use: its twins that are not in the twin cache, and held copies (R181, R197). -/
def Die.regionUse (d : Die) : Nat := (d.twins.filter (·.2.region)).length + (d.copies.filter (·.2.held)).length
/-- Class-C twins published early, oldest first, until the region is at most three quarters full (R183); a twin that is being
made stays. -/
def State.relieve (s : State) (x : Nat) (but : Option Nat) : Nat → State
  | 0 => s
  | n + 1 =>
    if 4 * (s.die x).regionUse ≤ 3 * Config.twinLines then s
    else match oldestTwin ((s.die x).twins.filter fun t => t.2.cls == .c && some t.1 != but) with
      | none => s
      | some t => (s.early x t.1).relieve x but n
/-- A twin region past seven eighths relieved; held records of the die go first (R183, R201). -/
def State.pressure (s : State) (x : Nat) (but : Option Nat) : State :=
  if 8 * (s.die x).regionUse ≤ 7 * Config.twinLines then s
  else (s.forward fun r => r.writer == x).relieve x but (s.die x).twins.length
/-- A line on its way out of the die's L2 has left (R195, R197), unless it was used again: a dirty copy with a class-C twin is
published early; one of class B or D is held; a die-private line is written back; anything else is dropped. -/
def State.evict (s : State) (x line : Nat) : State :=
  let s := s.updDie x fun d => { d with leaving := d.leaving.filter (· != line) }
  if ((s.die x).l2.any (·.1 == line)) then s
  else match aget (s.die x).copies line with
  | none => s
  | some c =>
    match aget (s.die x).twins line with
    | some t =>
      if t.cls == .c then (s.early x line).dropCopy x line
      else (s.updDie x fun d => { d with copies := aset d.copies line { c with held := true } }).pressure x none
    | none => (s.writeBack x line).dropCopy x line

/-- Twins of a class that p holds of become class C: their teams have lost the right to roll back, or have ended (R184, R185,
R198, R373). They are then under pressure like any other (R183). -/
def State.toC (s : State) (p : Nat → Twin → Bool) : State :=
  let low (w : Nat × Twin) : Nat × Twin := if p w.1 w.2 then (w.1, { w.2 with cls := .c }) else w
  let s : State := { s with dies := s.dies.map fun d => (d.1, { d.2 with twins := d.2.twins.map low }) }
  (s.dies.map (·.1)).foldl (fun s x => s.pressure x none) s
/-- A team's class-B twins become class C (R184, R185, R373). -/
def State.unB (s : State) (t : Nat) : State := s.toC fun _ w => w.team == t && w.cls == .b
/-- A team loses the right to be rolled back (R373). -/
def State.noRoll (s : State) (t : Nat) : State :=
  if (s.team t).rollOk then (s.updTeam t fun t => { t with rollOk := false }).unB t else s
/-- The twin of a line put in a way of its L2 set: where two twins stand there, the least recently made of them goes to the twin
region (R181). -/
def Die.putTwin (d : Die) (line : Nat) (t : Twin) : Die :=
  let out := if d.twins.length < 2 then none
    else
      let l := (d.cachedTwins line).filter (·.1 != line)
      if l.length < 2 then none else (oldestTwin l).map (·.1)
  let move (u : Nat × Twin) : Nat × Twin := if some u.1 == out then (u.1, { u.2 with region := true }) else u
  Die.fit { d with twins := aset (d.twins.map move) line { t with region := false } } line
/-- Whether a new twin of a line takes room in the twin region (R181). -/
def Die.spillsTwin (d : Die) (line : Nat) : Bool := decide (2 ≤ d.twins.length) && decide (2 ≤ (d.cachedTwins line).length)
/-- The lines of a die's region that serve every twin but those of the first team in curve order (R184). -/
def openLines : Nat := Config.twinLines - Config.detLines
/-- A twin made (R181, R197): pressure publishes class-C twins early, and demotes the team's own when that does not make room
(R183, R184). -/
def State.newTwin (s : State) (x line t : Nat) (cls : TwinCls) : State :=
  let (n, s) := s.fresh
  let s := s.updDie x fun d => d.putTwin line { words := s.lineWords x line, cls, team := t, made := n }
  let s := s.pressure x (some line)
  if cls == .b && decide (openLines < (s.die x).regionUse) then
    (((s.noRoll t).countDie x 0x115).forward fun r => r.writer == x).relieve x (some line) (s.die x).twins.length
  else s
/-- A twin at the first write after a boundary (R197). A class-C twin of a line that a RETRY or DETERMINISTIC team now writes for
the first time gives way: what it shows is published early, and the new twin keeps the line as it stands (R23, R202). A twin of
class B that comes to serve a DETERMINISTIC kernel takes its class and keeps its words (log 72). -/
def State.twin (s : State) (x line t : Nat) (cls : TwinCls) : State :=
  match aget (s.die x).twins line with
  | some w =>
    match w.cls, cls with
    | .c, .b => (s.early x line).newTwin x line t cls
    | .c, .d => (s.early x line).newTwin x line t cls
    | .b, .d => s.updDie x fun d => { d with twins := aset d.twins line { w with cls, team := t } }
    | _, _ => s
  | none => s.newTwin x line t cls
/-- A twin read back from the twin region, as its line is released, acquired or rolled back (R181). -/
def State.cacheTwin (s : State) (x line : Nat) : State :=
  match aget (s.die x).twins line with
  | some t => if t.region then s.updDie x fun d => d.putTwin line t else s
  | none => s

/-- The class an access has: home-only under PBMT NC and IO (R273). -/
def effCls (cls pbmt : Nat) : Nat := if pbmt == 0 then cls else 0
/-- Whether a die's access of this class is performed at the home: home-only lines, and a die's own lines but for die-private ones (R195). -/
def atHome (x cls pa : Nat) : Bool := cls == 0 || (cls != 3 && homeOf pa == x)
/-- A line whose copy carries another class than the access names is published or written back and dropped (R279); one whose twin
is of class B or D stays where it is (R198, log 72). -/
def State.reclass (s : State) (x line cls : Nat) : State :=
  let tw := aget (s.die x).twins line
  let other := match aget (s.die x).copies line with
    | some c => c.cls != cls
    | none => cls != 1 && (tw.map (·.cls == .c)).getD false
  if !other || (tw.map (·.cls != .c)).getD false then s
  else
    (((s.publishNow x line 1).writeBack x line).dropCopy x line).l1Drop x line none
/-- Data that is uncorrectable in the home's L2 stays so in what another die takes of the line (R188). -/
def State.carryHurt (s : State) (x line : Nat) : State :=
  let bad := (s.die (homeOf line)).l2Poison.filter fun a => lineOf a == line && !(s.die x).l2Poison.contains a
  if homeOf line == x || bad.isEmpty then s else s.updDie x fun d => { d with l2Poison := bad ++ d.l2Poison }
/-- A die's copy of a line, filled from the home when it has none, read back when it is held (R195, R198). Answers whether it was filled. -/
def State.ensureCopy (s : State) (x line cls : Nat) : Bool × State :=
  match aget (s.die x).copies line with
  | some c => (false, if c.held then s.updDie x fun d => { d with copies := aset d.copies line { c with held := false } } else s)
  | none => (true, (s.carryHurt x line).updDie x fun d => { d with copies := aset d.copies line { words := s.fetchWords x line, cls } })

/-- Bytes of a die-private line another die has written since its last write-back (R195). -/
def State.strange (s : State) (x pa : Nat) : Bool :=
  s.dies.any fun d => d.1 != x && (match aget d.2.copies (lineOf pa) with
    | some c => c.cls == 3 && c.wmask.getLsbD (pa % 128) | none => false)
/-- The die whose L2 serves a die's access to a line (R195). -/
def l2Of (x cls pa : Nat) : Nat := if cls == 0 then homeOf pa else x
/-- Bytes of one line as die x loads them (R195): a die-private byte that another die wrote is a free value (log 2). Answers
whether the line was filled. -/
def State.loadAt (s : State) (x cls pa n : Nat) (h : Hint) : List Byte × Bool × State :=
  let line := lineOf pa
  let s := (s.reclass x line cls).touchL2 (l2Of x cls pa) line h
  if atHome x cls pa then (s.homeRd pa n, cls == 0 && homeOf pa != x, s)
  else
    let (fill, s) := s.ensureCopy x line cls
    let ws := s.lineWords x line
    let b (i : Nat) : Byte :=
      if cls == 3 && s.strange x (pa + i) then (s.freeW (pa + i)).setWidth 8 else wget ws (pa % 128 + i)
    ((List.range n).map b, fill, s)
/-- 8-byte units of a list that n bytes meet; the list without those they cover, whose codes are made anew (R188). -/
def hurtIn (l : List Nat) (a n : Nat) : Bool := l.any fun p => decide (p < a + n) && decide (a < p + 8)
def healIn (l : List Nat) (a n : Nat) : List Nat := l.filter fun p => !(decide (a ≤ p) && decide (p + 8 ≤ a + n))
def State.healL2 (s : State) (x pa n : Nat) : State :=
  if (s.die x).l2Poison.isEmpty then s else s.updDie x fun d => { d with l2Poison := healIn d.l2Poison pa n }
/-- Bytes of one line as die x stores them (R195, R197). -/
def State.storeAt (s : State) (x cls pa : Nat) (bs : List Byte) (h : Hint) (t : Nat) (tc : TwinCls) : Bool × State :=
  let line := lineOf pa
  let s := ((s.reclass x line cls).touchL2 (l2Of x cls pa) line h).healL2 (l2Of x cls pa) pa bs.length
  if cls == 0 then (homeOf pa != x, s.homeWr pa bs)
  else if atHome x cls pa then (false, (s.twin x line t tc).homeWr pa bs)
  else
    let (fill, s) := s.ensureCopy x line cls
    let s := if cls == 1 then s.twin x line t tc else s
    let m : BitVec 128 := if cls == 3 then ((1#128 <<< bs.length) - 1) <<< (pa % 128) else 0
    (fill, s.updDie x fun d => match aget d.copies line with
      | some c => { d with copies := aset d.copies line { c with words := wputs c.words (pa % 128) bs, wmask := c.wmask ||| m } }
      | none => d)
/-- The L1 copies a write makes stale (R196): performed in a die's L2, those of its other cores; at a home, also the home's. -/
def State.l1Write (s : State) (x cls line : Nat) (core : Option Nat) : State :=
  let s := s.l1Drop x line core
  if cls == 0 && homeOf line != x then s.l1Drop (homeOf line) line none else s
/-- Bytes performed at the home by die x, whose own copy and twin take them too (R200, R206). -/
def State.homeStore (s : State) (x pa : Nat) (bs : List Byte) : State :=
  let line := lineOf pa
  let s := ((s.homeWr pa bs).touchL2 (homeOf pa) line .n).healL2 (homeOf pa) pa bs.length
  let s := (s.l1Drop (homeOf pa) line none).l1Drop x line none
  s.updDie x fun d =>
    { d with
      copies := d.copies.map fun c => if c.1 == line then (c.1, { c.2 with words := wputs c.2.words (pa % 128) bs }) else c
      twins := d.twins.map fun t => if t.1 == line then (t.1, { t.2 with words := wputs t.2.words (pa % 128) bs }) else t }
/-- Bytes read at the home by die x (R200, R202): what the die wrote there is sent first, and its copy takes the bytes where
it has not written since its twin. Words under a twin that may not be published are the die's own (R192, R198). -/
def State.homeLoad (s : State) (x pa n : Nat) : List Byte × State :=
  let line := lineOf pa
  let s := (s.publishNow x line 1).touchL2 (homeOf pa) line .n
  let bs := s.homeRd pa n
  match aget (s.die x).twins line, aget (s.die x).copies line with
  | some t, some c =>
    let own := diffWords c.words t.words
    ((List.range n).map fun i => if own.any (·.1 == (pa % 128 + i) / 4) then wget c.words (pa % 128 + i) else bs.getD i 0, s)
  | some _, none => (bs, s)
  | none, _ =>
    (bs, s.updDie x fun d =>
      { d with copies := d.copies.map fun c =>
          if c.1 == line && c.2.cls == 1 then (c.1, { c.2 with words := wputs c.2.words (pa % 128) bs }) else c })

/-- The key of die x's fence variable in the directory's tables (R200). -/
def fenceKey (x : Nat) : Nat := 0x1000000000000000 + x
/-- An entry of the directory, if placed; a fence variable's always is (R400). -/
def State.entry? (s : State) (key : Nat) : Option DirEntry :=
  if 0x1000000000000000 ≤ key then some (s.die (key - 0x1000000000000000)).fence else aget (s.die (homeOf key)).dir key
def State.updEntry (s : State) (key : Nat) (f : DirEntry → DirEntry) : State :=
  if 0x1000000000000000 ≤ key then s.updDie (key - 0x1000000000000000) fun d => { d with fence := f d.fence }
  else s.updDie (homeOf key) fun d => match aget d.dir key with | some e => { d with dir := aset d.dir key (f e) } | none => d
/-- Whether some die holds records lazily for a variable (R201). -/
def State.lazyFor (s : State) (key : Nat) : Bool := s.recs.any fun r => r.held && r.sync == key
/-- An entry for a variable, placed when it has none; a full directory evicts the least recently used entry without a lazy
holder, or forwards for the least recently used of all (R201). Answers whether the directory was full. What the manual leaves
open: an evicted entry's narrow holders go with it, and every die, whether or not it ever acquired the variable, counts as one
whose entry was evicted since (R202; DESIGN CHOICE, log 68). -/
def State.place (s : State) (key : Nat) : Bool × State :=
  let (n, s) := s.fresh
  match s.entry? key with
  | some _ => (false, s.updEntry key fun e => { e with used := n })
  | none =>
    let x := homeOf key
    let lru (l : List (Nat × DirEntry)) : Option (Nat × DirEntry) :=
      l.foldl (fun m e => match m with | some u => if e.2.used < u.2.used then some e else m | none => some e) none
    let full := decide (Config.dirEntries ≤ (s.die x).dir.length)
    let s := if !full then s
      else match (lru ((s.die x).dir.filter fun e => !s.lazyFor e.1)).orElse fun _ => lru (s.die x).dir with
        | some v =>
          let s := s.forward fun r => r.sync == v.1
          let s := (s.land s.serial).countDie x 0x112
          s.updDie x fun d => { d with dir := adel d.dir v.1, evicted := aset d.evicted v.1 [0, 1, 2, 3] }
        | none => s
    (full, s.updDie x fun d => { d with dir := aset d.dir key { used := n } })

/-- The snapshot of a die (R200): every class-C twin's line is published. Answers the changed lines. -/
def State.snapshot (s : State) (x kind seq sync launch : Nat) (held : Bool) : List Nat × State :=
  ((s.die x).twins.map (·.1)).foldl (fun a l =>
    let (ch, s) := a.2.publish x l kind seq sync launch held
    (if ch then a.1 ++ [l] else a.1, s)) ([], s)
/-- The next sequence of a variable, and its release logged with the lines published (R200). -/
def State.nextSeq (s : State) (key : Nat) : Nat × State :=
  (((s.entry? key).getD {}).next, s.updEntry key fun e => { e with next := e.next + 1 })
def State.logRel (s : State) (key seq : Nat) (lines : List Nat) : State :=
  s.updEntry key fun e => { e with log := ((seq, lines) :: e.log).take Config.logDepth }
/-- A release's write performed: acquires reflect its sequence from now on (R202). -/
def State.relDone (s : State) (key seq : Nat) : State := s.updEntry key fun e => { e with done := max e.done seq }
/-- What goes before a release of die x (R201, R204): the records held for its variables; of the die's own held records all,
where the release is a thread's (`own`), else those of the launch (R210). -/
def State.goFirst (s : State) (x launch : Nat) (keys : List Nat) (own : Bool) : State :=
  let s := s.forward fun r => (r.writer == x && (own || r.launch == launch)) || keys.contains r.sync
  s.land s.serial
/-- A release of the variables, in order, by die x, up to its acknowledgements (R200, R201, R205, R226). The first variable's
sequence is that of the snapshot; the others log the same lines. Answers the records to await and each variable's sequence. -/
def State.release (s : State) (x launch : Nat) (keys : List Nat) (isLazy own : Bool) : List Nat × List (Nat × Nat) × State :=
  let s := s.goFirst x launch keys own
  let (full, s) := keys.foldl (fun (a : Bool × State) k => let (f, s) := a.2.place k; (a.1 || f, s)) (false, s)
  match keys with
  | [] => ([], [], s)
  | k :: ks =>
    let (n, s) := s.nextSeq k
    let first := s.serial
    let (lines, s) := s.snapshot x 0 n k launch (isLazy && !full && ks.isEmpty)
    let s := s.logRel k n lines
    let (seqs, s) := ks.foldl (fun (a : List (Nat × Nat) × State) k =>
      let (m, s) := a.2.nextSeq k
      (a.1 ++ [(k, m)], s.logRel k m lines)) ([(k, n)], s)
    let s := { s with dies := s.dies.map fun d => (d.1, { d.2 with
      dir := d.2.dir.map fun e => (e.1, { e.2 with narrow := e.2.narrow.filter (· != x) }) }) }
    (((s.recs.filter fun r => !r.held && first ≤ r.id).map (·.id)), seqs, s)
/-- A release whose records are merged and acknowledged at once. -/
def State.releaseNow (s : State) (x launch : Nat) (keys : List Nat) (own : Bool) : State :=
  let (_, seqs, s) := s.release x launch keys false own
  seqs.foldl (fun s p => s.relDone p.1 p.2) (s.land s.serial)
/-- A release at .die or narrower on a twin-coherent page: the die becomes a narrow holder of the location (R205). -/
def State.narrowHold (s : State) (x key : Nat) : State :=
  (s.place key).2.updEntry key fun e => { e with narrow := if e.narrow.contains x then e.narrow else e.narrow ++ [x] }

/-- The word rule of R202 on die x's copy of a line: words the die has not written since its twin take the home's value. The
die's L1 copies of the line go (R169, R196). -/
def State.refresh (s : State) (x line : Nat) : State :=
  match aget (s.die x).copies line with
  | none => s
  | some c =>
    if c.cls != 1 then s
    else
      let new := s.fetchWords x line
      let s := (s.carryHurt x line).cacheTwin x line
      let tw := aget (s.die x).twins line
      let ws := match tw with
        | none => new
        | some t => (List.range 32).map fun i => if c.words.getD i 0 == t.words.getD i 0 then new.getD i 0 else c.words.getD i 0
      (s.updDie x fun d => { d with
        copies := aset d.copies line { c with words := ws }
        twins := match tw with | some t => aset d.twins line { t with words := new } | none => d.twins }).l1Drop x line none
/-- Every cached copy of a twin-coherent line refreshed (R202). -/
def State.refreshAll (s : State) (x : Nat) : State :=
  ((s.die x).copies.map (·.1)).foldl (fun s l => s.refresh x l) (s.countDie x 0x113)
/-- Forced publication by a narrow holder (R205): all its class-C twins, as records of kind 2 under a new sequence. What the die
holds lazily, and what is held for the variable, goes first (R203, R204). -/
def State.force (s : State) (x key : Nat) : State :=
  let s := s.goFirst x 0 [key] true
  let (n, s) := s.nextSeq key
  let (lines, s) := s.snapshot x 2 n key 0 false
  let s := ((s.land s.serial).logRel key n lines).relDone key n
  s.updEntry key fun e => { e with narrow := e.narrow.filter (· != x) }
/-- The directory's part of an acquire of one variable by die x, before its read: records other dies hold lazily for it come
home, and narrow holders publish (R201, R202, R205). -/
def State.acqOpen (s : State) (x key : Nat) : State :=
  let s := s.forward fun r => r.sync == key && r.writer != x
  let s := if s.recs.any (fun r => r.sync == key && !r.held) || s.lazyFor key then s.land s.serial else s
  (((s.entry? key).getD {}).narrow.filter (· != x)).foldl (fun s h => s.force h key) s
/-- The directory's part after the read (R202): every release not yet seen is applied to the die's copies, or all are
refreshed when the log no longer reaches back or the entry was evicted meanwhile. -/
def State.acqClose (s : State) (x key : Nat) : State :=
  let h := homeOf key
  let ev := if 0x1000000000000000 ≤ key then [] else (aget (s.die h).evicted key).getD []
  let s0 := if ev.contains x then
      (s.updDie h fun d => { d with evicted := if ev.length == 1 then adel d.evicted key else aset d.evicted key (ev.filter (· != x)) })
    else s
  match s0.entry? key with
  | none => if ev.contains x then s0.refreshAll x else s0
  | some e =>
    let seen := e.seen.getD x 0
    let s1 := if ev.contains x || decide (seen + Config.logDepth < e.done) then s0.refreshAll x
      else ((e.log.filter fun r => decide (seen < r.1) && decide (r.1 ≤ e.done)).flatMap (·.2)).foldl (fun s l => s.refresh x l) s0
    s1.updEntry key fun e => { e with seen := lset e.seen x fun _ => max seen e.done }
/-- The variables of the directory that an access at an address may reflect: those in its aligned eight bytes. -/
def State.keysAt (s : State) (pa : Nat) : List Nat :=
  let k := pa - pa % 8
  ([0, 1, 2, 3, 4, 5, 6, 7].map (k + ·)).filter fun k => (s.entry? k).isSome || (aget (s.die (homeOf k)).evicted k).isSome
/-- Host notices not yet seen applied to the die's copies (R209). -/
def State.notices (s : State) (x : Nat) : State :=
  ((s.die x).notices.foldl (fun s l => s.refresh x l) s).updDie x fun d => { d with notices := [] }
/-- A wide acquire of die x over: lines that changed at their homes before are taken in too, whichever release they came
with (R191, R192). -/
def State.caught (s : State) (x : Nat) : State :=
  ((s.die x).stale.foldl (fun s l => s.refresh x l) s).updDie x fun d => { d with stale := [] }
/-- Every variable that another die than x holds narrowly. -/
def State.narrowKeys (s : State) (x : Nat) : List Nat :=
  s.dies.flatMap fun d => (d.2.dir.filter fun e => e.2.narrow.any (· != x)).map (·.1)
/-- The fence variables of all four dies, and some more, acquired by die x (R202). -/
def State.acqKeys (s : State) (x : Nat) (more : List Nat) (sys : Bool) : State :=
  let s := (([0, 1, 2, 3].map fenceKey ++ more).foldl (fun s k => (s.acqOpen x k).acqClose x k) s).caught x
  if sys then s.notices x else s
/-- What a team's start or an item's takes in on die x (R318, R412): the fence variables, on which completion signals and fences release. -/
def State.acqStart (s : State) (x : Nat) (sys : Bool) : State := s.acqKeys x [] sys
/-- An acquire fence of die x at .dev or .sys: the fence variables of all four dies (R202, R231). A read before it may have been
of any variable, of which the fence makes it an acquire: what other dies hold lazily or narrowly comes home too (R191, R201,
R205). -/
def State.acqFence (s : State) (x : Nat) (sys : Bool) : State :=
  let s := s.forward fun r => r.writer != x
  let s := s.land s.serial
  s.acqKeys x (s.narrowKeys x) sys

end Sys2Proof.Machine
end

