-- ==== Sys2Proof/Machine/Access.lean ====
section
/-! DEFINITION. Translation, the checks of an access, and the access itself: page tables and TLBs (R272, R273), the checks
of R223, migration counts (R277), ownership in deterministic kernels (R281 to R285), and what an access costs a team's
eligibility for rollback and audit (R348, R373). -/
namespace Sys2Proof.Machine

/-- Who makes an access: a die; a core and one of its TLBs, or the command processor; a context; a team and a thread. An engine fills no
L1 (`engine`, R169); what the device writes of its own is no program's store (`own`, R187, R334). -/
structure Who where
  die : Nat
  core : Option Nat := none
  ahead : Bool := false
  ctx : Nat
  team : Option Nat := none
  thread : Nat := 0
  engine : Bool := false
  own : Bool := false
  deriving DecidableEq, Repr, Inhabited

/-- Kinds of access, by the code of R357. -/
inductive AccKind where | load | store | atomic | fetch | line
  deriving DecidableEq, Repr, Inhabited
def AccKind.code : AccKind → Nat | .load => 0 | .store => 1 | .atomic => 2 | .fetch => 3 | .line => 6
def AccKind.writes : AccKind → Bool | .store => true | .atomic => true | _ => false

/-- Bits of a Nat: field [hi:lo]. -/
def bits (n hi lo : Nat) : Nat := (n >>> lo) % 2 ^ (hi + 1 - lo)
/-- A word of a context's entry as the device holds it (R274). -/
def Ctx.word (c : Ctx) (i : Nat) : Nat := ((c.copy.getD c.entry).getD i 0).toNat
def Ctx.asid (c : Ctx) : Nat := bits (c.word 0) 59 44
def Ctx.super (c : Ctx) : Bool := (c.word 1).testBit 1
/-- A canonical address: bits [63:57] equal bit 56 (R223). -/
def canonical (va : Nat) : Bool := bits va 63 57 == (if va.testBit 56 then 127 else 0)

/-- The walk of the Sv57 tables from a level down (R273): `.error true` when an entry itself cannot be read. -/
def State.walk (s : State) (asid va : Nat) : Nat → Nat → Bool → Except Bool TlbEntry
  | 0, _, _ => .error false
  | l + 1, ppn, g =>
    let at_ := ppn * 4096 + 8 * (bits va (20 + 9 * l) (12 + 9 * l))
    if !s.visible at_ then .error true
    else
      let e := leNat (s.homeRd at_ 8)
      let n := e.testBit 63
      let pbmt := bits e 62 61
      let p := bits e 53 10
      if !e.testBit 0 || (!e.testBit 1 && e.testBit 2) || bits e 60 54 != 0 || pbmt == 3 then .error false
      else if !e.testBit 1 && !e.testBit 3 then
        if n || pbmt != 0 || bits e 7 6 != 0 || e.testBit 4 then .error false else s.walk asid va l p (g || e.testBit 5)
      else if n && !(l == 0 && bits p 3 0 == 8) then .error false
      else if p % 512 ^ l != 0 then .error false
      else
        let p := if n then p - 8 + bits va 15 12 else p
        let t : TlbEntry := { asid, glob := g || e.testBit 5, vpn := va / 2 ^ (12 + 9 * l), bits := 12 + 9 * l, ppn := p * 4096,
                              perm := e % 256, cls := bits e 9 8, pbmt, pte := at_, nap := n }
        if s.visible (p * 4096) && s.visible (p * 4096 + va % 2 ^ (12 + 9 * l)) then .ok t else .error false
/-- The walk of a context's table for an address. -/
def State.walkCtx (s : State) (ctx va : Nat) : Except Bool TlbEntry :=
  s.walk (s.ctx ctx).asid (va % 2 ^ 57) 5 (bits ((s.ctx ctx).word 0) 43 0) false

/-- The TLB an agent uses, and the state with it changed (R272). The command processor keeps none. -/
def State.tlbOf (s : State) (w : Who) : List TlbEntry :=
  match w.core with | some c => if w.ahead then (s.core c).wtlb else (s.core c).tlb | none => []
def State.setTlb (s : State) (w : Who) (l : List TlbEntry) : State :=
  match w.core with
  | some c => s.updCore c fun k =>
    if w.ahead then { k with wtlb := l.take Config.walkTlbEntries } else { k with tlb := l.take Config.tlbEntries }
  | none => s
def TlbEntry.hits (e : TlbEntry) (asid va : Nat) : Bool := (e.glob || e.asid == asid) && e.vpn == (va % 2 ^ 57) / 2 ^ e.bits
/-- Bytes written at their home by the part itself, or by a host core: the home's L1 copies of their lines go (R196). -/
def State.homePut (s : State) (pa : Nat) (bs : List Byte) : State :=
  let s := s.homeWr pa bs
  let stays (l : Nat × Hint) : Bool := decide (l.1 + 128 ≤ pa) || decide (pa + bs.length ≤ l.1)
  { s with cores := s.cores.map fun c => if dieOf c.1 == homeOf pa then (c.1, { c.2 with l1 := c.2.l1.filter stays }) else c }
/-- Bits of a PTE set by an atomic OR at its home (R273). -/
def State.orPte (s : State) (at_ m : Nat) : State := s.homePut at_ (leBytes 1 (leNat (s.homeRd at_ 1) ||| m))

/-- What one translation enters into a TLB: itself, and for a NAPOT PTE the other fifteen pages of its 64 KB too (R273). -/
def TlbEntry.entered (e : TlbEntry) : List TlbEntry :=
  if !e.nap then [e]
  else e :: ((List.range 16).filter (· != e.vpn % 16)).map fun i =>
    { e with vpn := e.vpn - e.vpn % 16 + i, ppn := e.ppn - e.ppn / 4096 % 16 * 4096 + 4096 * i }
/-- The translation of an address, cached as it is first used, its A bit set (R273). A write through a translation that
lacks D walks again. -/
def State.xlate (s : State) (w : Who) (va : Nat) (k : AccKind) : State × Except Bool TlbEntry :=
  let asid := (s.ctx w.ctx).asid
  match (s.tlbOf w).find? fun e => e.hits asid va && (!k.writes || e.perm.testBit 7) with
  | some e => if s.visible (e.ppn + va % 2 ^ e.bits) then (s, .ok e) else (s, .error false)
  | none =>
    match s.walkCtx w.ctx va with
    | .error e => (s, .error e)
    | .ok e =>
      let e := { e with perm := e.perm ||| 0x40 }
      let s := s.orPte e.pte 0x40
      (s.setTlb w (e.entered ++ (s.tlbOf w).filter fun o => !(e.entered.any fun n => o.hits asid (n.vpn * 2 ^ n.bits))), .ok e)
/-- Whether a page permits an access (R223, R195). -/
def TlbEntry.permits (e : TlbEntry) (user : Bool) (k : AccKind) : Bool :=
  let b := e.perm.testBit
  (match k with
    | .load | .line => b 1 | .store => b 2 | .atomic => b 1 && b 2 | .fetch => b 3)
    && (!user || b 4) && !(k.writes && e.cls == 2 && e.pbmt == 0)
/-- D set before the first write through a translation (R273). -/
def State.dirtyPte (s : State) (w : Who) (e : TlbEntry) : State :=
  if e.perm.testBit 7 then s
  else (s.orPte e.pte 0xC0).setTlb w ((s.tlbOf w).map fun o => if o.pte == e.pte then { o with perm := o.perm ||| 0xC0 } else o)

/-- A lane's access: lane, address, translation, physical address. -/
structure Spot where
  lane : Nat
  va : Nat
  tr : TlbEntry
  pa : Nat
  deriving DecidableEq, Repr, Inhabited
def Spot.cls (p : Spot) : Nat := effCls p.tr.cls p.tr.pbmt

/-- How the checks of a word end (R360): pass, hard fault at the earliest check, soft fault, or a wait for a region being moved (R287). -/
inductive Chk where
  | ok (l : List Spot)
  | hard (check : Nat) (lanes : W32) (va : Nat) (walk : Bool)
  | soft
  | wait
  deriving Repr

/-- The team's descriptor, where a team makes the access. -/
def State.descOf (s : State) (w : Who) : Desc := match w.team with | some t => (s.team t).desc | none => {}
def Desc.templated (d : Desc) : Bool := d.flags.testBit 0
def Desc.det (d : Desc) : Bool := d.flags.testBit 1
def Desc.retry (d : Desc) : Bool := d.flags.testBit 2
def Desc.audit (d : Desc) : Bool := d.flags.testBit 3
/-- Whether an access meets an audit input range; whether one holds it whole (R223, R348). -/
def Desc.meets (d : Desc) (va n : Nat) : Bool := d.ranges.any fun r => decide (va < r.1 + r.2) && decide (r.1 < va + n)
def Desc.inside (d : Desc) (va n : Nat) : Bool := d.ranges.any fun r => decide (r.1 ≤ va) && decide (va + n ≤ r.1 + r.2)

/-- No check of the deterministic rules fails. -/
def noDet : List Nat → Nat → Bool := fun _ _ => false
/-- The first check of R223 a lane's access fails, or its translation; check 6 is told the addresses of the lanes before. -/
def State.check1 (s : State) (w : Who) (k : AccKind) (align size va : Nat) (det : Nat → Bool) :
    State × Except (Nat × Bool) (TlbEntry × Nat) :=
  if !canonical va then (s, .error (1, false))
  else if va % align != 0 then (s, .error (2, false))
  else
    match s.xlate w va k with
    | (s, .error wk) => (s, .error (3, wk))
    | (s, .ok e) =>
      let pa := e.ppn + va % 2 ^ e.bits
      if !e.permits (!(s.ctx w.ctx).super) k then (s, .error (4, false))
      else if k.writes && (s.descOf w).audit && (s.descOf w).meets va size then (s, .error (5, false))
      else if det pa then (s, .error (6, false))
      else (s, .ok (e, pa))
/-- The physical addresses of the lanes that pass. -/
def passed (rs : List (Nat × Nat × Except (Nat × Bool) (TlbEntry × Nat))) : List Nat :=
  rs.filterMap fun r => match r.2.2 with | .ok e => some e.2 | .error _ => none
/-- The checks of every lane (R223): the earliest check that fails in any lane, the lanes that fail it, the lowest one's address. -/
def State.checkLanes (s : State) (w : Who) (k : AccKind) (align size : Nat) (l : List (Nat × Nat)) (det : List Nat → Nat → Bool) :
    State × Chk :=
  let (s, rs) := l.foldl (fun (a : State × List (Nat × Nat × Except (Nat × Bool) (TlbEntry × Nat))) p =>
    let (s, r) := a.1.check1 w k align size p.2 (det (passed a.2))
    (s, a.2 ++ [(p.1, p.2, r)])) (s, [])
  let bad := rs.filterMap fun r => match r.2.2 with | .error e => some (r.1, r.2.1, e.1, e.2) | .ok _ => none
  match bad with
  | [] =>
    (s, .ok (rs.filterMap fun r => match r.2.2 with
      | .ok e => some { lane := r.1, va := r.2.1, tr := e.1, pa := e.2 } | .error _ => (none : Option Spot)))
  | b :: bs =>
    let c := bs.foldl (fun m r => min m r.2.2.1) b.2.2.1
    let hit := (b :: bs).filter (·.2.2.1 == c)
    (s, .hard c (maskOf fun l => hit.any (·.1 == l)) ((hit.map (·.2.1)).headD 0) ((hit.map (·.2.2.2)).headD false))
/-- Whether some spot lies in a page in migration (R278); whether an address, or a spot, lies in a region being re-striped (R287). -/
def State.inMigration (s : State) (ps : List Spot) : Bool := ps.any fun p => s.migrating.contains (p.pa - p.pa % 4096)
def State.movesAt (s : State) (pa : Nat) : Bool :=
  let st := s.stack (pa / Config.stackBytes)
  st.moving && st.boundary ≤ pa % Config.stackBytes && pa % Config.stackBytes < st.boundary + 0x10000000
def State.inMove (s : State) (ps : List Spot) : Bool := ps.any fun p => s.movesAt p.pa
/-- D set for the spots of a write (R273). -/
def State.dirtied (s : State) (w : Who) (k : AccKind) (ps : List Spot) : State :=
  if k.writes then ps.foldl (fun s p => s.dirtyPte w p.tr) s else s
/-- The checks of a word's access: a page in migration is a soft fault (R362), a region being moved a wait (R287). -/
def State.checkAll (s : State) (w : Who) (k : AccKind) (align size : Nat) (l : List (Nat × Nat)) (det : List Nat → Nat → Bool) :
    State × Chk :=
  match s.checkLanes w k align size l det with
  | (s, .ok ps) => if s.inMigration ps then (s, .soft) else if s.inMove ps then (s, .wait) else (s.dirtied w k ps, .ok ps)
  | r => r
/-- The checks of an access the device makes of its own (R223), whose delays, if any, have been waited for (`State.late`). -/
def State.checkDev (s : State) (w : Who) (k : AccKind) (align size : Nat) (l : List (Nat × Nat)) : State × Chk :=
  match s.checkLanes w k align size l noDet with
  | (s, .ok ps) => (s.dirtied w k ps, .ok ps)
  | r => r
/-- Whether an access to n bytes by an agent that takes no soft fault must wait: some page of them is in migration, or a region of
them is being moved (R278, R287). -/
def State.late (s : State) (w : Who) (k : AccKind) (va n : Nat) : Bool :=
  (!s.migrating.isEmpty || s.hbm.any (·.2.moving)) &&
    (match (s.checkLanes w k 1 1 [(0, va), (1, (va + n - 1) % 2 ^ 64)] noDet).2 with
    | .ok ps => s.inMigration ps || s.inMove ps
    | _ => false)
/-- The cause of a failed check (R223). -/
def causeOf (check : Nat) : Nat := match check with | 2 => 7 | 4 => 9 | 5 => 0x10 | 6 => 0x11 | _ => 8

/-- A poisoned byte in a range (R188). -/
def State.poisoned (s : State) (pa n : Nat) : Bool := s.poison.any fun p => decide (p < pa + n) && decide (pa < p + 32)
/-- A byte in a range that is uncorrectable in the L2 that serves a die's access, or, where the die has yet to take the line, in its
home's (R188). -/
def State.l2Hurt (s : State) (x cls pa n : Nat) : Bool :=
  hurtIn (s.die (l2Of x cls pa)).l2Poison pa n
    || (aget (s.die x).copies (lineOf pa)).isNone && hurtIn (s.die (homeOf pa)).l2Poison pa n
/-- The same for an access that is performed at the home (R200, R206), where what the die has written of the line goes first. -/
def State.homeHurt (s : State) (x pa n : Nat) : Bool :=
  hurtIn (s.die (homeOf pa)).l2Poison pa n || (aget (s.die x).twins (lineOf pa)).isSome && hurtIn (s.die x).l2Poison pa n

/-- One more access of die x to a page counted at its home; at the threshold the page is queued for migration (R277). -/
def State.countPage (s : State) (w : Who) (p : Spot) : State :=
  let c := s.ctx w.ctx
  let h := homeOf p.pa
  let page := p.pa - p.pa % 4096
  let lo := c.word 4
  if h != w.die && p.tr.bits == 12 && !p.tr.nap && (p.tr.cls == 0 || p.tr.cls == 1) && (c.word 1).testBit 2
      && decide (lo ≤ p.va) && decide (p.va < lo + c.word 5) then
    let d := s.die h
    let cs := (aget d.acc4k page).getD [0, 0, 0, 0]
    let n := min 255 (cs.getD w.die 0 + 1)
    let th := bits (c.word 1) 15 8
    let known := (d.acc4k.filter (·.1 != page))
    if n ≥ (if th == 0 then 64 else th) then
      s.updDie h fun d => { d with
        acc4k := known
        migq := if d.migq.any (·.1 == page) then d.migq else d.migq ++ [(page, w.die, p.va - p.va % 4096, w.ctx)] }
    else s.updDie h fun d => { d with acc4k := aset (if decide (16384 ≤ known.length) then known.drop 1 else known) page (lset cs w.die fun _ => n) }
  else s

/-- Teams, other than one, that have written a line and hold the right to be rolled back lose it (R373). -/
def State.noRollOthers (s : State) (line : Nat) (t : Option Nat) : State :=
  (s.teams.filter fun p => some p.1 != t && p.2.rollOk && p.2.dirtied.contains line).foldl (fun s p => s.noRoll p.1) s
/-- Whether another team has dirtied a line. -/
def State.dirtiedByOther (s : State) (line : Nat) (t : Nat) : Bool :=
  s.teams.any fun p => p.1 != t && p.2.dirtied.contains line
/-- A team is no longer eligible for audit (R348). -/
def State.noAudit (s : State) (w : Who) : State :=
  match w.team with | some t => if (s.team t).auditOk then s.updTeam t fun t => { t with auditOk := false } else s | none => s
/-- A team loses the right to be rolled back by its own act (R373). -/
def State.noRollW (s : State) (w : Who) : State := match w.team with | some t => s.noRoll t | none => s
/-- The class of twin a team's write makes (R183, R197). -/
def State.twinCls (s : State) (w : Who) : TwinCls :=
  match w.team with
  | some t => if (s.team t).desc.det then .d else if (s.team t).rollOk then .b else .c
  | none => .c

/-- The ownership code of a line in a DETERMINISTIC launch: 1 private with its owner's linear index, 2 shared, 3 poisoned; untouched has no entry (R281). -/
def Launch.code (l : Launch) (line : Nat) : Option (Nat × Nat) := (l.own.find? (·.1 == line)).map (·.2)
def State.setOwn (s : State) (l line code owner : Nat) : State :=
  s.updLaunch l fun r => { r with own := (line, code, owner) :: r.own.filter (·.1 != line) }
/-- An entry of the ownership table read through its cache on the line's home die (R272). -/
def Die.ownTouch (d : Die) (l line : Nat) : Die :=
  { d with ownCache := ((l, line) :: d.ownCache.filter (· != (l, line))).take Config.ownCached }
def State.ownTouch (s : State) (l line : Nat) : State := s.updDie (homeOf line) (·.ownTouch l line)
/-- The record of a launch's team that has not retired. -/
def State.findTeam (s : State) (launch index : Nat) : Option Nat :=
  (s.teams.find? fun p => p.2.launch == launch && p.2.index == index && p.2.rerun.isNone).map (·.1)
/-- A line's words put back from a twin where die x keeps them; what is uncorrectable in the twin is so in them (R188). -/
def State.putLine (s : State) (x line : Nat) (t : Twin) : State :=
  let y := if (aget (s.die x).copies line).isSome then x else homeOf line
  let s := match aget (s.die x).copies line with
    | some c => s.updDie x fun d => { d with copies := aset d.copies line { c with words := t.words } }
    | none => s.homePut line (t.words.flatMap fun (w : W32) => leBytes 4 w.toNat)
  let s := s.healL2 y line 128
  if t.hurt.isEmpty then s else s.updDie y fun d => { d with l2Poison := t.hurt.map (line + ·) ++ d.l2Poison }
/-- The class-D twin of a line, wherever it is kept. -/
def State.detTwin (s : State) (line : Nat) : Option (List W32) :=
  s.dies.findSome? fun d => match aget d.2.twins line with | some t => if t.cls == .d then some t.words else none | none => none
/-- A line as a DETERMINISTIC kernel first changes it: its twin made on the die (R281), of the class the access names (R279); a
die-private line has none (R195). -/
def State.keepLine (s : State) (w : Who) (p : Spot) : State :=
  let line := lineOf p.pa
  let s := s.reclass w.die line p.cls
  if p.cls == 3 then s
  else if atHome w.die p.cls p.pa then s.twin w.die line (w.team.getD 0) .d
  else
    let (fill, s) := s.ensureCopy w.die line p.cls
    (if fill then s.countPage w p else s).twin w.die line (w.team.getD 0) .d
/-- A line becomes shared (R282): the words a team that has not retired changed move into its buffer, and the line is restored
from its twin. A line without a twin gets one, which keeps the line at kernel start. -/
def State.share (s : State) (w : Who) (l : Nat) (p : Spot) : State :=
  let line := lineOf p.pa
  let s := s.ownTouch l line
  match (s.launchRec l).code line with
  | some (1, u) =>
    let s := s.setOwn l line 2 0
    match s.findTeam l u with
    | none => s
    | some t =>
      let x := (s.team t).die
      match aget (s.die x).twins line with
      | none => s
      | some tw =>
        let ch := diffWords (s.lineWords x line) tw.words
        (s.updTeam t fun r => { r with buf := r.buf ++ ch.map fun c => .bytes 0 (line + 4 * c.1) (leBytes 4 c.2.toNat) }).putLine x line tw
  | some _ => s
  | none => (s.setOwn l line 2 0).keepLine w p
/-- A line a team has written for the first time noted. -/
def Team.dirty (t : Team) (line : Nat) : Team := if t.dirtied.contains line then t else { t with dirtied := line :: t.dirtied }
/-- Whether a team runs again for an audit (R350): its digest-only run writes no global memory. -/
def State.rerunOf (s : State) (w : Who) : Option Rerun := w.team.bind fun t => (s.team t).rerun
def State.mute (s : State) (w : Who) : Bool := (s.rerunOf w).any (!·.writes)
/-- A byte with a team's buffered bytes over it (R281). -/
def overBuf (buf : List BufOp) (a : Nat) (b : Byte) : Byte :=
  buf.foldl (fun b o => match o with
    | .bytes _ pa bs => if pa ≤ a && a < pa + bs.length then bs.getD (a - pa) 0 else b
    | .red .. => b) b

/-- A line touched in the L1 of the core that makes an access, which keeps no home-only line of another die (R174, R195); loads, atomics
and PREF fill it, no engine does (R169). -/
def State.l1Fill (s : State) (w : Who) (p : Spot) (h : Hint) : State :=
  match if w.engine then none else w.core with
  | some c => if p.cls == 0 && homeOf p.pa != w.die then s else s.touchL1 c (lineOf p.pa) h
  | none => s
/-- The agent that performs a rerun's stores: in a DETERMINISTIC kernel they rewrite the lines where the first run keeps them (R350). -/
def State.writer (s : State) (w : Who) : Who :=
  match s.rerunOf w with
  | some r =>
    let t := (w.team.map s.team).getD {}
    if t.desc.det then { w with die := r.die, core := none, team := s.findTeam t.launch t.index } else w
  | none => w
/-- Bytes of one line loaded through a translation (R195, R281). -/
def State.load (s : State) (w : Who) (p : Spot) (n : Nat) (h : Hint) : List Byte × State :=
  let line := lineOf p.pa
  let s := s.l1Fill w p h
  let s := s.noRollOthers line w.team
  let s := if (s.descOf w).inside p.va n then s else s.noAudit w
  let plain (s : State) : List Byte × State :=
    let (bs, fill, s) := s.loadAt w.die p.cls p.pa n h
    (bs, if fill then s.countPage w p else s)
  if !(s.descOf w).det || (s.rerunOf w).isSome then plain s
  else
    let t := w.team.getD 0
    let l := (s.team t).launch
    let s := s.ownTouch l line
    match (s.launchRec l).code line with
    | none => plain s
    | some (c, u) =>
      if c == 1 && u == (s.team t).index then plain s
      else
        let s := s.share w l p
        let ws := (s.detTwin line).getD (s.lineWords w.die line)
        ((List.range n).map fun i => overBuf (s.team t).buf (p.pa + i) (wget ws (p.pa % 128 + i)), s)
/-- A team that writes a line another team has written can no longer be rolled back, nor can that other (R373). -/
def State.noteLine (s : State) (w : Who) (p : Spot) : State :=
  match w.team with
  | none => s
  | some t =>
    let line := lineOf p.pa
    let s := if p.tr.pbmt != 0 || p.cls == 3 then s.noRollW w else s
    if p.cls == 1 then
      (if s.dirtiedByOther line t then (s.noRollW w).noRollOthers line w.team else s).updTeam t (·.dirty line)
    else s
/-- Bytes of a pool's bitmap (R334). -/
def poolMap (len : Nat) : Nat := (len + 2047) / 2048 * 16
/-- The groups of a team's shape, the teams of a kernel, the bytes of a group's slice of the arena (R315, R334). -/
def Desc.groups (d : Desc) : Nat := d.ncopy + d.nmatrix + d.nvector + d.ngeneral
def Desc.teams (d : Desc) : Nat := d.gx * d.gy * d.gz
def Desc.slice (d : Desc) : Nat := if d.groups == 0 then 0 else d.arenasz / (256 * d.groups) * 256
/-- The pool whose bitmap holds an address, by its own (R334). -/
def Desc.bitmapAt (d : Desc) (va : Nat) : Option Nat :=
  let q := d.slice
  let n := if d.det then q / 512 * 16 else q
  let r := (va - d.arena) % d.arenasz
  if n == 0 || decide (va < d.arena) || decide (d.teams ≤ (va - d.arena) / d.arenasz) || decide (d.groups * q ≤ r)
      || decide (q / n * n ≤ r % q) || decide (32 * n ≤ r % q) && d.det then none
  else if r % q % n < poolMap n then some (va - r % q % n) else none
/-- The addresses of a range of a context's space at which it maps bytes of a physical page (R187, R334). -/
def State.aliases (s : State) (ctx va len pa : Nat) : List Nat :=
  (List.range ((va % 4096 + len + 4095) / 4096)).filterMap fun k =>
    let a := va - va % 4096 + 4096 * k
    match s.walkCtx ctx a with
    | .ok e => if e.ppn + a % 2 ^ e.bits == pa - pa % 4096 then some (a + pa % 4096) else none
    | .error _ => none
/-- Contexts with spilled registers into whose spill region n bytes fall, which lie in one page (R187). -/
def State.spillHit (s : State) (pa n : Nat) : List Nat :=
  let away := ((s.cores.flatMap fun c => c.2.slots).filter fun p => !p.2.spilled.isEmpty).map fun p => (s.team p.2.team).ctx
  away.eraseDups.filter fun c => s.teams.any fun t => t.2.ctx == c
    && (s.aliases c t.2.desc.spillva t.2.desc.spillsz pa).any fun a =>
      decide (a < t.2.desc.spillva + t.2.desc.spillsz) && decide (t.2.desc.spillva < a + n)
/-- Pools of a launch into whose bitmaps n bytes fall, which lie in one page (R334). -/
def State.mapHit (s : State) (l : Launch) (pa n : Nat) : List Nat :=
  if l.desc.slice == 0 then []
  else
    let steps := (List.range (n / 16 + 1)).map fun k => min (16 * k) (n - 1)
    (((s.aliases l.ctx l.desc.arena (l.desc.teams * l.desc.arenasz) pa).flatMap fun a => steps.map (a + ·)).filterMap l.desc.bitmapAt).eraseDups
/-- What a store of a program to n bytes costs that should not be made: into the bitmap of a pool, its later pointers (R334); into the
spill region of a context, the values of the context's spilled registers (R187), which become free values (log 2). Memory is what
counts: under which address, from where and by which agent the bytes come makes no difference. -/
def State.noteStore (s : State) (own : Bool) (pa n : Nat) : State :=
  if own then s
  else
    let cs := s.spillHit pa n
    let s := if cs.isEmpty then s
      else
        let lost (g : Group) : Group :=
          if cs.contains (s.team g.team).ctx then
            { g with spilled := g.spilled.map fun r => (r.1, gOf fun l => s.freeW (16384 * g.alloc + 32 * r.1 + l)) } else g
        { s with
          freeCtr := s.freeCtr + 1
          cores := s.cores.map fun c => (c.1, { c.2 with slots := c.2.slots.map fun p => (p.1, lost p.2) }) }
    let hit (l : Launch) : List Nat := (s.mapHit l pa n).filter fun p => !l.spoiled.contains p
    if s.launches.all fun l => (hit l.2).isEmpty then s
    else { s with launches := s.launches.map fun l => (l.1, { l.2 with spoiled := l.2.spoiled ++ hit l.2 }) }
/-- A reduction of a DETERMINISTIC team buffered (R281). -/
def State.bufRed (s : State) (w : Who) (p : Spot) (op : AtomOp) (wide : Bool) (v : W64) : State :=
  let t := w.team.getD 0
  if s.mute w then s
  else ((s.noteStore w.own p.pa (if wide then 8 else 4)).share w (s.team t).launch p).updTeam t fun r =>
    { r.dirty (lineOf p.pa) with buf := r.buf ++ [.red w.thread p.pa op wide v] }
/-- Bytes of one line stored through a translation (R195, R196, R197, R281, R373). -/
def State.store (s : State) (w : Who) (p : Spot) (bs : List Byte) (h : Hint) : State :=
  if s.mute w then s
  else
    let w := s.writer w
    let line := lineOf p.pa
    let t := w.team.getD 0
    let s := match w.core with
      | some c => if (aget (s.core c).l1 line).isSome then s.touchL1 c line h else s | none => s
    let s := ((s.l1Write w.die p.cls line w.core).noteLine w p).noteStore w.own p.pa bs.length
    let plain (s : State) : State :=
      let (fill, s) := s.storeAt w.die p.cls p.pa bs h t (s.twinCls w)
      if fill then s.countPage w p else s
    if !(s.descOf w).det then plain s
    else
      let l := (s.team t).launch
      let s := (s.updTeam t (·.dirty line)).ownTouch l line
      match (s.launchRec l).code line with
      | none => plain ((s.setOwn l line 1 (s.team t).index).keepLine w p)
      | some (c, u) =>
        if c == 1 && u == (s.team t).index then plain s
        else (s.share w l p).updTeam t fun r => { r with buf := r.buf ++ [.bytes w.thread p.pa bs] }

/-- Whether an access of a DETERMINISTIC team fails for want of an ownership entry, or of twins while it comes first (R184,
R285): the reason of R357. Entries and lines that lanes before this one take count. -/
def State.detLimit (s : State) (w : Who) (k : AccKind) (before : List Nat) (pa : Nat) : Option Nat :=
  if !(s.descOf w).det || !k.writes || (s.rerunOf w).isSome then none
  else
    let t := s.team (w.team.getD 0)
    let l := s.launchRec t.launch
    let line := lineOf pa
    let prior := ((before.map lineOf).takeWhile (· != line)).eraseDups
    let taken := (l.own.filter fun o => homeOf o.1 == homeOf pa).length
      + (prior.filter fun x => homeOf x == homeOf pa && (l.code x).isNone).length
    if (l.code line).isNone && decide (Config.ownEntries ≤ taken) then some 5
    else if t.rank == l.nextRetire && !t.dirtied.contains line
        && decide (Config.detLines ≤ t.dirtied.length + (prior.filter fun x => !t.dirtied.contains x).length) then some 4
    else none
/-- Lines of a die's twin region that early publication cannot free (R183, R184): twins of class B and D, and copies held for them;
those that `free` says will be class C are not counted. -/
def Die.fixedUse (d : Die) (free : Twin → Bool) : Nat :=
  let stays (t : Twin) : Bool := t.cls != .c && !free t
  (d.twins.filter fun t => t.2.region && stays t.2).length
    + (d.copies.filter fun c => c.2.held && (aget d.twins c.1).any stays).length
/-- How many lines of the twin region the new twins of some lines take, which the twin cache makes room for (R181). -/
def Die.twinsNeed (d : Die) (lines : List Nat) : Nat :=
  let blank : Twin := { words := [], cls := .c, team := 0, made := 0 }
  (lines.foldl (fun d l => d.putTwin l blank) d).regionUse - d.regionUse
/-- The lines of a word's writes that need a new twin on their die (R184, R197, R281). -/
def State.twinless (s : State) (w : Who) (ps : List Spot) : List Nat :=
  let det := (s.descOf w).det
  let l := s.launchRec (s.team (w.team.getD 0)).launch
  let new (p : Spot) : Bool :=
    (aget (s.die w.die).twins (lineOf p.pa)).isNone && (if det then p.cls != 3 && (l.code (lineOf p.pa)).isNone else p.cls == 1)
  ((ps.filter new).map fun p => lineOf p.pa).eraseDups
/-- Whether the new twins of a word's writes find no room in the twin region, though every class-C twin be published early and the
team's own of class B be demoted (R184): all but the DETERMINISTIC team first in its curve order leave 64 MB of the region free, and
their write waits. R184 lets it go on as a team retires and frees its twins, R185 keeps those of class D to the kernel's last
retirement: the model frees none at a retirement, and each team that comes first goes on, past the region's size if need be (DESIGN
CHOICE, log 84). -/
def State.twinFull (s : State) (w : Who) (ps : List Spot) : Bool :=
  let d := s.die w.die
  if d.regionUse + ps.length ≤ openLines || (s.rerunOf w).isSome then false
  else
    let t := s.team (w.team.getD 0)
    let first := (s.descOf w).det && t.rank == (s.launchRec t.launch).nextRetire
    let lines := s.twinless w ps
    !lines.isEmpty && !first && decide (openLines < d.fixedUse (fun u => u.cls == .b && some u.team == w.team) + d.twinsNeed lines)
/-- The state in which a word whose twins find no room waits (R184): a retryable team has lost its right to be rolled back. -/
def State.twinWait (s : State) (w : Who) (ps : List Spot) : Option State :=
  if !s.twinFull w ps then none
  else match w.team with
    | some t => if (s.team t).rollOk then some { (s.noRoll t).countDie w.die 0x115 with cur := { s.cur with hold := true } }
                else some { s with cur := { s.cur with stall := true } }
    | none => some { s with cur := { s.cur with stall := true } }
/-- Whether a die's twin region has no room but the reserve, whatever is published (R184): an agent's write waits. -/
def Die.jammed (d : Die) : Bool := decide (openLines ≤ d.regionUse) && decide (openLines ≤ d.fixedUse fun _ => false)
/-- Whether a DETERMINISTIC access meets a poisoned line (R281). -/
def State.detPoison (s : State) (w : Who) (pa : Nat) : Bool :=
  (s.descOf w).det && ((s.launchRec (s.team (w.team.getD 0)).launch).code (lineOf pa)).any (·.1 == 3)

/-- An access of the command processor, or of another agent that takes no trap: its spot, or the failed check (R223). -/
def State.spot (s : State) (w : Who) (k : AccKind) (align size va : Nat) : State × Option Spot :=
  match s.checkDev w k align size [(0, va)] with
  | (s, .ok [p]) => (s, some p)
  | (s, _) => (s, none)
/-- Bytes read or written one naturally aligned piece of at most eight bytes at a time, none across a line; none when a check fails. -/
def State.readVa (s : State) (w : Who) (va n : Nat) : State × Option (List Byte) :=
  (List.range n).foldl (fun a i =>
    match a.2 with
    | none => a
    | some bs =>
      match a.1.spot w .load 1 1 (va + i) with
      | (s, some p) => let (b, s) := s.load w p 1 .n; (s, some (bs ++ b))
      | (s, none) => (s, none)) (s, some [])
def State.writeVa (s : State) (w : Who) (va : Nat) (bs : List Byte) : State × Bool :=
  let (s, ps) := (List.range bs.length).foldl (fun (a : State × List (Option Spot)) i =>
    let (s, p) := a.1.spot w .store 1 1 (va + i)
    (s, a.2 ++ [p])) (s, [])
  if ps.all Option.isSome then
    ((ps.zip bs).foldl (fun s q => match q.1 with | some p => s.store w p [q.2] .n | none => s) s, true)
  else (s, false)

end Sys2Proof.Machine
end

