-- ==== Sys2Proof/Machine/Life.lean ====
section
/-! DEFINITION. Scratchpads, groups and teams: the team scratchpad with its full/empty bits and template-shared blocks (R171 to
R173, R296), the register store (R80), how groups start and end (R17, R72, R88, R294, R303, R304), save areas (R377), digests
(R349), and what is left when a team goes. -/
namespace Sys2Proof.Machine

/-- One byte folded into a CRC of 64 bits, most significant bit first (R349). -/
def crcByte (poly : W64) (c : W64) (b : Byte) : W64 :=
  (List.range 8).foldl (fun c _ => if c.msb then (c <<< 1) ^^^ poly else c <<< 1) (c ^^^ (b.setWidth 64 <<< 56))
/-- The ECMA-182 fold, and the reflected ISO 3309 CRC (R349). -/
def crcEcma (c : W64) (l : List Byte) : W64 := l.foldl (crcByte 0x42F0E1EBA9EA3693) c
def crcIso (l : List Byte) : W64 :=
  ~~~(l.foldl (fun c b => (List.range 8).foldl (fun c _ => if c.getLsbD 0 then (c >>> 1) ^^^ 0xD800000000000000 else c >>> 1)
    (c ^^^ b.setWidth 64)) (~~~(0#64)))
/-- The records of a store: its 16-byte chunks in increasing address (R349). -/
def foldStore (t : W64) (scratch : Bool) (a : Nat) (bs : List Byte) : W64 :=
  let first := a / 16
  (List.range ((a % 16 + bs.length + 15) / 16)).foldl (fun t k =>
    let base := 16 * (first + k)
    let at_ (i : Nat) : Option Byte := if a ≤ base + i && base + i < a + bs.length then bs[base + i - a]? else none
    let mask := ((List.range 16).filter fun i => (at_ i).isSome).foldl (fun m i => m + 2 ^ i) 0
    crcEcma t ([0] ++ leBytes 8 (if scratch then base + 2 ^ 63 else base) ++ leBytes 2 mask
      ++ (List.range 16).map fun i => (at_ i).getD 0)) t
/-- Stores folded into the digest of a thread, by its index and its group's number; the list rises (R349). -/
def Team.foldT (t : Team) (th al : Nat) (l : List (Bool × Nat × List Byte)) : Team :=
  let old := ((t.threads.find? fun p => p.1 == th && p.2.1 == al).map (·.2.2)).getD 0
  let new := l.foldl (fun c x => foldStore c x.1 x.2.1 x.2.2) old
  let before (p : Nat × Nat × W64) : Bool := p.1 < th || (p.1 == th && p.2.1 < al)
  let r := t.threads.filter fun p => !(p.1 == th && p.2.1 == al)
  { t with threads := r.filter before ++ (th, al, new) :: r.filter (!before ·) }
/-- What is known of a thread's stores folded, as far as no earlier copy command of the thread keeps it back (R349). -/
def Team.drainFolds (t : Team) : Team :=
  t.folds.foldl (fun u f =>
    if f.op != 0 || u.folds.any (fun q => q.thread == f.thread && q.alloc == f.alloc) then { u with folds := u.folds ++ [f] }
    else u.foldT f.thread f.alloc f.parts) { t with folds := [] }
/-- The bytes of a team's global stores noted (R350). -/
def Team.note (t : Team) (l : List (Bool × Nat × List Byte)) : Team :=
  { t with wrote := t.wrote ++ (l.filter (!·.1)).map fun x => (x.2.1, x.2.2.length) }
/-- A thread's store folded into its digest, in issue order, in an AUDIT kernel (R349). -/
def State.digest (s : State) (c k lane : Nat) (scratch : Bool) (a : Nat) (bs : List Byte) : State :=
  let g := s.group c k
  if (s.team g.team).desc.audit then
    s.updTeam g.team fun t =>
      let t : Team := { t with folds := t.folds ++ [{ thread := 32 * g.index + lane, alloc := g.alloc, parts := [(scratch, a, bs)] }] }
      t.drainFolds.note [(scratch, a, bs)]
  else s
/-- A copy command takes its place among its thread's stores as it issues; its writes are folded there as it ends (R349). -/
def State.digestLater (s : State) (c k lane op : Nat) : State :=
  let g := s.group c k
  if (s.team g.team).desc.audit then
    s.updTeam g.team fun t => { t with folds := t.folds ++ [{ thread := 32 * g.index + lane, alloc := g.alloc, op }] }
  else s
def State.digestPart (s : State) (t op : Nat) (scratch : Bool) (a : Nat) (bs : List Byte) : State :=
  if (s.team t).folds.any (·.op == op) then
    let add (f : Fold) : Fold := if f.op == op then { f with parts := f.parts ++ [(scratch, a, bs)] } else f
    s.updTeam t fun t => ({ t with folds := t.folds.map add } : Team).note [(scratch, a, bs)]
  else s
def State.digestClose (s : State) (t op : Nat) : State :=
  if (s.team t).folds.any (·.op == op) then
    let known (f : Fold) : Fold := if f.op == op then { f with op := 0 } else f
    s.updTeam t fun t => ({ t with folds := t.folds.map known } : Team).drainFolds
  else s
/-- The 128-bit digest of a team from its threads' (R349). -/
def teamDigest (l : List (Nat × W64)) : BitVec 128 :=
  let q := l.flatMap fun p => leBytes 4 p.1 ++ leBytes 8 p.2.toNat
  crcEcma 0 q ++ crcIso q
def Team.digest (t : Team) : BitVec 128 := teamDigest (t.threads.map fun p => (p.1, p.2.2))

/-- Bytes of scratchpad per core of a kernel, and whether a range of a team's scratchpad exists (R172). -/
def Desc.scratchBytes (d : Desc) : Nat := 32768 * d.scratch
def Team.inScratch (t : Team) (a n : Nat) : Bool :=
  n == 0 || (decide (a / 524288 < t.cores.length) && decide (a % 524288 + n ≤ t.desc.scratchBytes))
/-- The template-shared block not yet copied that holds an address (R296). -/
def Team.blockAt (t : Team) (a : Nat) : Option (Nat × Nat × Nat) := t.blocks.find? fun b => b.1 ≤ a && a < b.1 + b.2.1
/-- A scratchpad byte, and a granule's full/empty bit: the image's in a block not yet copied (R296). -/
def State.scByte (s : State) (t a : Nat) : Byte :=
  let tm := s.team t
  match tm.blockAt a with
  | some b => memGet ((aget s.tmpls b.2.2).getD {}).image.bytes a
  | none => memGet tm.scratch a
def State.scRd (s : State) (t a n : Nat) : List Byte := (List.range n).map fun i => s.scByte t (a + i)
def State.isFull (s : State) (t a : Nat) : Bool :=
  let tm := s.team t
  match tm.blockAt a with
  | some b => ((aget s.tmpls b.2.2).getD {}).image.fe.contains (a / 16)
  | none => tm.fe.contains (a / 16)
/-- A full/empty bit set; the list of full granules rises. -/
def setFe (l : List Nat) (g : Nat) (full : Bool) : List Nat :=
  let r := l.filter (· != g)
  if full then (r.filter (· < g)) ++ g :: r.filter (fun x => decide (g < x)) else r
/-- A template freed when it is dropped, unreferenced and not held for audit (R299): no group shares a register, no team holds
a block, no template is its child, no items are owed. -/
def State.refs (s : State) (t : Nat) : Nat :=
  ((s.cores.flatMap fun c => c.2.slots).filter fun g => g.2.tmpl == some t && !g.2.shared.isEmpty).length
    + (s.teams.filter fun p => p.2.blocks.any (·.2.2 == t)).length
    + (s.tmpls.filter (·.2.parent == some t)).length
    + ((s.teams.flatMap fun p => p.2.owed).filter (·.tmpl == t)).length
/-- A template's id as a spawn bin keeps it once the template is freed: no id of a template (R303). -/
def goneId (gone : Nat → Bool) (t : Option Nat) : Option Nat := t.map fun n => if n < 4096 && gone n then 4096 + n else n
/-- Templates freed, by number; what named them as its own names nothing that comes after (R297, R301). -/
def State.freeTmpls (s : State) (gone : Nat → Bool) : State :=
  let own (g : Group) : Group := if g.tmpl.any gone then { g with tmpl := none } else g
  { s with
    tmpls := s.tmpls.filter fun t => !gone t.1
    teams := s.teams.map fun t => (t.1, { t.2 with received := t.2.received.filter (!gone ·), saves := t.2.saves.map own, savedBins := t.2.savedBins.map fun b => { b with tmpl := goneId gone b.tmpl } })
    cores := s.cores.map fun c => (c.1, { c.2 with
      slots := c.2.slots.map fun p => (p.1, own p.2)
      bins := c.2.bins.map fun b => (b.1, { b.2 with tmpl := goneId gone b.2.tmpl })
      ops := c.2.ops.map fun o => match o.kind with
        | .spawn e t n l => { o with kind := .spawn e (goneId gone t) n l } | _ => o }) }
def State.sweep1 (s : State) : State :=
  let gone := (s.tmpls.filter fun t => t.2.dropped && !t.2.ahold && s.refs t.1 == 0).map (·.1)
  if gone.isEmpty then s else s.freeTmpls gone.contains
/-- Templates freed as long as freeing one frees another: a chain has at most four (R291). -/
def State.sweep (s : State) : State := if s.tmpls.isEmpty then s else s.sweep1.sweep1.sweep1.sweep1
/-- The block that holds an address copied into the team's scratchpad, counted on the core whose group caused it (R296). -/
def State.copyBlock (s : State) (t core a : Nat) : State :=
  let tm := s.team t
  match tm.blockAt a with
  | none => s
  | some b =>
    let im := ((aget s.tmpls b.2.2).getD {}).image
    let tm := { tm with
      blocks := tm.blocks.filter (· != b)
      copying := tm.copying.filter (·.1 != b.1)
      scratch := memWr tm.scratch b.1 ((List.range b.2.1).map fun i => memGet im.bytes (b.1 + i))
      fe := (List.range (b.2.1 / 16)).foldl (fun l i => setFe l (b.1 / 16 + i) (im.fe.contains (b.1 / 16 + i))) tm.fe }
    ((s.updTeam t fun _ => tm).countCore core 0x102).sweep
/-- Blocks of a team not yet copied that a range meets. -/
def Team.blocksIn (t : Team) (a n : Nat) : List (Nat × Nat × Nat) := t.blocks.filter fun b => n != 0 && b.1 < a + n && a < b.1 + b.2.1
/-- Every block a range meets copied. -/
def State.copyBlocks (s : State) (t core a n : Nat) : State := ((s.team t).blocksIn a n).foldl (fun s b => s.copyBlock t core b.1) s
/-- Cycles a block's copy takes (R296); longer where its bytes are not in the L2, which is timing. -/
def copyCycles : Nat := 40
/-- A word's accesses to some ranges of its team's scratchpad, as writes or as reads (R296): blocks not yet copied that it writes
begin to be copied; it waits while a block it meets is being copied. Answers the state in which its group waits, if it must. -/
def State.blockWait (s : State) (l : List (Nat × Nat)) (writes : Bool) : Option State :=
  let t := s.g.team
  let tm := s.team t
  if tm.blocks.isEmpty then none
  else
    let bs := (l.flatMap fun r => tm.blocksIn r.1 r.2).eraseDups
    let new := if writes then bs.filter fun b => !tm.copying.any (·.1 == b.1) else []
    let till := s.now s.cur.core + copyCycles
    if !new.isEmpty then
      some { s.updTeam t fun m => { m with copying := m.copying ++ new.map fun b => (b.1, s.cur.core, till) } with cur := { s.cur with hold := true } }
    else if bs.any fun b => tm.copying.any (·.1 == b.1) then some { s with cur := { s.cur with stall := true } }
    else none
/-- Whether a range of a team's scratchpad holds an uncorrectable error (R188). -/
def State.scHurt (s : State) (t a n : Nat) : Bool := hurtIn (s.team t).scPoison a n
/-- Scratchpad bytes written, and a granule's bit changed, after the copy faults they cause. -/
def State.scWr (s : State) (t core a : Nat) (bs : List Byte) : State :=
  (s.copyBlocks t core a bs.length).updTeam t fun t => { t with scratch := memWr t.scratch a bs, scPoison := healIn t.scPoison a bs.length }
def State.scFe (s : State) (t core a : Nat) (full : Bool) : State :=
  let s := s.copyBlocks t core a 1
  let now := s.now core
  s.updTeam t fun t =>
    if t.fe.contains (a / 16) == full then t
    else { t with fe := setFe t.fe (a / 16) full, feAt := (a / 16, now) :: t.feAt.filter fun x => x.2 == now && x.1 != a / 16 }

/-- The commands a slot's group has outstanding, and its logged words: those that carry the slot's tag as it stands (R88). -/
def Core.tag (c : Core) (k : Nat) : Nat := (aget c.tags k).getD 0
def Core.opsOf (c : Core) (k : Nat) : List POp := c.ops.filter fun o => o.slot == k && o.tag == c.tag k
def Core.logOf (c : Core) (k : Nat) : List LogEntry := c.opLog.filter fun e => e.slot == k && e.tag == c.tag k
/-- The shape code with which a result is written (R73, R76). -/
def Wb.code : Wb → Nat | .vec _ m v _ => if m == allOnes32 then v.code else 3 | _ => 0
/-- Vector registers a command will write, with the shapes of their values (R80, R225, R325). -/
def POp.owes (o : POp) : List (Nat × Nat) :=
  let once : Nat := if o.lanes == allOnes32 then 1 else 3
  let all (c : Nat) : List (Nat × Nat) := o.vdest.map fun r => (r, c)
  let of (wbs : List Wb) : List (Nat × Nat) := o.vdest.map fun r =>
    (r, ((wbs.find? fun w => match w with | .vec q .. => q == r | _ => false).map Wb.code).getD 3)
  match o.kind with
  | .done wbs => of wbs
  | .stamp _ wbs => of wbs
  | .fe _ _ _ size _ u => all (if u && size ≤ 4 then once else 3)
  | .ring .. => all once
  | _ => all 3
/-- Whether a logged word's result will be U: a narrow load whose addresses are U, or a result given once (R225). -/
def LogEntry.once (e : LogEntry) : Bool :=
  let u (o : Opnd) : Bool := match o with | .v n => (e.group.reg n).isU | .lane => false | _ => true
  let uw (o : Opnd) : Bool := match o with | .v n => (e.group.reg n).isU && (e.group.reg (n + 1)).isU | o => u o
  let act : W32 := match e.instr.tab with | some t => maskOf fun l => e.cur.mask.getLsbD l && (e.group.pred t.ctl.pg l != t.ctl.pn) | none => 0
  act == allOnes32 && (match e.instr with
    | .ld _ _ a b sz _ _ _ => uw a && u b && sz != .b64 && sz != .b128
    | .lda _ _ a b w _ _ => uw a && u b && !w
    | .tsrset .. => true | .hcall .. => true | .qsig .. => true | _ => false)
def LogEntry.owes (e : LogEntry) : List (Nat × Nat) :=
  ((e.instr.tab.map OpTab.vwrites).getD []).map fun r => (r, if e.once then 1 else 3)
/-- Registers owed by the class-L commands and the logged words of a slot (R86, R363). -/
def Core.owed (c : Core) (k : Nat) : List (Nat × Nat) := (c.opsOf k).flatMap POp.owes ++ (c.logOf k).flatMap LogEntry.owes
def Core.owedV (c : Core) (k : Nat) : List Nat := (c.owed k).map (·.1)
def Core.owedS (c : Core) (k : Nat) : List Nat :=
  (c.opsOf k).filterMap (·.sdest) ++ (c.logOf k).flatMap fun e => (e.instr.tab.map OpTab.swrites).getD []
/-- The storage a group holds or has been allocated, by shape code (R73, R78, R80): its own values, the results on their way, and
those its class-L words owe. A value stays until it is overwritten. -/
def Group.claims (g : Group) (owed : List (Nat × Nat)) : List Nat :=
  ((g.regs.filter fun r => !g.shared.contains r.1).map (·.2.code)) ++ (g.wb.filterMap fun w => match w with | .vec .. => some w.code | _ => none)
    ++ owed.map (·.2)
/-- Accumulators of a slot that matrix commands which have started will write, but for those that have an entry (R247). -/
def Core.owedM (c : Core) (k : Nat) : List Nat :=
  c.ops.flatMap fun o => match o.kind with
    | .matrix m => if m.started && m.groups.contains (k, c.tag k) then (List.range 128).map (m.d + ·) else [] | _ => []
/-- Templates of which a core holds an instance: those some group of it still shares a register of, and those whose registers such
an instance refers to (R298). -/
def State.instances (s : State) (c : Nat) : List Nat :=
  let near := ((s.core c).slots.filterMap fun p => if p.2.shared.isEmpty then none else p.2.tmpl).eraseDups
  let up (l : List Nat) : List Nat :=
    (l ++ l.filterMap fun t => (aget s.tmpls t).bind fun e => if e.image.byRef.isEmpty then none else e.parent).eraseDups
  if near.isEmpty then [] else up (up (up near))
/-- General entries and compact entries that values of some shape codes take (R73): two U values share a compact entry. -/
def entriesOf (l : List Nat) : Nat × Nat :=
  let n (q : Nat) : Nat := (l.filter (· == q)).length
  (n 3, n 2 + (n 1 + 1) / 2)
/-- The shape codes of all that a core's register store holds (R80, R298). -/
def State.stored (s : State) (c : Nat) : List Nat :=
  let k := s.core c
  let own := k.slots.flatMap fun p =>
    p.2.claims (k.owed p.1) ++ ((k.owedM p.1).filter fun r => p.2.code r != 3 || p.2.shared.contains r).map fun _ => 3
  let inst := (s.instances c).flatMap fun t => match aget s.tmpls t with
    | some e => (e.image.regs.filter fun r => !e.image.byRef.contains r.1).map (·.2.code) | none => []
  own ++ inst
/-- General entries and compact entries of a core's register store in use (R80). -/
def State.storeUse (s : State) (c : Nat) : Nat × Nat := entriesOf (s.stored c)
/-- The shape codes of what a slot's group takes of the register store on the way from one state to the next. It takes it as its
word issues, before anything that the word ends is released (R78, R80). -/
def State.taken (s t : State) (core slot : Nat) : List Nat :=
  let g := s.group core slot
  let h := t.group core slot
  if h.alloc != g.alloc then []
  else
    let k := s.core core
    let before (r : Nat × Shaped) : Bool := g.regs.contains r && !g.shared.contains r.1
    ((h.regs.filter fun r => !h.shared.contains r.1 && !before r).map (·.2.code))
      ++ ((h.wb.filter (!g.wb.contains ·)).filterMap fun w => match w with | .vec .. => some w.code | _ => none)
      ++ ((((t.core core).opsOf slot).filter fun o => !k.ops.any (·.id == o.id)).flatMap POp.owes).map (·.2)
      ++ ((((t.core core).logOf slot).filter (!k.opLog.contains ·)).flatMap LogEntry.owes).map (·.2)
/-- Either pool of two. -/
def either (a : Bool × Bool) : Bool := a.1 || a.2
/-- Of which pools of a core's register store some values ask for more; and for more than there is (R80). -/
def State.asks (s : State) (core : Nat) (l : List Nat) : Bool × Bool :=
  let a := s.storeUse core
  let b := entriesOf (s.stored core ++ l)
  (decide (a.1 < b.1), decide (a.2 < b.2))
def State.lacks (s : State) (core : Nat) (l : List Nat) : Bool × Bool :=
  let a := s.asks core l
  let b := entriesOf (s.stored core ++ l)
  (a.1 && decide (Config.generalEntries < b.1), a.2 && decide (Config.compactEntries < b.2))
/-- Whether a core has room for the instance of a template that a first item of it needs there, with those its registers refer to
(R298): the image may take more of either pool than an item's budget. -/
def State.instanceFits (s : State) (c t : Nat) : Bool :=
  let up (l : List Nat) : List Nat :=
    (l ++ l.filterMap fun n => (aget s.tmpls n).bind fun e => if e.image.byRef.isEmpty then none else e.parent).eraseDups
  let new := (up (up (up [t]))).filter fun n => !(s.instances c).contains n
  let codes := new.flatMap fun n => match aget s.tmpls n with
    | some e => (e.image.regs.filter fun r => !e.image.byRef.contains r.1).map (·.2.code) | none => []
  !either (s.lacks c codes)

/-- Two answers for the two pools, where both hold, or one. -/
def bothOf (a b : Bool × Bool) : Bool × Bool := (a.1 && b.1, a.2 && b.2)
def eachOf (a b : Bool × Bool) : Bool × Bool := (a.1 || b.1, a.2 || b.2)

/-- The physical core a logical core stands on (R286). -/
def State.phys (s : State) (c : Nat) : Nat := (s.die (dieOf c)).clmap.getD (c % 64) 0
def State.physOf (s : State) (c : Nat) : Nat := 66 * dieOf c + s.phys c
/-- The cycles since a core left reset: %clock (R345). -/
def State.clockOf (s : State) (c : Nat) : Nat := (s.die (dieOf c)).clk - (s.pcore (s.physOf c)).start

/-- The register budget of a role, and of groups a team creates later (R304, R315). -/
def Desc.budget (d : Desc) (role : Nat) : Nat := match role with | 0 => d.bcopy | 1 => d.bmatrix | 2 => d.bvector | _ => d.bgeneral
def Desc.maxBudget (d : Desc) : Nat := max (max d.bcopy d.bmatrix) (max d.bvector d.bgeneral)
def Desc.lateBudget (d : Desc) : Nat := if d.ngeneral == 0 then d.maxBudget else d.bgeneral
/-- The descriptor as it was launched: a prologue team holds one of its own (R289). -/
def State.kernel (s : State) (t : Nat) : Desc :=
  let tm := s.team t
  if tm.prologue then (s.launchRec tm.launch).desc else tm.desc
/-- The role of group g in the team shape (R17). -/
def Desc.role (d : Desc) (g : Nat) : Nat :=
  if g < d.ncopy then 0 else if g < d.ncopy + d.nmatrix then 1 else if g < d.ncopy + d.nmatrix + d.nvector then 2 else 3
/-- The groups of a team: core, slot, group. -/
def State.groupsOf (s : State) (t : Nat) : List (Nat × Nat × Group) :=
  s.cores.flatMap fun c => (c.2.slots.filter (·.2.team == t)).map fun p => (c.1, p.1, p.2)

/-- A group's state at its start (R72): its registers, and threads at an entry with no clause open. -/
def State.newGroup (s : State) (t idx role budget pc : Nat) (lanes : W32) : Group :=
  let tm := s.team t
  { team := t, index := idx, role, budget, born := lanes,
    regs := [(0, .a (BitVec.ofNat 32 (32 * idx)) 1)],
    sregs := [(0, BitVec.ofNat 64 tm.desc.param), (1, BitVec.ofNat 64 tm.index), (2, BitVec.ofNat 64 idx), (3, BitVec.ofNat 64 role)],
    threads := allLanes.map fun l => if lanes.getLsbD l then { pc := pcMod pc, wait := .run } else {} }
/-- An item's state at its start from a template (R294). -/
def State.newItem (s : State) (t tm idx role budget item : Nat) (isItem : Bool) : Group :=
  let e := (aget s.tmpls tm).getD {}
  let im := e.image
  let g := s.newGroup t idx role budget im.pc e.lanes
  let own := if isItem then [0, e.xreg] else [0]
  let regs := im.regs.filter fun r => decide (r.1 < budget)
  let regs := aset regs 0 (.a (BitVec.ofNat 32 (32 * idx)) 1)
  let x : W32 := e.xbase + BitVec.ofNat 32 (32 * item)
  let regs := if isItem && decide (e.xreg < budget) then aset regs e.xreg (if e.xu then .u x else .a x e.xstride) else regs
  { g with
    regs, tmpl := some tm, tdepth := e.depth, item := if isItem then item else 0xFFFFFFFF
    shared := (im.regs.map (·.1)).filter fun r => decide (r < budget) && !own.contains r
    sregs := g.sregs.foldl (fun l r => aset l r.1 r.2) im.sregs
    preds := im.preds, joins := im.joins.map (· &&& e.lanes)
    threads := g.threads.map fun th => if th.wait == .empty then th else { th with seta := im.seta, setb := im.setb, left := im.left } }

/-- The quadrant with the fewest resident groups, ties to the lower (R17). -/
def State.quadFor (s : State) (c : Nat) : Nat :=
  let n (q : Nat) : Nat := ((s.core c).slots.filter (·.2.quad == q)).length
  [1, 2, 3].foldl (fun b q => if n q < n b then q else b) 0
/-- Whether a slot may be allocated: it is free, and nothing still to come, the engine's writes to tile groups among it, carries the
tag it would get (R88, R247). -/
def Core.openSlot (c : Core) (k : Nat) : Bool :=
  let next := (c.tag k + 1) % 256
  let comes (o : POp) : Bool := o.slot == k && o.tag == next || (match o.kind with | .matrix m => m.groups.contains (k, next) | _ => false)
  (aget c.slots k).isNone && !c.ops.any comes && !(c.opLog.any fun e => e.slot == k && e.tag == next)
def Core.lowestSlot (c : Core) : Option Nat := (List.range Config.slotsPerCore).find? c.openSlot
/-- The slots of a core that may be allocated. -/
def State.freeSlots (s : State) (c : Nat) : Nat :=
  let k := s.core c
  if k.slots.isEmpty && k.ops.isEmpty && k.opLog.isEmpty then Config.slotsPerCore
  else ((List.range Config.slotsPerCore).filter k.openSlot).length
/-- Groups resident on a quadrant. -/
def Core.onQuad (c : Core) (q : Nat) : Nat := (c.slots.filter (·.2.quad == q)).length
/-- The core of a list with room and the fewest resident groups, ties to the lower (R17). -/
def State.coreFor (s : State) (cs : List Nat) : Option Nat :=
  (cs.filter fun c => s.freeSlots c != 0).foldl (fun b c =>
    match b with | some d => if (s.core c).slots.length < (s.core d).slots.length then some c else b | none => some c) none
/-- A group put on the lowest free slot of a core, whose tag advances (R17, R88), on a quadrant that holds fewer than its 12 (R14). -/
def State.putGroup (s : State) (c quad : Nat) (g : Group) : State :=
  match (s.core c).lowestSlot with
  | none => s
  | some k =>
    if Config.groupsPerQuad ≤ (s.core c).onQuad quad then s
    else
      let (n, s) := s.fresh
      let now := s.now c
      s.updCore c fun x => { x with
        slots := aset x.slots k { g with quad, alloc := n, lastIssue := now, nextIssue := now, yielded := false, behind := false }
        tags := aset x.tags k ((x.tag k + 1) % 256) }
/-- A group put where R17 places those that are not MATRIX groups. -/
def State.putAnywhere (s : State) (t : Nat) (g : Group) : Option State :=
  (s.coreFor (s.team t).cores).map fun c => s.putGroup c (s.quadFor c) g
/-- The lowest group index at or above the descriptor's count that no live group of the team holds (R304). -/
def State.lateIndex (s : State) (t : Nat) : Nat :=
  let n := (s.kernel t).groups
  let used := (s.groupsOf t).map (·.2.2.index)
  (((List.range 128).map (n + ·)).find? fun i => !used.contains i).getD n

/-- A slot freed: threads of the group that never stored have a digest of 0 (R349). What it has outstanding goes on, and what it
has logged is still performed (R87); its offers to the matrix engine lapse. -/
def State.dropGroup (s : State) (c k : Nat) : State :=
  match s.group? c k with
  | none => s
  | some g =>
    let s := if (s.team g.team).desc.audit then
        s.updTeam g.team fun t => (lanesOf g.born).foldl (fun t i => t.foldT (32 * g.index + i) g.alloc []) t
      else s
    s.updCore c fun x => { x with
      slots := adel x.slots k
      ops := x.ops.filter fun o => !(o.slot == k && o.tag == x.tag k && o.kind == .ready) }
/-- A command that is cancelled (R324): its return still comes, and is dropped (R88). -/
def POp.dropped (o : POp) : POp := { o with kind := .done [], flag := none, vdest := [], sdest := none, killed := [] }
/-- A resident group stopped at once: its commands are cancelled, its logged words go, and its slot's tag advances (R324, R374). -/
def State.stopGroup (s : State) (c k : Nat) : State :=
  let s := s.dropGroup c k
  s.updCore c fun x => { x with
    ops := x.ops.map fun o => if o.slot == k && o.tag == x.tag k then o.dropped else o
    opLog := x.opLog.filter fun e => !(e.slot == k && e.tag == x.tag k)
    tags := aset x.tags k ((x.tag k + 1) % 256) }
/-- What a team holds is freed: its groups, the commands and logged words of groups of it that have exited, way runs, bins,
reservations with their units, its record, and the port entries of commands that are gone (R170, R249, R275, R324). -/
def State.freeTeam (s : State) (t : Nat) : State :=
  let s := (s.groupsOf t).foldl (fun s g => s.stopGroup g.1 g.2.1) s
  let s : State := { s with cores := s.cores.map fun c => (c.1, { c.2 with
    ops := c.2.ops.map fun o => if o.team == t then o.dropped else o, opLog := c.2.opLog.filter (·.team != t)
    runs := c.2.runs.filter (·.1 != t), bins := c.2.bins.filter (·.2.team != t), resv := c.2.resv.filter (·.2.team != t) }) }
  let live (e : Nat × Nat × Nat) : Bool :=
    e.2.2 == 0 || (s.core e.2.1).ops.any fun o => o.id == e.2.2 && (match o.kind with | .fabric _ => true | _ => false)
  { s with
    teams := adel s.teams t
    ports := s.ports.map fun p => (p.1, { p.2 with outstanding := p.2.outstanding.filter live }) }
/-- A team's class-B and class-D twins become class C (R198). -/
def State.unBD (s : State) (t : Nat) : State := s.toC fun _ w => w.team == t && w.cls != .c
/-- The lines a team twinned are published early (R324). -/
def State.publishTeam (s : State) (t : Nat) : State :=
  (s.unBD t).dies.foldl (fun s d => (d.2.twins.filter (·.2.team == t)).foldl (fun s w =>
    (s.publish d.1 w.1 1 0 noSync 0 false).2) s) (s.unBD t)

/-- The bytes of a saved vector register (R377). -/
def Shaped.bytes : Shaped → List Byte
  | .u c => leBytes 4 c.toNat
  | .a b st => leBytes 4 b.toNat ++ leBytes 4 st.toNat
  | .g vs => allLanes.flatMap fun l => leBytes 4 (vs.getD l 0).toNat
/-- The wait state of a thread as saved (R377). -/
def Thread.saveWait (t : Thread) (header : Bool) : Nat :=
  match t.wait with
  | .jarr n => 2 + 16 * n | .waitf _ => 3 | .bar n _ => 4 + 16 * n | .run => if header then 1 else 0 | _ => 0
/-- Numbers below a bound that p holds of, as bits. -/
def bitsOf (n : Nat) (p : Nat → Bool) : Nat := ((List.range n).filter p).foldl (fun m i => m + 2 ^ i) 0
/-- A group with its spilled registers among its registers: a spill changes no value (R81). -/
def Group.whole (g : Group) : Group := { g with regs := g.spilled.foldl (fun l x => aset l x.1 x.2) g.regs, spilled := [] }
/-- A group's save area (R377): `keepS` and `keepV` name the scalars and vectors saved, `hdr` the lanes whose thread waits at a header. -/
def Group.saveBytes (g : Group) (kind rec_ : Nat) (keepS keepV : Nat → Bool) (inCapture : Bool) (hdr : Nat → Bool) : List Byte :=
  let ws := (List.range 384).filter keepS
  let vs := (List.range 320).filter fun r => keepV r && (aget g.regs r).isSome
  let body := (ws.flatMap fun r => leBytes 8 (g.sreg r).toNat) ++ (vs.flatMap fun r => (g.reg r).bytes)
    ++ ((allLanes.filter fun l => (g.thread l).level).flatMap fun l => leBytes 8 (g.thread l).resume)
  let size := (592 + body.length + 63) / 64 * 64
  let fl (f : FlagSt) : Nat := if !f.errs.isEmpty then 2 else if inCapture && f.count != 0 then 1 else 0
  let out := leBytes 8 (size + kind * 2 ^ 32 + rec_ * 2 ^ 40)
    ++ leBytes 8 (g.item + g.index * 2 ^ 32 + g.role * 2 ^ 40 + g.budget * 2 ^ 42)
    ++ leBytes 4 (bitsOf 32 fun l => (g.thread l).wait != .empty)
    ++ leBytes 4 (((List.range 12).map fun i => fl (g.flag i) * 4 ^ i).foldl (· + ·) 0)
    ++ leBytes 8 0
    ++ ((List.range 16).flatMap fun j => leBytes 4 (g.join j).toNat)
    ++ (allLanes.flatMap fun l => leBytes 8 (g.thread l).pc)
    ++ (allLanes.map fun l => BitVec.ofNat 8 (bitsOf 7 fun p => g.pred (BitVec.ofNat 3 p) l))
    ++ (allLanes.flatMap fun l => let t := g.thread l
        leBytes 2 (t.seta + 16 * t.setb + 256 * t.left + (if t.level then 8192 else 0)))
    ++ (allLanes.map fun l => BitVec.ofNat 8 ((g.thread l).saveWait (hdr l)))
    ++ leBytes 4 g.wdBar ++ leBytes 4 g.wdRing ++ leBytes 4 g.wdFe ++ leBytes 20 0
    ++ ((List.range 80).map fun i => BitVec.ofNat 8 (bitsOf 8 fun b =>
        let r := 4 * i + b / 2
        keepV r && (g.code r).testBit (b % 2)))
    ++ body
  out ++ List.replicate (size - out.length) 0

end Sys2Proof.Machine
end

