-- ==== Sys2Proof/Machine/Ops.lean ====
section
/-! DEFINITION. The operations shared by the meanings: fetch through the instruction caches (R177, R178), releases by the
device (R313, R358), taking a trap, with the handler and the containment path (R355 to R371, R373, R374), teardown (R324), and
the issue and completion of class-L words (R84 to R88, R220). -/
namespace Sys2Proof.Machine

/-- A free value used: the next draw differs (log 2). -/
def State.drew (s : State) : State := { s with freeCtr := s.freeCtr + 1 }
/-- The word cannot issue now; its group waits (R80, R238, R332). -/
def State.stalled (s : State) : State := { s with cur := { s.cur with stall := true } }
/-- The agent a thread of the issue is. -/
def State.who (s : State) (lane : Nat) : Who :=
  let g := s.g
  { die := dieOf s.cur.core, core := some s.cur.core, ctx := (s.team g.team).ctx, team := some g.team, thread := 32 * g.index + lane }
/-- The team of the issue. -/
def State.tm (s : State) : Team := s.team s.g.team

/-- A line of an instruction cache found, or put in front of its set, the least recently used unpinned line leaving (R178).
The set is the line's number modulo the number of sets (log 16). -/
def icFind (l : List ICLine) (ctx va : Nat) : Option ICLine := l.find? fun x => x.ctx == ctx && x.va == va
def icPut (l : List ICLine) (sets ways : Nat) (x : ICLine) : List ICLine :=
  let inSet (y : ICLine) : Bool := y.va / 128 % sets == x.va / 128 % sets
  let l := l.filter fun y => !(y.ctx == x.ctx && y.va == x.va)
  let l := if (l.filter inSet).length < ways then l
    else match ((l.filter fun y => inSet y && !y.pin).getLast?) with
      | some v => l.filter fun y => !(y.ctx == v.ctx && y.va == v.va) | none => l
  x :: l
/-- The code line at an address as memory holds it: a fault of the translation or poison, as its cause and words X0 and X1; a
delay, which is waited for under `late`; or the line. -/
def State.codeLine (s : State) (c ctx line : Nat) (late : Bool) : State × Except (Option (Nat × Nat × Nat)) ICLine :=
  let w : Who := { die := dieOf c, core := some c, ctx }
  match s.checkLanes w .fetch 1 1 [(0, (sext57 line).toNat)] noDet with
  | (s, .ok [p]) =>
    if late && (s.inMigration [p] || s.inMove [p]) then (s, .error none)
    else if s.l2Hurt w.die p.cls p.pa 128 then (s, .error (some (0x0E, 4, p.pa)))
    else if s.poisoned p.pa 128 then (s, .error (some (0x14, 5, p.pa)))
    else
      let (ws, fill, s) := (List.range 16).foldl (fun (a : List W64 × Bool × State) i =>
        let (bs, f, s) := a.2.2.loadAt w.die p.cls (p.pa + 8 * i) 8 .n
        (a.1 ++ [BitVec.ofNat 64 (leNat bs)], a.2.1 || f, s)) ([], false, s)
      (if fill then s.countPage w p else s, .ok { ctx, va := line, words := ws })
  | (s, .hard k _ _ wk) => (s, .error (some (causeOf k, if wk then 7 else 3, 0)))
  | (s, _) => (s, .error none)
/-- A code word fetched for a quadrant (R177): its translation is checked each time; the caches answer before memory. -/
def State.fetchAs (s : State) (c quad ctx pc : Nat) (late : Bool) : State × Except (Option (Nat × Nat × Nat)) W64 :=
  let line := pc - pc % 128
  let pick (x : ICLine) : W64 := x.words.getD (pc % 128 / 8) 0
  let w : Who := { die := dieOf c, core := some c, ctx }
  match s.checkLanes w .fetch 1 1 [(0, (sext57 pc).toNat)] noDet with
  | (s, .hard k _ _ wk) => (s, .error (some (causeOf k, if wk then 7 else 3, 0)))
  | (s, .ok ps) =>
    if late && (s.inMigration ps || s.inMove ps) then (s, .error none)
    else
      let k := s.core c
      match icFind (k.l0i.getD quad []) ctx line with
      | some x => (s.updCore c fun k => { k with l0i := lset k.l0i quad fun l => icPut l 32 4 x }, .ok (pick x))
      | none =>
        match icFind k.l1i ctx line with
        | some x =>
          (s.updCore c fun k => { k with l1i := icPut k.l1i 128 8 x, l0i := lset k.l0i quad fun l => icPut l 32 4 { x with pin := false } }, .ok (pick x))
        | none =>
          match s.codeLine c ctx line late with
          | (s, .error e) => (s, .error e)
          | (s, .ok x) =>
            (s.updCore c fun k => { k with l1i := icPut k.l1i 128 8 x, l0i := lset k.l0i quad fun l => icPut l 32 4 x }, .ok (pick x))
  | (s, _) => (s, .error none)
/-- A code word fetched; a delay of the access, which is no fault, answers nothing yet (R278, R287, R362). -/
def State.fetch (s : State) (c quad ctx pc : Nat) : State × Except (Option (Nat × Nat × Nat)) W64 := s.fetchAs c quad ctx pc true
/-- A well-formed clause header (R56, R57). -/
def isHeader (w : W64) : Option Instr :=
  match decode w with | .one (.clauseHeader a b c d) => some (.clauseHeader a b c d) | _ => none

/-- Whether a flag is seen as set in a cycle (R58, R87). -/
def FlagSt.isSet (f : FlagSt) (clk : Nat) : Bool := f.count != 0 || decide (clk < f.clearAt)
/-- A flag set by one more command, or by one fewer in this cycle. -/
def FlagSt.inc (f : FlagSt) : FlagSt := { f with count := f.count + 1 }
def FlagSt.dec (f : FlagSt) (clk : Nat) : FlagSt := { f with count := f.count - 1, clearAt := clk + 1 }
/-- A command of the flag, by its number, faulted in this cycle. -/
def FlagSt.fail (f : FlagSt) (clk id : Nat) (ti : TrapInfo) : FlagSt :=
  { count := f.count - 1, clearAt := clk + 1, errs := f.errs ++ [((clk, id), ti)] }
/-- The fault that a wait which names some flags reports (R366): the first in time; of one cycle, that of the lowest flag, then that
of the command issued first. -/
def State.firstErr (g : Group) (flags : Nat) : Option TrapInfo :=
  let es := ((List.range 12).filter flags.testBit).flatMap fun f => (g.flag f).errs.map fun e => ((e.1.1, f, e.1.2), e.2)
  let before (a b : Nat × Nat × Nat) : Bool :=
    decide (a.1 < b.1) || a.1 == b.1 && (decide (a.2.1 < b.2.1) || a.2.1 == b.2.1 && decide (a.2.2 < b.2.2))
  (es.foldl (fun (m : Option ((Nat × Nat × Nat) × TrapInfo)) e => match m with
    | some u => if before e.1 u.1 then some e else m | none => some e) none).map (·.2)
/-- Whether a thread stands at a header whose WAIT names a set flag (R58, R142). -/
def State.headerWaits (s : State) (core : Nat) (g : Group) (t : Thread) : Bool :=
  t.left == 0 && (match (s.fetch core g.quad (s.team g.team).ctx t.pc).2 with
    | .ok w => (match isHeader w with
      | some (.clauseHeader f _ _ _) => (State.firstErr g f.toNat).isNone && (List.range 12).any fun n => f.getLsbD n && (g.flag n).isSet (s.now core)
      | _ => false)
    | .error _ => false)
/-- The PC at which a thread would issue next, with the words then left in its clause: for a thread at a header whose WAIT is
met, the header's first word (R58); left 0 stands for a word that traps there. None for a thread that is not runnable: one that
sleeps, waits or is under redirection is not among the threads at a PC that share an issue, nor in the mask of its trap (R69;
DESIGN CHOICE, log 64). -/
def State.position (s : State) (core : Nat) (g : Group) (t : Thread) : Option (Nat × Nat) :=
  if t.wait != .run then none
  else if t.left != 0 then some (t.pc, t.left)
  else match (s.fetch core g.quad (s.team g.team).ctx t.pc).2 with
  | .error none => none
  | .error _ => some (t.pc, 0)
  | .ok w =>
    match isHeader w with
    | some (.clauseHeader f _ _ n) =>
      if (State.firstErr g f.toNat).isSome then some (t.pc, 0)
      else if s.headerWaits core g t then none
      else some (pcMod (t.pc + 8), n.toNat)
    | _ => some (t.pc, 0)
/-- A thread that stands at a CPYIN whose ring position is not yet acquired (R241), be it the first word of its clause: its PC, the
threads there, the ring. -/
def State.cpyinWaits (s : State) (core : Nat) (g : Group) : Option (Nat × W32 × Nat) :=
  let at_ (t : Thread) : Option Nat := (s.position core g t).bind fun p => if p.2 == 0 then none else some p.1
  ((g.threads.filterMap at_).eraseDups).findSome? fun pc =>
    match (s.fetch core g.quad (s.team g.team).ctx pc).2 with
    | .ok w =>
      (match decode w with
      | .one (.cpyin c _ _ d) =>
        let m := maskOf fun l => at_ (g.thread l) == some pc && (g.pred c.pg l != c.pn)
        let v := (g.sreg d).toNat
        let r := (s.team g.team).rings.getD (bits v 54 52) {}
        if m != 0 && v.testBit 51 && r.n != 0 && r.p ≤ r.qr then some (pc, m, bits v 54 52) else none
      | _ => none)
    | .error _ => none
/-- The next soft error has struck. -/
def State.tookUpset (s : State) : State := { s with upsets := s.upsets.drop 1 }

/-- A write that the device makes as a release at .sys, of whole aligned 8-byte words: nothing when a check of R223 fails. A
release of a thread's own (`own`) sends all that its die holds (R201). -/
def State.sysWrite (s : State) (w : Who) (launch va : Nat) (bs : List Byte) (own : Bool) : Option State :=
  let n := bs.length / 8
  match s.checkDev w .store 8 8 ((List.range n).map fun i => (i, (va + 8 * i) % 2 ^ 64)) with
  | (s, .ok ps) =>
    let s := s.releaseNow w.die launch ((ps.take 1).map (·.pa)) own
    some (ps.foldl (fun s p =>
      let b := (bs.drop (8 * p.lane)).take 8
      if p.cls == 3 then s.store w p b .n else (s.noteStore w.own p.pa 8).homeStore w.die p.pa b) s)
  | (_, _) => none
/-- A message-signalled interrupt, if the context enables the source: 0 HCALL, 1 trap record, 2 teardown, 3 migration (R385). -/
def State.sendMsi (s : State) (ctx source : Nat) : State :=
  let c := s.ctx ctx
  if c.intData.getLsbD (32 + source) then
    { s with msis := s.msis ++ [{ addr := c.intAddr, data := c.intData.setWidth 32, source }] }
  else s
/-- What the device has to write of its own stands back behind what is delayed (R278, R287), in order (DESIGN CHOICE, log 93). -/
def State.putOff (s : State) (l : Later) : State := { s with later := s.later ++ [l] }
/-- An interrupt, after what it tells of. -/
def State.msi (s : State) (ctx source : Nat) : State := if s.later.isEmpty then s.sendMsi ctx source else s.putOff (.msi ctx source)

/-- The slot of a context's next trap record (R358). -/
def State.trapSlot (s : State) (ctx : Nat) : Nat := (s.ctx ctx).word 2 + 64 * ((s.ctx ctx).tqprod.toNat % 4096)
/-- A record's 64 bytes written at the context's trap queue, then TQPROD; or TQLOST (R358). -/
def State.writeRecord (s : State) (w : Who) (launch : Nat) (bs : List Byte) : State :=
  let x := s.ctx w.ctx
  let lost (s : State) : State := s.updCtx w.ctx fun x => { x with tqlost := if x.tqlost == 0xFFFFFFFF#32 then x.tqlost else x.tqlost + 1 }
  if x.tqprod - x.tqcons == 4096#32 || x.word 2 == 0 then lost s
  else
    match s.sysWrite w launch (s.trapSlot w.ctx) bs true with
    | some s => (s.updCtx w.ctx fun x => { x with tqprod := x.tqprod + 1 }).sendMsi w.ctx 1
    | none => lost s
/-- The device as it writes of its own on a die for a context. -/
def deviceOn (die ctx : Nat) : Who := { die, ctx, own := true }
/-- A trap record posted by a die for a context and a launch: at once, unless its slot is delayed, or another such write is. -/
def State.postRecord (s : State) (die ctx launch : Nat) (bs : List Byte) : State :=
  if !s.later.isEmpty || s.late (deviceOn die ctx) .store (s.trapSlot ctx) 64 then s.putOff (.record die ctx launch bs)
  else s.writeRecord (deviceOn die ctx) launch bs
/-- The bytes of a record (R356). -/
def recordBytes (time : W64) (seq : BitVec 32) (cause flags core phys pc lanes group queue va team ctx x0 x1 : Nat) : List Byte :=
  leBytes 8 time.toNat ++ leBytes 4 seq.toNat ++ leBytes 1 cause ++ leBytes 1 flags ++ leBytes 2 (core % 256 + 256 * phys)
    ++ leBytes 8 (pcMod pc) ++ leBytes 4 lanes ++ leBytes 2 group ++ leBytes 2 queue ++ leBytes 8 va ++ leBytes 4 team
    ++ leBytes 4 ctx ++ leBytes 8 x0 ++ leBytes 8 x1
/-- A trap record (R356, R358): 64 bytes at the context's trap queue, then TQPROD; or TQLOST. -/
def State.record (s : State) (c k : Nat) (ti : TrapInfo) (flags capid : Nat) : State :=
  let g := s.group c k
  let t := s.team g.team
  let p := s.physOf c
  let seq := (s.pcore p).seq
  let s := s.updPcore p fun x => { x with seq := x.seq + 1 }
  let fl := flags + (if ti.logged then 4 else 0) + (if ti.exited then 8 else 0)
  let bs := recordBytes s.time seq ti.cause fl c (s.phys c) ti.pc ti.lanes.toNat (g.index % 256 + 256 * k) t.queue ti.va t.index
    (t.ctx + 256 * capid) ti.x0.toNat ti.x1.toNat
  s.postRecord (dieOf c) t.ctx t.launch bs

/-- The command processor of a queue's home die (R412). -/
def State.cp (s : State) (q : Nat) : Who := { die := q / 256, ctx := bits (s.queue q).cfg.toNat 15 8 }
/-- The status block's address (R308). -/
def Queue.statVa (q : Queue) : Nat := (sext57 (bits q.stat.toNat 56 6 * 64)).toNat
/-- Words of a status block written, where they can be (R313). -/
def State.writeStat (s : State) (w : Who) (va : Nat) (words : List (Nat × Nat)) : State :=
  words.foldl (fun s x => (s.sysWrite w 0 (va + 8 * x.1) (leBytes 8 x.2) false).getD s) s
/-- Words of a queue's status block: at once, unless the block is delayed, or another such write is (R278, R287, R313). -/
def State.statWrite (s : State) (q : Nat) (words : List (Nat × Nat)) : State :=
  let w : Who := { s.cp q with own := true }
  let va := (s.queue q).statVa
  if !s.later.isEmpty || s.late w .store va 64 then s.putOff (.stat w.die w.ctx va words) else s.writeStat w va words
/-- The first of what was put off, once its access is not delayed (R278, R287). -/
def State.catchUp (s : State) : State :=
  match s.later with
  | [] => s
  | x :: r =>
    let t : State := { s with later := r }
    match x with
    | .record die ctx launch bs => if s.late (deviceOn die ctx) .store (s.trapSlot ctx) 64 then s else t.writeRecord (deviceOn die ctx) launch bs
    | .stat die ctx va words => if s.late (deviceOn die ctx) .store va 64 then s else t.writeStat (deviceOn die ctx) va words
    | .msi ctx source => t.sendMsi ctx source
/-- Whether something put off is still to be written for a context. -/
def Later.isOf (l : Later) (ctx : Nat) : Bool := match l with | .record _ c .. => c == ctx | .stat _ c .. => c == ctx | .msi c _ => c == ctx
/-- DONE with the leading commands that are complete; word 0 is written as it advances (R313). -/
def State.advanceDone (s : State) (q : Nat) : State :=
  let x := s.queue q
  let lead := (x.cmds.takeWhile (·.complete)).length
  if lead == 0 then s
  else
    let done := x.done + BitVec.ofNat 32 lead
    (s.updQueue q fun x => { x with done, cmds := x.cmds.drop lead }).statWrite q [(0, done.toNat)]

/-- A class-D twin of a line that a DETERMINISTIC launch has changed, unless it is another launch's: what retired teams have left
is among them (R185, R283). -/
def State.leftDet (s : State) (l line : Nat) (w : Twin) : Bool :=
  let r := s.launchRec l
  r.desc.det && w.cls == .d && (r.own.any (·.1 == line) || r.merged.contains line) && s.teams.all fun t => t.1 != w.team || t.2.launch == l
/-- Those twins are the launch's no more: they become class C, and their lines are published early (R198, R324). -/
def State.publishDet (s : State) (l : Nat) : State :=
  if !(s.launchRec l).desc.det then s
  else
    let ws := s.dies.flatMap fun d => (d.2.twins.filter fun w => s.leftDet l w.1 w.2).map fun w => (d.1, w.1)
    ws.foldl (fun s w => (s.publish w.1 w.2 1 0 noSync 0 false).2) (s.toC (s.leftDet l))
/-- What a launch leaves when its teams stop: its twins published, its teams and audits gone, its templates dropped (R324). -/
def State.stopLaunch (s : State) (l : Nat) : State :=
  let ts := (s.teams.filter (·.2.launch == l)).map (·.1)
  let s := (ts.foldl State.publishTeam s).publishDet l
  let s := ts.foldl State.freeTeam s
  let s : State := { s with
    launches := adel s.launches l
    audits := s.audits.filter (·.launch != l)
    tmpls := s.tmpls.map fun t => if t.2.launch == l then (t.1, { t.2 with dropped := true, ahold := false }) else t }
  s.sweep
/-- A message that a team has ended sent through a port, if the port is up and has an entry for it: it keeps the entry until it is acknowledged
(R307, R322, R389). -/
def State.reportEnd (s : State) (p o i : Nat) : Option State :=
  if !(s.port p).up || decide (Config.portEntries ≤ (s.port p).outstanding.length) then none
  else some { s.updPort p fun x => { x with outstanding := x.outstanding ++ [(s.serial, 0, 0)], out := x.out ++ [.teamend s.serial o i] } with
    serial := s.serial + 1 }
/-- The team of a launch received from another package reported ended to its origin (R275, R322, R389), as soon as the port has an
entry for the message (R307). -/
def State.sayEnded (s : State) (l : Nat) : State :=
  match (s.launchRec l).foreign with
  | some (p, o, i) => (s.reportEnd p o i).getD (s.updPort p fun x => { x with ends := x.ends ++ [(o, i)] })
  | none => s
/-- The first report that waits at a port sent, when an entry is free (R307). -/
def State.sendEnd (s : State) (p : Nat) : State :=
  match (s.port p).ends with
  | [] => s
  | e :: r => ((s.updPort p fun x => { x with ends := r }).reportEnd p e.1 e.2).getD s

/-- A capture of a trapping group in full, without scratchpad, under an identity (R371): what is owed is undefined (log 2). -/
def State.capture (s : State) (c k capid : Nat) : State :=
  let g := (s.group c k).whole
  let ov := (s.core c).owedV k
  let os := (s.core c).owedS k
  let g : Group := { g with
    regs := g.regs.map fun r => if ov.contains r.1 then (r.1, match r.2 with
      | .u _ => .u (s.freeW (32 * r.1)) | .a .. => .a (s.freeW (32 * r.1)) (s.freeW (32 * r.1 + 1))
      | .g _ => gOf fun l => s.freeW (32 * r.1 + l)) else r
    sregs := os.foldl (fun l r => aset l r (s.freeW (20000 + 2 * r) ++ s.freeW (20001 + 2 * r))) g.sregs }
  let t := s.team g.team
  { s.drew with
    caps := s.caps ++ [{ capid, queue := t.queue, ctx := t.ctx
                         bytes := g.saveBytes 1 0 (fun _ => true) (fun _ => true) true fun l => s.headerWaits c g (g.thread l) }] }
/-- The traps that stop a queue, or a launch received from another package, whose teardown has not come yet, with their launches (R370). -/
def State.doomsWith (s : State) (l : Nat) : List (Nat × Doom) :=
  let r := s.launchRec l
  let same (x : Nat × Launch) : Bool := if r.foreign.isSome then x.1 == l else x.2.foreign.isNone && x.2.queue == r.queue
  (s.launches.filter same).flatMap fun x => x.2.dooms.map fun d => (x.1, d)
def State.doomsOf (s : State) (q : Nat) : List (Nat × Doom) :=
  (s.launches.filter fun x => x.2.foreign.isNone && x.2.queue == q).flatMap fun x => x.2.dooms.map fun d => (x.1, d)
/-- The trap that was recorded first of some (R409): its identity is the lowest, and those that have none came after sixteen others. -/
def firstDoom (l : List (Nat × Doom)) : Option (Nat × Doom) :=
  ((l.filter (·.2.capid != 0)).foldl (fun m d => match m with | some u => if d.2.capid < u.2.capid then some d else m | none => some d) none).orElse
    fun _ => l.head?
/-- Their captures taken, of the groups that are still there (R371). -/
def State.takeCaps (s : State) (l : List (Nat × Doom)) : State :=
  l.foldl (fun s d =>
    if d.2.capid != 0 && (s.group? d.2.core d.2.slot).any (·.alloc == d.2.alloc) then s.capture d.2.core d.2.slot d.2.capid else s) s
/-- The code of a teardown that a trap brings (R370). -/
def trapCode (cause : Nat) : Nat := if cause == 0x0C || cause == 0x0D then 8 else 6
/-- The TAG of a launch's command. -/
def State.tagOf (s : State) (l : Nat) : Nat :=
  let r := s.launchRec l
  (((s.queue r.queue).cmds.find? (·.index == r.cmd)).map (·.tag)).getD 0
/-- Teardown of a queue with a code, the failing command's index and TAG, and the trap cause (R324); those of the first trap that was
to bring it, where there is one (R370, R409), whose captures are taken before the teams stop (R371). -/
def State.teardown (s : State) (q code idx tag cause : Nat) : State :=
  let x := s.queue q
  if x.st != .running && x.st != .draining then s
  else
    let ds := s.doomsOf q
    let (code, idx, tag, cause) := match firstDoom ds with
      | some d => (trapCode d.2.cause, (s.launchRec d.1).cmd, s.tagOf d.1, d.2.cause) | none => (code, idx, tag, cause)
    let s := (s.takeCaps ds).updQueue q fun x => { x with cmds := [] }
    let s := ((s.launches.filter fun l => l.2.queue == q && l.2.foreign.isNone).map (·.1)).foldl State.stopLaunch s
    let s := s.statWrite q [(0, x.done.toNat + 2 ^ 32), (1, code), (2, idx), (3, tag), (4, cause), (5, s.time.toNat)]
    let ctx := (s.cp q).ctx
    (s.updQueue q fun x => { x with st := .torn, cfg := x.cfg &&& ~~~0x80000000#64 }).msi ctx 2
/-- Teardown of the queue of a launch's command. -/
def State.teardownLaunch (s : State) (l code cause : Nat) : State :=
  let r := s.launchRec l
  match r.foreign with
  | some _ => ((s.takeCaps (s.doomsWith l)).sayEnded l).stopLaunch l
  | none => s.teardown r.queue code r.cmd (s.tagOf l) cause

/-- The key under which a launch keeps the rollbacks of a team: its index, or beyond all indices for its prologue team. -/
def rollKey (prologue : Bool) (index : Nat) : Nat := if prologue then 2 ^ 32 else index
/-- A team that comes to wait in its launch record from now on, by its key: it has asked for nothing yet (R318). -/
def Launch.waits (l : Launch) (key : Nat × Nat) (now : Nat) : Launch :=
  { l with since := (key, now) :: l.since.filter (·.1 != key), asked := l.asked.filter (· != key) }
/-- A team rolled back (R374): its lines restored from their class-B twins, its resources freed, and its place at the front
of its launch record, away from the cluster where it failed. A prologue team is admitted again of itself (R289), though its
prologue group had ended without a FREEZE. -/
def State.rollback (s : State) (t : Nat) : State :=
  let tm := s.team t
  let key := rollKey tm.prologue tm.index
  let s := s.dies.foldl (fun s d => (d.2.twins.filter fun w => w.2.team == t && w.2.cls == .b).foldl (fun s w =>
    (((s.cacheTwin d.1 w.1).putLine d.1 w.1 w.2).freeTwin d.1 w.1).l1Drop d.1 w.1 none) s) s
  let s := (s.freeTeam t).sweep
  s.updLaunch tm.launch fun l => { l.waits (if tm.prologue then (0, 0) else (1, tm.index)) s.time.toNat with
    todo := if tm.prologue then l.todo else (tm.rank, tm.index) :: l.todo
    prologue := if tm.prologue && l.prologue == .failed then .running else l.prologue
    rolls := aset l.rolls key (tm.rollbacks + 1)
    avoids := (key, (tm.cores.headD 0) / 4) :: l.avoids }
/-- A team that runs again for an audit stops at a trap, which counts as a mismatch: nothing is recorded (R350, log 73). -/
def State.stopRerun (s : State) (t : Nat) : State :=
  let s := (s.groupsOf t).foldl (fun s g => s.stopGroup g.1 g.2.1) s
  let s : State := { s with cores := s.cores.map fun c => (c.1, { c.2 with
    ops := c.2.ops.map fun o => if o.team == t then { o.dropped with team := 0 } else o, opLog := c.2.opLog.filter (·.team != t)
    bins := c.2.bins.filter (·.2.team != t) }) }
  s.updTeam t fun m => { m with owed := [], rerun := m.rerun.map fun r => { r with trapped := true } }

/-- The cause that counts for rollback: an ASYNCFAULT's own underlying UCE or POISON (R366). -/
def TrapInfo.rootCause (ti : TrapInfo) : Nat := if ti.cause == 0x0A then bits ti.x0.toNat 7 0 else ti.cause
def TrapInfo.rolls (ti : TrapInfo) : Bool :=
  ti.rootCause == 0x0E || ti.rootCause == 0x14 || (ti.cause == 0x0F && ti.x0 != 1)
/-- The identity of the capture of a group that traps: the one it has, else the next, while fewer than 16 of the teardown are given; 0
stands for none (R371, R409). -/
def State.giveCap (s : State) (ds : List (Nat × Doom)) (c k : Nat) : Nat × State :=
  match ds.find? fun d => d.2.core == c && d.2.slot == k && d.2.alloc == (s.group c k).alloc with
  | some d => (d.2.capid, s)
  | none => if (ds.filter (·.2.capid != 0)).length < 16 then (s.nextCap, { s with nextCap := s.nextCap + 1 }) else (0, s)
/-- A trap that stops a queue recorded with the identity of its capture (R356, R409); what its teardown has then to do (R370). -/
def State.recordDoom (s : State) (ds : List (Nat × Doom)) (c k : Nat) (ti : TrapInfo) : List (Nat × Doom) × State :=
  let g := s.group c k
  let (id, s) := s.giveCap ds c k
  let known := ds.any fun d => d.2.core == c && d.2.slot == k && d.2.alloc == g.alloc
  let s := s.record c k ti (if id == 0 then 0 else 16) id
  (if known then ds else ds ++ [((s.team g.team).launch, { core := c, slot := k, alloc := g.alloc, capid := id, cause := ti.cause })], s)
/-- The containment path for the groups of one team or queue that trap together (R370, R371, R409): records, then rollback, or
captures and the teardown of the queue. No team is rolled back whose queue a trap already stops (DESIGN CHOICE, log 94). -/
def State.contain (s : State) (l : List (Nat × Nat × TrapInfo)) : State :=
  match l with
  | [] => s
  | (c, k, ti) :: _ =>
    let t := (s.group c k).team
    let launch := (s.team t).launch
    let ds := s.doomsWith launch
    if (s.team t).rerun.isSome then s.stopRerun t
    else if ti.rolls && (s.team t).rollOk && ds.isEmpty then
      (l.foldl (fun s x => s.record x.1 x.2.1 x.2.2 0 0) s).rollback t
    else
      let (all, s) := l.foldl (fun (a : List (Nat × Doom) × State) x => a.2.recordDoom a.1 x.1 x.2.1 x.2.2) (ds, s)
      (s.takeCaps (all.drop ds.length)).teardownLaunch launch (trapCode ti.cause) ti.cause

/-- Whether the device trap handler may be entered (R367). -/
def State.handlerPc (s : State) (c k : Nat) (lanes : W32) : Option (Nat × State) :=
  let g := s.group c k
  let t := s.team g.team
  let h := (s.ctx t.ctx).word 3
  if h == 0 || (lanesOf lanes).any (fun l => (g.thread l).level) || g.budget < 2 || h % 8 != 0 || !canonical h then none
  else match s.fetchAs c g.quad t.ctx (pcMod h) false with
    | (s, .ok w) => (isHeader w).map fun _ => (pcMod h, s)
    | (_, .error _) => none
/-- A trap in a team ends its pre-emption (R375). -/
def State.endPreempt (s : State) (t : Nat) : State :=
  if (s.team t).preempt.isNone then s
  else (s.groupsOf t).foldl (fun s x => s.updGroup x.1 x.2.1 fun g => { g with saved := false, saveRec := none })
    (s.updTeam t fun m => { m with preempt := none })
/-- A spilled register back among a group's registers. -/
def Group.unspill (g : Group) (r : Nat) : Group :=
  match aget g.spilled r with | some v => { g with regs := aset g.regs r v, spilled := adel g.spilled r } | none => g
/-- A register written over what is still on its way to it, results of class-L commands and of logged words too, in the lanes of a
mask: as a word issued later (R85). A spilled one comes back first (R81), though the store be full (DESIGN CHOICE, log 95). -/
def State.writeOver (s : State) (c k r : Nat) (m : W32) (v : Shaped) : State :=
  let w : Wb := .vec r m v 0
  let less (l : List Wb) : List Wb := l.filterMap (Wb.trim · w)
  let ops (x : Core) (o : POp) : POp :=
    if o.slot == k && o.tag == x.tag k then
      (match o.kind with | .done l => { o with kind := .done (less l) } | .stamp n l => { o with kind := .stamp n (less l) } | _ => o) else o
  let log (x : Core) (e : LogEntry) : LogEntry :=
    if e.slot == k && e.tag == x.tag k && e.owes.any (·.1 == r) then { e with lost := (r, m) :: e.lost } else e
  (s.updCore c fun x => { x with ops := x.ops.map (ops x), opLog := x.opLog.map (log x) }).updGroup c k fun g => (g.unspill r).land w
/-- TAKING A TRAP (R355, R361, R367, R369, R370): the handler entered for a recoverable cause where R367 allows; a BKPT without
one halts its team; everything else is contained. Of the word itself nothing has been done. -/
def State.trap (s : State) (c k : Nat) (ti : TrapInfo) : State :=
  let s := s.endPreempt (s.group c k).team
  let g := s.group c k
  let recoverable := (ti.cause == 0x0B || ti.cause == 0x12 || ti.cause == 0x13) && (s.team g.team).rerun.isNone
  match if recoverable then s.handlerPc c k ti.lanes else none with
  | some (h, s) =>
    let s := s.record c k ti 1 0
    let p := 2 * (g.budget / 2) - 2
    let link (l : Nat) : W64 := 1#1 ++ BitVec.ofNat 6 ti.cause ++ BitVec.ofNat 57 ((g.thread l).pc + 8)
    let s := s.writeOver c k p ti.lanes (gOf fun l => (link l).setWidth 32)
    let s := s.writeOver c k (p + 1) ti.lanes (gOf fun l => (link l).extractLsb' 32 32)
    s.updGroup c k fun g =>
      g.updThreads ti.lanes fun t =>
        let n := t.past
        { n with level := true, resume := n.pc, rseta := n.seta, rsetb := n.setb, rleft := n.left,
                 pc := h, left := 0, wait := .redir (s.now c + 3) }
  | none =>
    if ti.cause == 0x13 && (s.team g.team).rerun.isNone && !(lanesOf ti.lanes).any (fun l => (g.thread l).level) then
      let s := s.record c k ti 2 0
      (s.updGroup c k fun g => g.updThreads ti.lanes Thread.past).updTeam g.team fun t => { t with halted := true }
    else s.contain [(c, k, ti)]
/-- Whether threads of a group go on as some of its lanes trap at a transfer that fails (R61); a run for an audit stops as a whole (R350). -/
def State.goesOn (s : State) (c k : Nat) (lanes : W32) : Bool :=
  let g := s.group c k
  let runs (i : Nat) : Bool := let w := (g.thread i).wait; w != .empty && w != .trapped && !lanes.getLsbD i
  allLanes.any runs && (s.team g.team).rerun.isNone && (aget s.launches (s.team g.team).launch).isSome
/-- A trap of a group recorded, whose teardown comes later (R370). -/
def State.dooms (s : State) (c k : Nat) (ti : TrapInfo) : State :=
  let l := (s.team (s.group c k).team).launch
  let ds := s.doomsWith l
  let (all, s) := s.recordDoom ds c k ti
  s.updLaunch l fun r => { r with dooms := r.dooms ++ (all.drop ds.length).map (·.2) }
/-- A trap of some of a group's threads while others go on unaffected (R61, R137): it is recorded, its threads run no more, and the
teardown that it brings comes later (R370). -/
def State.partTrap (s : State) (c k : Nat) (ti : TrapInfo) : State :=
  ((s.endPreempt (s.group c k).team).dooms c k ti).updGroup c k fun g => g.updThreads ti.lanes fun t => { t with wait := .trapped }
/-- The teardown that such traps bring (R370). -/
def State.endDoomed (s : State) (l : Nat) : State :=
  match firstDoom (s.doomsWith l) with
  | some d => if (aget s.launches l).isNone then s else s.teardownLaunch l (trapCode d.2.cause) d.2.cause
  | none => s
/-- A trap of the word that issues. What the replay of a logged word finds is noted, and taken when its group has its registers
again (R365, R371). -/
def State.wordTrap (s : State) (ti : TrapInfo) : State :=
  if s.cur.replay then { s with cur := { s.cur with trap := some ti } } else s.trap s.cur.core s.cur.slot ti
/-- How that word's trap is described. -/
def State.trapOf (s : State) (cause : Nat) (lanes : W32) (va x0 x1 : Nat) : TrapInfo :=
  { cause, pc := s.cur.pc, lanes, va, x0 := BitVec.ofNat 64 x0, x1 := BitVec.ofNat 64 x1, logged := s.cur.replay }
def State.trapW (s : State) (cause : Nat) (lanes : W32) (va x0 x1 : Nat) : State := s.wordTrap (s.trapOf cause lanes va x0 x1)
/-- RETURN FROM THE HANDLER (R368): the thread goes on at its resume address with its saved clause position. -/
def Thread.resumeAt (t : Thread) (clk : Nat) : Thread :=
  { t with pc := t.resume, seta := t.rseta, setb := t.rsetb, left := t.rleft, level := false, wait := .redir clk }
/-- Whether a target is a thread's handler link (R368). -/
def Thread.isReturn (t : Thread) (target : W64) : Bool :=
  !canonical target.toNat && target.msb && t.level && target.toNat % 2 ^ 57 == t.resume

/-- The flag a class-L word of this issue selects (R49). -/
def State.flagOf (s : State) (c : Ctl) : Option Nat :=
  let t := s.g.thread (firstLane s.cur.mask)
  let f := if c.fb then t.setb else t.seta
  if f < 12 then some f else none
/-- A class-L word issued (R86, R87, R220): its command enters the core's list, its registers become pending, its flag is set.
With no active lane its flag alone is set, for the issue cycle. -/
def State.pushOp (s : State) (i : Instr) (act : W32) (kind : OpKind) : State :=
  match i.tab with
  | none => s
  | some t =>
    let fl := s.flagOf t.ctl
    let c := s.cur.core
    if act == 0 then
      match fl with
      | some f => s.updG fun g => { g with flags := vset 12 {} g.flags f fun x => { x with clearAt := max x.clearAt (s.now c + 1) } }
      | none => s
    else
      let (id, s) := s.fresh
      let g := s.g
      let tm := s.team g.team
      let op : POp := { id, slot := s.cur.slot, tag := (s.core c).tag s.cur.slot, pc := s.cur.pc, lanes := act,
                        flag := fl, vdest := t.vwrites, sdest := t.swrites.head?, team := g.team, ctx := tm.ctx,
                        launch := tm.launch, thread := 32 * g.index + firstLane act, kind }
      let s := s.updCore c fun x => { x with ops := x.ops ++ [op] }
      match fl with
      | some f => if s.cur.replay then s else s.updG fun g => { g with flags := vset 12 {} g.flags f FlagSt.inc }
      | none => s
/-- A class-L word whose active threads wait at it until it completes (R227, R233, R329); the registers it kills are kept for a
withdrawal (R376). -/
def State.pushWait (s : State) (i : Instr) (act : W32) (kind : OpKind) : State :=
  let id := s.serial
  let g := s.g
  let kd := ((i.tab.map OpTab.killed).getD []).filterMap fun r => (aget g.regs r).map fun v => (r, v)
  let s := s.pushOp i act kind
  let s := s.updCore s.cur.core fun x => { x with ops := x.ops.map fun o => if o.id == id then { o with killed := kd } else o }
  (s.finish i).updG fun g => g.updThreads act fun t => { t with pc := s.cur.pc, wait := .op id }
/-- The threads that wait for a command leave for the next word. -/
def Group.wake (g : Group) (id : Nat) : Group :=
  g.updThreads (maskOf fun l => (g.thread l).wait == .op id) fun t => { t with pc := pcMod (t.pc + 8), wait := .run }
/-- An outstanding command of a core, by its number; changed; removed. -/
def State.op? (s : State) (c id : Nat) : Option POp := (s.core c).ops.find? (·.id == id)
def State.updOp (s : State) (c id : Nat) (f : POp → POp) : State :=
  s.updCore c fun x => { x with ops := x.ops.map fun o => if o.id == id then f o else o }
def State.delOp (s : State) (c id : Nat) : State := s.updCore c fun x => { x with ops := x.ops.filter (·.id != id) }
/-- Whether a command's group still holds its slot (R88). -/
def State.live (s : State) (c : Nat) (o : POp) : Bool :=
  (s.group? c o.slot).isSome && (s.core c).tag o.slot == o.tag
/-- A command completes (R86 to R88): its results are written, its registers are no longer pending, its flag counts one less;
or, when its group has gone, its return is dropped and counted. -/
def State.complete (s : State) (c : Nat) (o : POp) (wbs : List Wb) : State :=
  let s := s.delOp c o.id
  if s.live c o then
    s.updGroup c o.slot fun g =>
      let g := wbs.foldl Group.land g
      match o.flag with | some f => { g with flags := vset 12 {} g.flags f (FlagSt.dec · (s.now c)) } | none => g
  else s.countCore c 0x100
/-- A command that completes in its issue cycle (R300, R325). -/
def State.atOnce (s : State) (i : Instr) (act : W32) (wbs : List Wb) : State :=
  let id := s.serial
  let s := (s.pushOp i act (.done wbs)).finish i
  match s.op? s.cur.core id with | some o => s.complete s.cur.core o wbs | none => s
/-- A command faults hard (R87, R366): its flag takes the error state. -/
def State.opFault (s : State) (c : Nat) (o : POp) (ti : TrapInfo) : State :=
  let s := s.delOp c o.id
  if s.live c o then
    s.updGroup c o.slot fun g =>
      match o.flag with
      | some f => { g with flags := vset 12 {} g.flags f fun x => x.fail (s.now c) o.id ti }
      | none => g
  else s.countCore c 0x100
/-- The agent an outstanding command acts as: an engine of its core, whose rows use the walk-ahead TLB (R169, R207, R238, R272). -/
def POp.who (o : POp) (c : Nat) : Who :=
  { die := dieOf c, core := some c, ahead := true, ctx := o.ctx, team := some o.team, thread := o.thread, engine := true }
/-- The team's first core, where its reservations, rings and barriers are (R248, R326). -/
def Team.first (t : Team) : Nat := t.cores.headD 0
/-- A reservation record of a core; its USERS changed (R248). -/
def State.resv? (s : State) (c r : Nat) : Option Resv := aget (s.core c).resv r
def State.updResv (s : State) (c r : Nat) (f : Resv → Resv) : State :=
  match s.resv? c r with | some x => s.updCore c fun k => { k with resv := aset k.resv r (f x) } | none => s
/-- Operand-buffer bytes of a reservation, read; written, its units tagged with the context (R176). -/
def State.obRd (s : State) (c : Nat) (v : Resv) (off n : Nat) : List Byte := memRd (s.core c).ob (256 * v.base + off) n
def State.obWr (s : State) (c ctx : Nat) (v : Resv) (off : Nat) (bs : List Byte) : State :=
  let a := 256 * v.base + off
  s.updCore c fun k => { k with
    ob := memWr k.ob a bs, obPoison := healIn k.obPoison a bs.length
    obCtx := (List.range ((a % 256 + bs.length + 255) / 256)).foldl (fun l u => aset l (a / 256 + u) ctx) k.obCtx }
/-- Whether bytes of a reservation hold an uncorrectable error (R188). -/
def State.obHurt (s : State) (c : Nat) (v : Resv) (off n : Nat) : Bool := hurtIn (s.core c).obPoison (256 * v.base + off) n
/-- The expected phase of a count (R329), and a ring position published in its turn. -/
def Ring.phaseOf (r : Ring) (x : Nat) : Bool := decide (x / r.n % 2 = 1)
def Ring.publish (r : Ring) (pos : Nat) : Ring := { r with filled := lset r.filled (pos % r.n) fun _ => true, q := r.q + 1 }
def State.ring (s : State) (t i : Nat) : Ring := (s.team t).rings.getD i {}
def State.updRing (s : State) (t i : Nat) (f : Ring → Ring) : State := s.updTeam t fun t => { t with rings := lset t.rings i f }
/-- The results of a vector, pair or quad destination, written when the command completes (R225). -/
def wbVec (d : Opnd) (m : W32) (n : Nat) (val : Nat → Nat → W32) (u : Bool) : List Wb :=
  match d with
  | .v r => (List.range n).filterMap fun i => vecWb (.v (r + i)) m (fun l => val l i) (if u then some (.u (val 0 i)) else none) 0
  | .s r => [.sca r ((val (firstLane m) 0).setWidth 64) 0]
  | _ => []
/-- A result given once to a vector register in the active lanes, or to a scalar (R325). -/
def wbOne (d : Opnd) (m : W32) (v : W32) : List Wb := wbVec d m 1 (fun _ _ => v) true
/-- The word that issues enters the operand log with its source values, and the group goes on (R363). At a full log it stops its
group instead, and will be performed without entering the log (R364). -/
def State.logWord (s : State) (i : Instr) : State :=
  let k := s.core s.cur.core
  let at_ := (s.cur.pc, (s.g.thread (firstLane s.cur.mask)).left)
  if s.g.stop.isSome then s.stalled
  else if Config.opLogEntries ≤ k.opLog.length then
    { s.updG fun g => { g with stop := some at_ } with cur := { s.cur with hold := true } }
  else
    let le : LogEntry := { slot := s.cur.slot, tag := k.tag s.cur.slot, team := s.g.team, instr := i, cur := s.cur, group := s.g }
    let s := s.updCore s.cur.core fun x => { x with opLog := x.opLog ++ [le] }
    let s := match i.tab.bind fun t => s.flagOf t.ctl with
      | some f => if s.cur.replay then s else s.updG fun g => { g with flags := vset 12 {} g.flags f FlagSt.inc }
      | none => s
    s.finish i
/-- A word whose access meets a soft fault that clears of itself (R362): logged; where it stops its group at a full log, or finds it
stopped, the fault has cleared by the word's next issue (R364). -/
def State.softWord (s : State) (i : Instr) : State :=
  let t := ({ s with cur := { s.cur with soft := false } } : State).logWord i
  if t.cur.stall || t.cur.hold then { t.tookUpset with cur := { t.cur with stall := false, hold := true } } else t
/-- The checks of an access by the word that issues: `k` receives the state and the lanes' spots; a hard fault traps (R361); a
soft fault enters the word into the operand log (R362, R363). -/
def State.access (s : State) (i : Instr) (act : W32) (kind : AccKind) (align size : Nat) (l : List (Nat × Nat))
    (det : List Nat → Nat → Bool) (reason : List Nat → Nat → Nat) (k : State → List Spot → State) : State :=
  let w := s.who (firstLane act)
  match s.checkAll w kind align size l det with
  | (s, .hard c m va wk) =>
    if c == 6 then
      let at_ (v : Nat) : Option Nat := match s.walkCtx w.ctx v with | .ok e => some (e.ppn + v % 2 ^ e.bits) | _ => none
      let before := ((l.takeWhile fun q => q.1 != firstLane m).map (·.2)).filterMap at_
      s.trapW 0x11 m va (((at_ va).map (reason before)).getD 0) 0
    else s.trapW (causeOf c) m va (if wk then 7 else kind.code) 0
  | (s, .wait) => s.stalled
  | (s, .soft) => s.logWord i
  | (s, .ok ps) => if s.cur.soft then s.softWord i else k s ps
/-- Uncorrectable data met by an access, found on the data returned and taken at the word (R188, R365): in the L2 that serves it, the
home's for what is performed there, in HBM, or under a poisoned entry of the ownership table. -/
def State.poisonTrap (s : State) (act : W32) (ps : List Spot) (n : Nat) (home : Bool := false) : Option State :=
  let l2 (p : Spot) : Bool :=
    if home && p.cls != 3 then s.homeHurt (s.who p.lane).die p.pa n else s.l2Hurt (s.who p.lane).die p.cls p.pa n
  let own (p : Spot) : Bool := s.detPoison (s.who p.lane) p.pa
  match ps.find? fun p => l2 p || s.poisoned p.pa n || own p with
  | some p =>
    some (s.wordTrap
      { cause := if l2 p && !own p then 0x0E else 0x14, pc := s.cur.pc, lanes := act, va := p.va
        x0 := if own p then 7 else if l2 p then 4 else 5, x1 := BitVec.ofNat 64 p.pa, logged := !own p || s.cur.replay })
  | none => none

/-- A watchdog count of a group returns to 0 when none of its waits of that kind is left (R345, R354). -/
def State.wdBarClear (s : State) (core slot : Nat) : State :=
  s.updGroup core slot fun g => if g.threads.any fun t => (match t.wait with | .bar _ _ => true | _ => false) then g else { g with wdBar := 0 }
def State.waitsRing (s : State) (core slot : Nat) : Bool :=
  ((s.core core).opsOf slot).any fun o => match o.kind with | .ring .. => true | .copy c => c.finished | _ => false
def State.wdRingClear (s : State) (core slot : Nat) : State :=
  if s.waitsRing core slot || (s.group core slot).wdRing == 0 || (s.cpyinWaits core (s.group core slot)).isSome then s
  else s.updGroup core slot fun g => { g with wdRing := 0 }
def State.waitsFe (s : State) (core slot : Nat) : Bool :=
  ((s.core core).opsOf slot).any fun o => match o.kind with | .fe .. => true | .feWait .. => true | _ => false
def State.wdFeClear (s : State) (core slot : Nat) : State :=
  if s.waitsFe core slot then s else s.updGroup core slot fun g => { g with wdFe := 0 }

end Sys2Proof.Machine
end

