-- ==== Sys2Proof/Machine/Memory.lean ====
section
/-! DEFINITION. The instructions on memories: loads, stores, acquire and release, scratchpad and full/empty, atomics, fences
and line operations (R220 to R233). -/
namespace Sys2Proof.Machine

/-- Bytes of an access (R225). -/
def Size.bytes : Size → Nat | .b32 => 4 | .b64 => 8 | .b128 => 16 | .b8 => 1 | .b16 => 2
/-- The registers an access of n bytes takes. -/
def regsOf (n : Nat) : Nat := max 1 (n / 4)
/-- Register i of a loaded value: extended below 32 bits, little-endian (R225). -/
def ldWord (bs : List Byte) (sx : Bool) (i : Nat) : W32 :=
  if bs.length < 4 then
    (if sx then (if bs.length == 1 then (BitVec.ofNat 8 (leNat bs)).signExtend 32 else (BitVec.ofNat 16 (leNat bs)).signExtend 32)
     else BitVec.ofNat 32 (leNat bs))
  else BitVec.ofNat 32 (leNat ((bs.drop (4 * i)).take 4))
/-- The bytes a lane stores (R225). -/
def State.stBytes (s : State) (e : Opnd) (n l : Nat) : List Byte :=
  match n, e with
  | 16, .v r => (List.range 4).flatMap fun i => leBytes 4 (s.rd (.v (r + i)) l).toNat
  | 8, e => leBytes 8 (s.rd64 e l).toNat
  | n, e => leBytes n (s.rd e l).toNat
/-- vaddr (R222). -/
def State.vaddr (s : State) (a b : Opnd) (is : Bool) (l : Nat) : Nat :=
  (s.rd64 a l + (if is then (s.rd b l).signExtend 64 else (s.rd b l).setWidth 64)).toNat
/-- A scratchpad address (R222). -/
def State.saddr (s : State) (a b : Opnd) (l : Nat) : Nat := (s.rd a l + s.rd b l).toNat
/-- The lanes of a mask with their addresses. -/
def lanesAt (act : W32) (f : Nat → Nat) : List (Nat × Nat) := (lanesOf act).map fun l => (l, f l)
/-- Scopes that reach other dies (R191, R200). -/
def wideSc : Scope → Bool | .sys => true | .dev => true | _ => false
def acqOrd : Ord4 → Bool | .acq => true | .ar => true | _ => false
def relOrd : Ord4 → Bool | .rel => true | .ar => true | _ => false
/-- A class-L word with no active lane: its flag is set for the issue cycle (R220). -/
def State.idleL (s : State) (i : Instr) : State := (s.pushOp i 0 (.done [])).finish i

/-- The value of a lane among those loaded. -/
def laneVal (vals : List (Nat × List Byte)) (l : Nat) : List Byte := (aget vals l).getD []
/-- A load's result set: one value per lane (R225). A U result, as LDS.fe and .fec give it from U addresses too, has in every lane
the value of the lowest, which is granted first (R227; DESIGN CHOICE, log 69). -/
def ldWbs (d : Opnd) (act : W32) (n : Nat) (sx u : Bool) (vals : List (Nat × List Byte)) : List Wb :=
  wbVec d act (regsOf n) (fun l i => ldWord (laneVal vals l) sx i) (u && act == allOnes32 && decide (n ≤ 4))

/-- LD: each lane's bytes, after the checks of every lane (R225). -/
def execLd (c : Ctl) (d a b : Opnd) (sz : Size) (sx : Bool) (hint : Hint) (is : Bool) (s : State) : Out :=
  let i : Instr := .ld c d a b sz sx hint is
  let act := s.active c
  let n := Size.bytes sz
  let u := s.isUw a && s.isU b
  .next (if act == 0 then s.idleL i
    else s.access i act .load n n (lanesAt act (s.vaddr a b is)) noDet (fun _ _ => 0) fun s ps =>
      match s.poisonTrap act ps n with
      | some t => t
      | none =>
        let (vals, s) := ps.foldl (fun (a : List (Nat × List Byte) × State) p =>
          let (bs, s) := a.2.load (s.who p.lane) p n hint
          (a.1 ++ [(p.lane, bs)], s)) ([], s)
        (s.pushOp i act (.done (ldWbs d act n sx u vals))).finish i)
/-- Why a write fails check 6 in a DETERMINISTIC kernel: want of room (R184, R285). -/
def State.detStore (s : State) (l : Nat) (before : List Nat) (pa : Nat) : Bool := (s.detLimit (s.who l) .store before pa).isSome
def State.detWhy (s : State) (l : Nat) (before : List Nat) (pa : Nat) : Nat := (s.detLimit (s.who l) .store before pa).getD 0
/-- A location released by another team of a DETERMINISTIC kernel (R217). -/
def State.detAcq (s : State) (w : Who) (pa n : Nat) : Bool :=
  (s.descOf w).det && (let t := s.team (w.team.getD 0)
    (s.launchRec t.launch).released.any fun r => decide (r.1 < pa + n) && decide (pa < r.1 + r.2.1) && r.2.2 != t.index)
/-- Locations of n bytes released by a team of a DETERMINISTIC kernel (R217). -/
def State.noteRel (s : State) (w : Who) (pas : List Nat) (n : Nat) : State :=
  if (s.descOf w).det && !pas.isEmpty && (s.rerunOf w).isNone then
    let t := s.team (w.team.getD 0)
    let new := pas.map fun p => (p, n, t.index)
    s.updLaunch t.launch fun l => { l with released := new ++ l.released.filter fun r => !new.contains r }
  else s
/-- Writes of threads that have executed a release fence release the locations they write (R191, R217). -/
def State.noteFenced (s : State) (ps : List Spot) (n : Nat) : State :=
  s.noteRel (s.who 0) ((ps.filter fun p => s.g.fenced.getLsbD p.lane).map (·.pa)).eraseDups n
/-- ST (R225). -/
def execSt (c : Ctl) (a b e : Opnd) (sz : Size) (hint : Hint) (is : Bool) (s : State) : Out :=
  let i : Instr := .st c a b e sz hint is
  let act := s.active c
  let n := Size.bytes sz
  let f := firstLane act
  .next (if act == 0 then s.idleL i
    else s.access i act .store n n (lanesAt act (s.vaddr a b is)) (s.detStore f) (s.detWhy f) fun s ps =>
      match s.twinWait (s.who f) ps with
      | some t => t
      | none => match ps.find? fun p => s.detPoison (s.who p.lane) p.pa with
      | some p => (s.poisonTrap act [p] n).getD s
      | none =>
        let v := s.stBytes e n
        let s := ps.foldl (fun s p =>
          let bs := v p.lane
          (s.store (s.who p.lane) p bs hint).digest s.cur.core s.cur.slot p.lane false p.va bs) (s.noteFenced ps n)
        (s.pushOp i act (.done [])).finish i)

/-- A read at the home by an acquire (R200): through the ownership rules in a DETERMINISTIC kernel (R217), and in the die's
own copy on a die-private line. -/
def State.wideLoad (s : State) (w : Who) (p : Spot) (n : Nat) : List Byte × State :=
  if (s.descOf w).det || p.cls == 3 then s.load w p n .n
  else
    let s := s.noRollOthers (lineOf p.pa) w.team
    let s := if (s.descOf w).inside p.va n then s else s.noAudit w
    let s := (s.reclass w.die (lineOf p.pa) p.cls).l1Fill w p .n
    let (bs, s) := s.homeLoad w.die p.pa n
    (bs, if p.cls == 0 then s.countPage w p else s)
/-- A write at the home by a release (R200). -/
def State.wideStore (s : State) (w : Who) (p : Spot) (bs : List Byte) : State :=
  if (s.descOf w).det || p.cls == 3 then s.store w p bs .n
  else if s.mute w then s
  else
    let s := (s.noRollOthers (lineOf p.pa) w.team).noteStore w.own p.pa bs.length
    let s := (s.reclass w.die (lineOf p.pa) p.cls).homeStore w.die p.pa bs
    if p.cls == 0 then s.countPage w p else s
/-- The directory's part of an acquire, for every variable the spots may reflect, before and after the reads (R202). -/
def State.acqOpenAll (s : State) (x : Nat) (ps : List Spot) : State :=
  ((ps.flatMap fun p => s.keysAt p.pa).eraseDups).foldl (fun s k => s.acqOpen x k) s
def State.acqCloseAll (s : State) (x : Nat) (ps : List Spot) (sys : Bool) : State :=
  let s := ((ps.flatMap fun p => s.keysAt p.pa).eraseDups).foldl (fun s k => s.acqClose x k) s
  let s := s.caught x
  if sys then s.notices x else s
/-- The distinct locations of the spots, lowest lane first. -/
def locs (ps : List Spot) : List Nat := (ps.map (·.pa)).eraseDups
/-- LDA (R226): all lanes read in one act (DEDUCED, log 103). -/
def execLda (c : Ctl) (d a b : Opnd) (w : Bool) (sc : Scope) (is : Bool) (s : State) : Out :=
  let i : Instr := .lda c d a b w sc is
  let act := s.active c
  let n := if w then 8 else 4
  let u := s.isUw a && s.isU b
  let x := dieOf s.cur.core
  .next (if act == 0 then s.idleL i
    else s.access i act .load n n (lanesAt act (s.vaddr a b is)) (fun _ pa => s.detAcq (s.who (firstLane act)) pa n) (fun _ _ => 1) fun s ps =>
      match s.poisonTrap act ps n (wideSc sc && !(s.descOf (s.who (firstLane act))).det) with
      | some t => t
      | none =>
        let s := if wideSc sc then s.acqOpenAll x ps else s
        let (vals, s) := ps.foldl (fun (a : List (Nat × List Byte) × State) p =>
          let (bs, s) := if wideSc sc then a.2.wideLoad (s.who p.lane) p n else a.2.load (s.who p.lane) p n .n
          (a.1 ++ [(p.lane, bs)], s)) ([], s)
        let s := if wideSc sc then (s.acqCloseAll x ps (sc == .sys)).noAudit (s.who 0) else s
        (s.pushOp i act (.done (ldWbs d act n false u vals))).finish i)
/-- STREL (R226): at .dev and .sys, one snapshot, its records' acknowledgements, then the writes; narrower, the writes, and the
die becomes a narrow holder on twin-coherent pages. -/
def execStrel (c : Ctl) (a b e : Opnd) (w : Bool) (sc : Scope) (lzy is : Bool) (s : State) : Out :=
  let i : Instr := .strel c a b e w sc lzy is
  let act := s.active c
  let n := if w then 8 else 4
  let x := dieOf s.cur.core
  let f := firstLane act
  .next (if act == 0 then s.idleL i
    else s.access i act .store n n (lanesAt act (s.vaddr a b is)) (s.detStore f) (s.detWhy f) fun s ps =>
      match s.twinWait (s.who f) ps with
      | some t => t
      | none => match ps.find? fun p => s.detPoison (s.who p.lane) p.pa with
      | some p => (s.poisonTrap act [p] n).getD s
      | none =>
        let v := s.stBytes e n
        let s := ps.foldl (fun s p => s.digest s.cur.core s.cur.slot p.lane false p.va (v p.lane)) s
        let s := s.noteRel (s.who f) (locs ps) n
        if wideSc sc then
          let s := s.noRollW (s.who f)
          let (recs, syncs, s) := s.release x s.tm.launch (locs ps) lzy true
          let ws := ps.map fun p => { lane := p.lane, pa := p.pa, va := p.va, bytes := v p.lane, tr := p.tr : RelWrite }
          (s.pushOp i act (.release ws recs syncs sc false)).finish i
        else
          let s := ps.foldl (fun s p => s.store (s.who p.lane) p (v p.lane) .n) s
          let s := ((ps.filter (·.cls == 1)).map (·.pa)).eraseDups.foldl (fun s k => s.narrowHold x k) s
          (s.pushOp i act (.done [])).finish i)

/-- The checks of scratchpad accesses (R227, R233): the earliest that fails in any lane, its lanes, the lowest one's address. -/
def scBad (t : Team) (l : List (Nat × Nat × Nat)) (al : Nat) : Option (Nat × W32 × Nat) :=
  let mis := l.filter fun p => p.2.1 % al != 0 || (al == 16 && p.2.2 % al != 0)
  let out := l.filter fun p => !t.inScratch p.2.1 p.2.2
  let say (cause : Nat) (b : List (Nat × Nat × Nat)) := some (cause, maskOf fun i => b.any (·.1 == i), (b.map (·.2.1)).headD 0)
  if !mis.isEmpty then say 7 mis else if !out.isEmpty then say 8 out else none
/-- The granules of a team that commands which began waiting before `before` wait for, with the state each awaits (R173). -/
def State.feOlder (s : State) (t before : Nat) : List (Nat × Bool) :=
  s.cores.flatMap fun c => (c.2.ops.filter fun o => o.team == t && decide (o.id < before)).flatMap fun o =>
    match o.kind with
    | .fe td .. => td.map fun r => (r.addr / 16, r.want)
    | .feWait td empty => td.map fun a => (a / 16, !empty)
    | _ => []
/-- Full/empty requests granted in lane order, as far as the granules allow: one waits when its granule is in the other state,
or when an earlier request waits for the granule in the same state (R173). `before` is the command's number among those that wait;
one that has waited is granted in the cycle after its granule's change, or later (R233). Lanes that can be granted are granted in one act
(DEDUCED, log 103). -/
def State.feStep (s : State) (t core before : Nat) (waited : Bool) (todo : List FeReq) (got : List (Nat × List Byte)) :
    List FeReq × List (Nat × List Byte) × State :=
  let older := s.feOlder t before
  let now := s.now core
  todo.foldl (fun (a : List FeReq × List (Nat × List Byte) × State) r =>
    let (wait, got, s) := a
    let q := r.addr / 16
    if older.contains (q, r.want) || wait.any (·.addr / 16 == q) || s.isFull t r.addr != r.want
        || (waited && (s.team t).feAt.contains (q, now)) then (wait ++ [r], got, s)
    else
      let bs := s.scRd t r.addr r.size
      let s := match r.store with | some b => s.scWr t core r.addr b | none => s
      let s := if r.after == r.want then s else s.scFe t core r.addr r.after
      (wait, got ++ [(r.lane, bs)], s)) ([], got, s)
/-- Uncorrectable data of scratchpad or operand buffer met by the word that issues (R188, R365): `place` of R357. -/
def State.sramTrap (s : State) (act : W32) (va place : Nat) : State :=
  s.wordTrap { cause := 0x0E, pc := s.cur.pc, lanes := act, va, x0 := BitVec.ofNat 64 place, logged := true }
/-- The first request of some that is granted, for it waits no more, and reads uncorrectable data (R173, R188, R227). -/
def State.feHurt (s : State) (t : Nat) (todo wait : List FeReq) : Option FeReq :=
  todo.find? fun r => r.store.isNone && !wait.any (·.lane == r.lane) && s.scHurt t r.addr r.size
/-- A full/empty word: done when every lane is granted at once, else its threads wait (R227). What a granted lane reads may be
uncorrectable; one that waits has read nothing. -/
def State.feWord (s : State) (i : Instr) (act : W32) (todo : List FeReq) (d : Opnd) (n : Nat) (sx u : Bool) : State :=
  let (wait, got, t) := s.feStep s.g.team s.cur.core s.serial false todo []
  match s.feHurt s.g.team todo wait with
  | some r => s.sramTrap act r.addr 3
  | none =>
    if wait.isEmpty then ((t.pushOp i act (.done (ldWbs d act n sx u got))).finish i).wdFeClear s.cur.core s.cur.slot
    else t.pushWait i act (.fe wait got d n sx u)
/-- The scratchpad accesses of a word whose checks hold (R188, R296): it waits for a block's copy; what it reads may be
uncorrectable; else `k`. -/
def State.scAccess (s : State) (act : W32) (l : List (Nat × Nat × Nat)) (reads writes : Bool) (k : State) : State :=
  match s.blockWait (l.map (·.2)) writes with
  | some t => t
  | none => match if reads then l.find? fun p => s.scHurt s.g.team p.2.1 p.2.2 else none with
    | some p => s.sramTrap act p.2.1 3
    | none => k
/-- LDS (R227): a plain one reads at its issue (DEDUCED, log 103). -/
def execLds (c : Ctl) (d a b : Opnd) (sz : Size) (sx : Bool) (fe : FeMode) (s : State) : Out :=
  let i : Instr := .lds c d a b sz sx fe
  let act := s.active c
  let n := Size.bytes sz
  let t := s.g.team
  let u := s.isU a && s.isU b
  let ls := lanesAt act (s.saddr a b)
  .next (if act == 0 then s.idleL i
    else match scBad s.tm (ls.map fun p => (p.1, p.2, n)) n with
    | some (cause, m, va) => s.trapW cause m va 4 0
    | none => s.scAccess act (ls.map fun p => (p.1, p.2, n)) (fe == FeMode.plain) (fe == FeMode.fec) <|
      if fe == FeMode.plain then
        (s.pushOp i act (.done (ldWbs d act n sx u (ls.map fun p => (p.1, s.scRd t p.2 n))))).finish i
      else
        s.feWord i act (ls.map fun p => { lane := p.1, addr := p.2, size := n, want := true, after := fe == FeMode.fe, store := none }) d n sx u)
/-- STS (R227): a plain one is performed at its issue (DEDUCED, log 103). -/
def execSts (c : Ctl) (a b e : Opnd) (sz : Size) (fill : Bool) (s : State) : Out :=
  let i : Instr := .sts c a b e sz fill
  let act := s.active c
  let n := Size.bytes sz
  let t := s.g.team
  let ls := lanesAt act (s.saddr a b)
  .next (if act == 0 then s.idleL i
    else match scBad s.tm (ls.map fun p => (p.1, p.2, n)) n with
    | some (cause, m, va) => s.trapW cause m va 4 0
    | none => s.scAccess act (ls.map fun p => (p.1, p.2, n)) false true <|
      let s := ls.foldl (fun s p => s.digest s.cur.core s.cur.slot p.1 true p.2 (s.stBytes e n p.1)) s
      if fill then
        s.feWord i act (ls.map fun p => { lane := p.1, addr := p.2, size := n, want := false, after := true, store := some (s.stBytes e n p.1) }) .zero n false false
      else
        let s := ls.foldl (fun s p => s.scWr t s.cur.core p.2 (s.stBytes e n p.1)) s
        (s.pushOp i act (.done [])).finish i)

/-- A scalar access's address (R228). -/
def State.sldAddr (s : State) (a : SReg) (b : Option SReg) : Nat :=
  (s.srd a + (match b with | some r => s.srd r | none => 0)).toNat
/-- SLD: one access per issue; a trap names every thread whose guard holds (R228). -/
def execSld (c : Ctl) (d a : SReg) (b : Option SReg) (sz : Size) (sx : Bool) (hint : Hint) (s : State) : Out :=
  let i : Instr := .sld c d a b sz sx hint
  let act := s.active c
  let n := Size.bytes sz
  .next (if act == 0 then s.idleL i
    else s.access i act .load n n (lanesAt act fun _ => s.sldAddr a b) noDet (fun _ _ => 0) fun s ps =>
      match s.poisonTrap act (ps.take 1) n with
      | some t => t
      | none =>
        let p := ps.headD default
        let (bs, s) := s.load (s.who p.lane) p n hint
        let v : W64 := if sx then (if n == 1 then (BitVec.ofNat 8 (leNat bs)).signExtend 64 else (BitVec.ofNat 16 (leNat bs)).signExtend 64)
          else BitVec.ofNat 64 (leNat bs)
        (s.pushOp i act (.done [.sca d v 0])).finish i)
/-- SST (R228). -/
def execSst (c : Ctl) (a : SReg) (b : Option SReg) (e : SReg) (sz : Size) (hint : Hint) (s : State) : Out :=
  let i : Instr := .sst c a b e sz hint
  let act := s.active c
  let n := Size.bytes sz
  let f := firstLane act
  .next (if act == 0 then s.idleL i
    else s.access i act .store n n (lanesAt act fun _ => s.sldAddr a b) (s.detStore f) (s.detWhy f) fun s ps =>
      let p := ps.headD default
      match s.twinWait (s.who f) ps with
      | some t => t
      | none => if s.detPoison (s.who p.lane) p.pa then (s.poisonTrap act [p] n).getD s
      else
        let bs := leBytes n (s.srd e).toNat
        let s := s.noteFenced [p] n
        let s := (s.store (s.who p.lane) p bs hint).digest s.cur.core s.cur.slot p.lane false p.va bs
        (s.pushOp i act (.done [])).finish i)

/-- The new value an atomic leaves, of the low half or the whole (R230); v the operand, n the second one of .cas. -/
def atomNew (op : AtomOp) (w : Bool) (old v n : W64) : W64 :=
  let o32 : W32 := old.setWidth 32
  let v32 : W32 := v.setWidth 32
  let z (x : W32) : W64 := x.setWidth 64
  match op, w with
  | .add, true => old + v | .add, false => z (o32 + v32)
  | .minI, true => minT .i old v | .minI, false => z (minT .i o32 v32)
  | .maxI, true => maxT .i old v | .maxI, false => z (maxT .i o32 v32)
  | .minN, true => minT .n old v | .minN, false => z (minT .n o32 v32)
  | .maxN, true => maxT .n old v | .maxN, false => z (maxT .n o32 v32)
  | .and, _ => old &&& v | .or, _ => old ||| v | .xor, _ => old ^^^ v
  | .exch, _ => v
  | .cas, _ => if old == v then n else old
  | .addF, _ => z (faddCode .f32 .rn o32 v32)
  | .minF, _ => z (fmin32 o32 v32) | .maxF, _ => z (fmax32 o32 v32)
/-- The operands of an atomic in a lane: value, and the new value of .cas (R229). -/
def State.atomArg (s : State) (op : AtomOp) (w : Bool) (e : Opnd) (l : Nat) : W64 × W64 :=
  match op, w, e with
  | .cas, true, .v r => (s.rd64 (.v r) l, s.rd64 (.v (r + 2)) l)
  | .cas, false, e => let q := s.rd64 e l; ((q.setWidth 32).setWidth 64, (q.extractLsb' 32 32).setWidth 64)
  | _, true, e => (s.rd64 e l, 0)
  | _, false, e => ((s.rd e l).setWidth 64, 0)
/-- A global atomic where it is performed (R206): at the home, after the publication of the die's modified twin; on die-private
lines in the using die's copy. Answers the old bytes. -/
def State.atomAt (s : State) (w : Who) (p : Spot) (op : AtomOp) (n : Nat) (v : W64 × W64) : W64 × State :=
  let new (old : W64) : List Byte := leBytes n (atomNew op (n == 8) old v.1 v.2).toNat
  let line := lineOf p.pa
  let s := s.noRollOthers line w.team
  if s.mute w then
    let (bs, fill, s) := s.loadAt w.die p.cls p.pa n .n
    (BitVec.ofNat 64 (leNat bs), if fill then s.countPage w p else s)
  else
    let s := s.noteStore w.own p.pa n
    if p.cls == 3 then
      let (bs, _, s) := (s.l1Write w.die p.cls line w.core).loadAt w.die p.cls p.pa n .n
      let old := BitVec.ofNat 64 (leNat bs)
      (old, (s.storeAt w.die p.cls p.pa (new old) .n (w.team.getD 0) .c).2.l1Fill w p .n)
    else
      let s := s.reclass w.die line p.cls
      let s := if p.cls == 1 then s.publishNow w.die line 3 else s
      let old := BitVec.ofNat 64 (leNat (s.homeRd p.pa n))
      let s := (s.homeStore w.die p.pa (new old)).l1Fill w p .n
      (old, if p.cls == 0 then s.countPage w p else s)
/-- Check 6 of an atomic (R281, R217), and its reason. -/
def State.atomBad (s : State) (f : Nat) (op : AtomOp) (ret : Bool) (ord : Ord4) (n : Nat) (before : List Nat) (pa : Nat) : Bool :=
  (s.descOf (s.who f)).det && (ret || op == .exch || op == .cas) || (acqOrd ord && s.detAcq (s.who f) pa n) || s.detStore f before pa
def State.atomWhy (s : State) (f : Nat) (op : AtomOp) (ret : Bool) (ord : Ord4) (n : Nat) (before : List Nat) (pa : Nat) : Nat :=
  if (s.descOf (s.who f)).det && (ret || op == .exch || op == .cas) then 0
  else if acqOrd ord && s.detAcq (s.who f) pa n then 1 else s.detWhy f before pa
/-- ATOM and RED: the checks; in a DETERMINISTIC kernel the operation is buffered (R281), else the release of the scope and
order, then each lane's operation in increasing lane order (R224), then the acquire. -/
def State.atomic (s : State) (i : Instr) (act : W32) (d a e : Opnd) (op : AtomOp) (w : Bool) (sc : Scope) (ord : Ord4) (ret : Bool) : State :=
  let n := if w then 8 else 4
  let x := dieOf s.cur.core
  let f := firstLane act
  if act == 0 then s.idleL i
  else s.access i act .atomic n n (lanesAt act fun l => (s.rd64 a l).toNat) (s.atomBad f op ret ord n) (s.atomWhy f op ret ord n) fun s ps =>
    let wh := s.who f
    let det := (s.descOf wh).det
    match (s.twinWait wh ps).orElse fun _ => s.poisonTrap act ps n (!det && !s.mute wh) with
    | some t => t
    | none =>
      let s := s.noRollW wh
      let s := if ret || acqOrd ord && wideSc sc then s.noAudit wh else s
      let s := if relOrd ord then s.noteRel wh (locs ps) n else s.noteFenced ps n
      let s := if relOrd ord && wideSc sc then s.releaseNow x s.tm.launch (locs ps) true else s
      let s := if acqOrd ord && wideSc sc then s.acqOpenAll x ps else s
      let arg := s.atomArg op w e
      let (vals, s) := ps.foldl (fun (a : List (Nat × List Byte) × State) p =>
        let v := arg p.lane
        let wl := a.2.who p.lane
        if det then (a.1, a.2.bufRed wl p op w v.1)
        else
          let (old, s) := a.2.atomAt wl p op n v
          (a.1 ++ [(p.lane, leBytes n old.toNat)], s)) ([], s)
      let s := if acqOrd ord && wideSc sc then s.acqCloseAll x ps (sc == .sys) else s
      let s := if relOrd ord && !wideSc sc then ((ps.filter (·.cls == 1)).map (·.pa)).eraseDups.foldl (fun s k => s.narrowHold x k) s else s
      (s.pushOp i act (.done (if ret then ldWbs d act n false false vals else []))).finish i
/-- ATOM (R229, R230). -/
def execAtom (c : Ctl) (d a e : Opnd) (op : AtomOp) (w : Bool) (sc : Scope) (ord : Ord4) (s : State) : Out :=
  .next (s.atomic (.atom c d a e op w sc ord) (s.active c) d a e op w sc ord (d != .zero))
/-- RED: no old value is returned (R229, R230). -/
def execRed (c : Ctl) (a e : Opnd) (op : AtomOp) (w : Bool) (sc : Scope) (ord : Ord4) (s : State) : Out :=
  let wh := s.who (firstLane (s.active c))
  let s := if s.active c == 0 then s else s.noAudit wh
  .next (s.atomic (.red c a e op w sc ord) (s.active c) .zero a e op w sc ord false)
/-- ATOMS: at the granule's bank, its bit unchanged (R230). -/
def execAtoms (c : Ctl) (d a e : Opnd) (op : AtomOp) (w : Bool) (sc : Scope) (ord : Ord4) (s : State) : Out :=
  let i : Instr := .atoms c d a e op w sc ord
  let act := s.active c
  let n := if w then 8 else 4
  let t := s.g.team
  let ls := lanesAt act fun l => (s.rd a l).toNat
  .next (if act == 0 then s.idleL i
    else match scBad s.tm (ls.map fun p => (p.1, p.2, n)) n with
    | some (cause, m, va) => s.trapW cause m va 4 0
    | none => s.scAccess act (ls.map fun p => (p.1, p.2, n)) true true <|
      let (vals, s) := ls.foldl (fun (q : List (Nat × List Byte) × State) p =>
        let bs := q.2.scRd t p.2 n
        let v := q.2.atomArg op w e p.1
        let new := atomNew op w (BitVec.ofNat 64 (leNat bs)) v.1 v.2
        (q.1 ++ [(p.1, bs)], q.2.scWr t s.cur.core p.2 (leBytes n new.toNat))) ([], s)
      (s.pushOp i act (.done (ldWbs d act n false false vals))).finish i)

/-- FENCE (R231). -/
def execFence (c : Ctl) (ord : Ord4) (sc : Scope) (s : State) : Out :=
  let i : Instr := .fence c ord sc
  let act := s.active c
  let x := dieOf s.cur.core
  let wh := s.who (firstLane act)
  .next (if act == 0 then s.idleL i
    else
      let s := if relOrd ord then s.updG fun g => { g with fenced := g.fenced ||| act } else s
      if !wideSc sc then (s.pushOp i act (.done [])).finish i
      else
      let s := if acqOrd ord then s.noAudit wh else s
      if relOrd ord then
        let s := s.noRollW wh
        let (recs, syncs, s) := s.release x s.tm.launch [fenceKey x] false true
        (s.pushOp i act (.release [] recs syncs sc (acqOrd ord))).finish i
      else ((s.acqFence x (sc == .sys)).pushOp i act (.done [])).finish i)

/-- The addresses, one per line, that a line operation names (R232): each lane's line, or under RANGE those of lane first(active)
that overlap [vaddr, vaddr + len). -/
def State.lineList (s : State) (act : W32) (a b : Opnd) (is : Bool) (len : Option Opnd) : List (Nat × Nat) :=
  match len with
  | none => lanesAt act (s.vaddr a b is)
  | some o =>
    let f := firstLane act
    let va := s.vaddr a b is f
    let n := (s.rd o f).toNat
    if n == 0 then []
    else (List.range ((va % 128 + n + 127) / 128)).map fun k => (f, if k == 0 then va else (va - va % 128 + 128 * k) % 2 ^ 64)
/-- PUBLISH, CLEAN and INVAL share their checks 1, 3 and 4 (R232). -/
def State.lineOp (s : State) (i : Instr) (act : W32) (l : List (Nat × Nat)) (f : State → Spot → State) : State :=
  if act == 0 then s.idleL i
  else s.access i act .line 1 1 l noDet (fun _ _ => 0) fun s ps => ((ps.foldl f s).pushOp i act (.done [])).finish i
/-- A twin-coherent line's record sent and acknowledged; a die-private line written back (R232). -/
def State.cleanLine (s : State) (x : Nat) (p : Spot) : State :=
  if p.cls == 1 then s.publishNow x (lineOf p.pa) 1 else if p.cls == 3 then s.writeBack x (lineOf p.pa) else s
/-- A line's copies discarded in the die and in the core's L1, unless a twin still holds written words (R198, R232). -/
def State.discardLine (s : State) (x core : Nat) (p : Spot) : State :=
  let line := lineOf p.pa
  let s := s.updCore core fun k => { k with l1 := adel k.l1 line }
  if (p.cls == 1 || p.cls == 3) && (aget (s.die x).twins line).isNone then
    (s.dropCopy x line).updDie x fun d => { d with l2 := if homeOf line == x then d.l2 else adel d.l2 line }
  else s
/-- PUBLISH (R232). -/
def execPublish (c : Ctl) (a b : Opnd) (is : Bool) (len : Option Opnd) (s : State) : Out :=
  let x := dieOf s.cur.core
  .next (s.lineOp (.publish c a b is len) (s.active c) (s.lineList (s.active c) a b is len) fun s p =>
    if p.cls == 1 then s.publishNow x (lineOf p.pa) 1 else s)
/-- CLEAN (R232). -/
def execClean (c : Ctl) (a b : Opnd) (is : Bool) (len : Option Opnd) (s : State) : Out :=
  let x := dieOf s.cur.core
  .next (s.lineOp (.clean c a b is len) (s.active c) (s.lineList (s.active c) a b is len) fun s p => s.cleanLine x p)
/-- INVAL: no written word is lost (R232). -/
def execInval (c : Ctl) (a b : Opnd) (is : Bool) (len : Option Opnd) (s : State) : Out :=
  let x := dieOf s.cur.core
  .next (s.lineOp (.inval c a b is len) (s.active c) (s.lineList (s.active c) a b is len) fun s p =>
    (s.cleanLine x p).discardLine x s.cur.core p)
/-- PREF: a line whose check fails is dropped, and nothing delays the group (R232). -/
def execPref (c : Ctl) (a b : Opnd) (is : Bool) (len : Option Opnd) (l1 : Bool) (hint : Hint) (s : State) : Out :=
  let i : Instr := .pref c a b is len l1 hint
  let act := s.active c
  let w := s.who (firstLane act)
  .next (if act == 0 then s.idleL i
    else
      let s := (s.lineList act a b is len).foldl (fun s q =>
        match s.spot w .load 1 1 q.2 with
        | (s, some p) =>
          let (_, fill, s) := s.loadAt w.die p.cls p.pa 1 hint
          let s := if l1 then s.l1Fill w p hint else s
          if fill then s.countPage w p else s
        | (s, none) => s) s
      (s.pushOp i act (.done [])).finish i)

/-- The granules of each lane's range (R233). -/
def granules (l : List (Nat × Nat × Nat)) : List Nat := l.flatMap fun p => (List.range (p.2.2 / 16)).map fun k => p.2.1 + 16 * k
/-- Lane, start and length of each lane's range. -/
def State.feRanges (s : State) (act : W32) (a b e : Opnd) : List (Nat × Nat × Nat) :=
  (lanesOf act).map fun l => (l, s.saddr a b l, (s.rd e l).toNat)
/-- FESET, FECLR: every named granule set to one state (R233). -/
def State.feRange (s : State) (i : Instr) (act : W32) (l : List (Nat × Nat × Nat)) (full : Bool) : State :=
  if act == 0 then s.idleL i
  else match scBad s.tm l 16 with
  | some (cause, m, va) => s.trapW cause m va 4 0
  | none => s.scAccess act l false true <|
    let t := s.g.team
    (((granules l).foldl (fun s g => s.scFe t s.cur.core g full) s).pushOp i act (.done [])).finish i
/-- FESET (R233). -/
def execFeset (c : Ctl) (a b e : Opnd) (s : State) : Out :=
  .next (s.feRange (.feset c a b e) (s.active c) (s.feRanges (s.active c) a b e) true)
/-- FECLR (R233). -/
def execFeclr (c : Ctl) (a b e : Opnd) (s : State) : Out :=
  .next (s.feRange (.feclr c a b e) (s.active c) (s.feRanges (s.active c) a b e) false)
/-- FEWAIT: granules are observed independently (R233). -/
def execFewait (c : Ctl) (a b e : Opnd) (empty : Bool) (s : State) : Out :=
  let i : Instr := .fewait c a b e empty
  let act := s.active c
  let l := s.feRanges act a b e
  .next (if act == 0 then s.idleL i
    else match scBad s.tm l 16 with
    | some (cause, m, va) => s.trapW cause m va 4 0
    | none => s.scAccess act l false false <|
      let todo := (granules l).filter fun g => s.isFull s.g.team g == empty
      if todo.isEmpty then ((s.pushOp i act (.done [])).finish i).wdFeClear s.cur.core s.cur.slot else s.pushWait i act (.feWait todo empty))

end Sys2Proof.Machine
end

