-- ==== Sys2Proof/Machine/Copy.lean ====
section
/-! DEFINITION. Tensor records and the copy commands (R234 to R243), and the reservations of the operand buffer (R248, R249,
R264 to R267). -/
namespace Sys2Proof.Machine

/-- A tensor shape-and-stride record, well formed (R234, R235). -/
structure Tsr where
  base : Nat
  size : Nat
  dims : Nat
  pad : Nat
  ext : List Nat
  box : List Nat
  stride : List Nat
  deriving DecidableEq, Repr, Inhabited

/-- Bytes of the first k dimensions of a box. -/
def boxBytes (size : Nat) (box : List Nat) (k : Nat) : Nat := (box.take k).foldl (· * ·) size
/-- A record's eight words read (R235): the lowest word charged with a condition that fails (R237), or the record. -/
def tsrOf (w : List Nat) : Except Nat Tsr :=
  let x (i : Nat) : Nat := w.getD i 0
  let es := bits (x 1) 7 0
  let dims := bits (x 1) 15 8
  let pad := bits (x 1) 23 16
  let ext := [bits (x 1) 63 32, bits (x 2) 31 0, bits (x 2) 63 32, bits (x 3) 31 0, bits (x 3) 63 32]
  let boxf := bits (x 1) 31 24 :: (List.range 4).map fun k => bits (x (4 + k)) 55 48
  let stride := 0 :: (List.range 4).map fun k => bits (x (4 + k)) 47 0
  let sz := es ≤ 4
  let size := if es ≤ 4 then 2 ^ es else 1
  let box := boxf.map (· + 1)
  let extOk (k : Nat) : Bool := if k < dims then 1 ≤ ext.getD k 0 else ext.getD k 0 == 0
  let excess (k : Nat) : Bool := sz && decide (k < dims) && decide (262144 < boxBytes size box (k + 1)) && decide (boxBytes size box k ≤ 262144)
  let ok (i : Nat) : Bool :=
    match i with
    | 0 => canonical (x 0) && (!sz || x 0 % size == 0)
    | 1 => sz && decide (pad ≤ 2) && decide (1 ≤ dims) && decide (dims ≤ 5) && decide (1 ≤ ext.getD 0 0) && !excess 0
    | 2 => extOk 1 && extOk 2
    | 3 => extOk 3 && extOk 4
    | j + 4 =>
      let k := j + 1
      bits (x (4 + j)) 63 56 == 0 && !excess k
        && (if k < dims then !sz || stride.getD k 0 % size == 0 else stride.getD k 0 == 0 && boxf.getD k 0 == 0)
  match (List.range 8).find? fun i => !ok i with
  | some j => .error j
  | none => .ok { base := x 0, size, dims, pad, ext, box, stride }
/-- Whether an element is in bounds, and its address (R236). -/
def Tsr.elem (t : Tsr) (e : List Int) : Bool × Nat :=
  let ok := (List.range t.dims).all fun k => decide (0 ≤ e.getD k 0) && decide (e.getD k 0 < (t.ext.getD k 0 : Int))
  let a : Int := t.base + e.getD 0 0 * t.size + ((List.range 4).map fun k => e.getD (k + 1) 0 * (t.stride.getD (k + 1) 0 : Int)).foldl (· + ·) 0
  (ok, (BitVec.ofInt 64 a).toNat)
/-- Coordinates clamped into the tensor (R236). -/
def Tsr.clamp (t : Tsr) (e : List Int) : List Int :=
  e.mapIdx fun k v => if k < t.dims then max 0 (min v ((t.ext.getD k 0 : Int) - 1)) else v
/-- The rows of a box, and the first element of row q (R236). -/
def Tsr.rows (t : Tsr) : Nat := (t.box.drop 1).foldl (· * ·) 1
def Tsr.rowAt (t : Tsr) (c : List Int) (q : Nat) : List Int :=
  let b (k : Nat) : Nat := t.box.getD k 1
  [c.getD 0 0, c.getD 1 0 + (q % b 1 : Nat), c.getD 2 0 + (q / b 1 % b 2 : Nat), c.getD 3 0 + (q / (b 1 * b 2) % b 3 : Nat),
   c.getD 4 0 + (q / (b 1 * b 2 * b 3) : Nat)]
def Tsr.rowBytes (t : Tsr) : Nat := t.box.getD 0 1 * t.size
/-- The coordinates of three scalars (R236). -/
def coordsOf (l : List W64) : List Int :=
  let w (i : Nat) : W64 := l.getD i 0
  [((w 0).setWidth 32).toInt, ((w 0).extractLsb' 32 32).toInt, ((w 1).setWidth 32).toInt, ((w 1).extractLsb' 32 32).toInt,
   ((w 2).setWidth 32).toInt]
/-- A scratchpad descriptor's effective pitch in chunks, and the address of chunk j of row q (R239). -/
def dscPitch (d row : Nat) : Nat := if bits d 47 32 == 0 then (row + 15) / 16 else bits d 47 32
def dscChunk (d row q j : Nat) : Nat := bits d 31 0 + 16 * (dscPitch d row * q + (j ^^^ (q % 2 ^ bits d 50 48)))
/-- A descriptor that is malformed whatever the record (R239, R240). -/
def dscBad (d : Nat) (kind : CopyKind) : Bool :=
  bits d 63 57 != 0 || bits d 56 55 == 3 || d % 16 != 0 || (d.testBit 51 && kind != .in_)
def hintOf (n : Nat) : Hint := match n with | 1 => .ef | 2 => .el | _ => .n

/-- How a command's rows end: done, at a soft fault that delays them (R238), or at a hard fault (R242). -/
inductive CopyEnd where
  | done | delayed
  | fault (cause va q : Nat) (e : List Int)
  deriving DecidableEq, Repr, Inhabited
/-- One element's access by the copy engine (R223, R238). What it reads may be uncorrectable or poisoned, a combination reading where it
is performed; a store consumes nothing (R188). -/
def State.copySpot (s : State) (w : Who) (k : AccKind) (size va : Nat) : State × Except CopyEnd Spot :=
  match s.checkAll w k 1 size [(0, va)] fun before pa => (s.detLimit w k before pa).isSome with
  | (s, .ok [p]) =>
    let home := k == .atomic && p.cls != 3 && !(s.descOf w).det
    let hurt := k != .store && (if home then s.homeHurt w.die p.pa size else s.l2Hurt w.die p.cls p.pa size)
    if hurt then (s, .error (.fault 0x0E va 0 []))
    else if k != .store && s.poisoned p.pa size || s.detPoison w p.pa then (s, .error (.fault 0x14 va 0 []))
    else (s, .ok p)
  | (s, .hard c _ va _) => (s, .error (.fault (causeOf c) va 0 []))
  | (s, _) => (s, .error .delayed)
/-- An element read, padded out of bounds (R236). -/
def State.tsrGet (s : State) (w : Who) (t : Tsr) (e : List Int) (h : Hint) : State × Except CopyEnd (List Byte) :=
  let (ok, a) := t.elem e
  if !ok && t.pad == 0 then (s, .ok (List.replicate t.size 0))
  else if !ok && t.pad == 2 then (s, .error (.fault 8 a 0 []))
  else
    match s.copySpot w .load t.size (if ok then a else (t.elem (t.clamp e)).2) with
    | (s, .error x) => (s, .error x)
    | (s, .ok p) => let (bs, s) := s.load w p t.size h; (s, .ok bs)
/-- A CPYRED operation as an atomic's (R230, R240). -/
def redOp : CpyRedOp → AtomOp | .addF => .addF | .addI => .add | .minF => .minF | .maxF => .maxF | .minI => .minI | .maxI => .maxI
/-- An element written, or combined as a relaxed RED; out of bounds skipped, or a fault (R236, R240). -/
def State.tsrPut (s : State) (w : Who) (t : Tsr) (e : List Int) (bs : List Byte) (h : Hint) (op : Option CpyRedOp) : State × Except CopyEnd Unit :=
  let (ok, a) := t.elem e
  if !ok then (s, if t.pad == 2 then .error (.fault 8 a 0 []) else .ok ())
  else
    match s.copySpot w (if op.isSome then .atomic else .store) t.size a with
    | (s, .error x) => (s, .error x)
    | (s, .ok p) =>
      if s.twinFull w [p] then (s, .error .delayed)
      else match op with
      | none => (s.store w p bs h, .ok ())
      | some o =>
        let v : W64 := BitVec.ofNat 64 (leNat bs)
        if (s.descOf w).det then (s.bufRed w p (redOp o) false v, .ok ())
        else ((s.atomAt w p (redOp o) 4 (v, 0)).2, .ok ())
/-- Rows performed in row order until one stops; a fault names its row and the row's first element (R236, R242). -/
def State.copyRows (s : State) (t : Tsr) (c : List Int) (f : State → Nat → List Int → State × Except CopyEnd Unit) : State × CopyEnd :=
  (List.range t.rows).foldl (fun a q =>
    match a.2 with
    | .done =>
      match f a.1 q (t.rowAt c q) with
      | (s, .ok _) => (s, .done)
      | (s, .error (.fault cause va _ _)) => (s, .fault cause va q (t.rowAt c q))
      | (s, .error x) => (s, x)
    | x => (a.1, x)) (s, .done)
/-- The elements of a row. -/
def Tsr.row (t : Tsr) (e : List Int) : List (List Int) :=
  (List.range (t.box.getD 0 1)).map fun j => (e.headD 0 + (j : Nat)) :: e.drop 1
/-- A row's bytes read from the tensor. -/
def State.rowGet (s : State) (w : Who) (t : Tsr) (e : List Int) (h : Hint) : State × Except CopyEnd (List Byte) :=
  (t.row e).foldl (fun a x =>
    match a.2 with
    | .ok bs => (match a.1.tsrGet w t x h with | (s, .ok b) => (s, .ok (bs ++ b)) | (s, .error z) => (s, .error z))
    | .error _ => a) (s, .ok [])
/-- A row's bytes written to the tensor. -/
def State.rowPut (s : State) (w : Who) (t : Tsr) (e : List Int) (bs : List Byte) (h : Hint) (op : Option CpyRedOp) : State × Except CopyEnd Unit :=
  ((t.row e).zipIdx).foldl (fun a x =>
    match a.2 with
    | .ok _ => a.1.tsrPut w t x.1 ((bs.drop (x.2 * t.size)).take t.size) h op
    | .error _ => a) (s, .ok ())
/-- Scratchpad granules written by an engine: set full (R173, R238). -/
def State.scPut (s : State) (t core a : Nat) (bs : List Byte) : State :=
  let s := s.scWr t core a bs
  (List.range ((bs.length + 15) / 16)).foldl (fun s k => s.scFe t core (a + 16 * k) true) s

/-- A command's record read at its start (R238): a malformed command is found before any access, then the record's own access. -/
def State.copyTsr (s : State) (w : Who) (c : CopyCmd) : State × Except CopyEnd Tsr :=
  let ill : CopyEnd := .fault 1 0 0 (coordsOf c.coord)
  if c.bad || ((c.coord.getD 2 0).toNat / 2 ^ 32 != 0) then (s, .error ill)
  else if c.tsrVa % 64 != 0 then (s, .error (.fault 7 c.tsrVa 0 (coordsOf c.coord)))
  else
    match s.copySpot w .load 64 c.tsrVa with
    | (s, .error (.fault k va _ _)) => (s, .error (.fault k va 0 (coordsOf c.coord)))
    | (s, .error x) => (s, .error x)
    | (s, .ok p) =>
      let (bs, s) := s.load w p 64 .n
      match tsrOf ((List.range 8).map fun i => leNat ((bs.drop (8 * i)).take 8)) with
      | .ok t => (s, .ok t)
      | .error _ => (s, .error ill)
/-- Everything a copy command does but its completion (R236 to R242): the state, and how its rows ended. The manual fixes neither
when a command starts nor the time of its rows: its record is read and all its rows are performed, in row order, in the one act
of its end (DESIGN CHOICE, log 70). -/
def State.copyRun (s : State) (core : Nat) (o : POp) (c : CopyCmd) : State × CopyEnd :=
  let w := o.who core
  let tm := s.team o.team
  let ill (e : List Int) : CopyEnd := .fault 1 0 0 e
  let cs := coordsOf c.coord
  let d := c.dsc.toNat
  let fc := tm.first
  let rv : Resv := ((c.res.bind fun r => s.resv? fc r)).getD { team := 0, base := 0, len := 0, fmt := 0, blk := 0, sp := false, slay := false, soff := 0 }
  let off := bits d 31 8
  match c.kind with
  | .obS | .obO =>
    if c.bad || decide (256 * rv.len < off + c.len) then (s, ill [])
    else if !tm.inScratch c.addr c.len then (s, .fault 8 c.addr 0 [])
    else if c.kind == .obS then
      (if s.scHurt o.team c.addr c.len then (s, .fault 0x0E c.addr 0 [])
       else (s.obWr fc o.ctx rv off (s.scRd o.team c.addr c.len), .done))
    else if s.obHurt fc rv off c.len then (s, .fault 0x0E off 0 [])
    else
      let bs := s.obRd fc rv off c.len
      ((s.scPut o.team core c.addr bs).digestPart o.team o.id true c.addr bs, .done)
  | .can => (s, .done)
  | .pf =>
    match s.copyTsr w c with
    | (s, .error .delayed) => (s, .delayed)
    | (s, .error _) => (s, .done)
    | (s, .ok t) =>
      ((List.range t.rows).foldl (fun s q => (t.row (t.rowAt cs q)).foldl (fun s e =>
        let (ok, a) := t.elem e
        if !ok then s
        else match s.copySpot w .load 1 a with
          | (s, .ok p) => let (_, fill, s) := s.loadAt w.die p.cls p.pa 1 (hintOf c.hint); if fill then s.countPage w p else s
          | (s, .error _) => s) s) s, .done)
  | k =>
    match s.copyTsr w c with
    | (s, .error x) => (s, x)
    | (s, .ok t) =>
      let row := t.rowBytes
      let n := row * t.rows
      let badD := dscPitch d row % 2 ^ bits d 50 48 != 0 || decide (dscPitch d row < (row + 15) / 16)
      let h := hintOf (bits d 56 55)
      match k with
      | .obG =>
        if decide (256 * rv.len < off + n) then (s, ill cs)
        else s.copyRows t cs fun s q e =>
          match s.rowGet w t e .n with
          | (s, .ok bs) => (s.obWr fc o.ctx rv (off + q * row) bs, .ok ())
          | (s, .error x) => (s, .error x)
      | .in_ =>
        if badD || row % 16 != 0 then (s, ill cs)
        else s.copyRows t cs fun s q e =>
          match (List.range (row / 16)).find? fun j => !tm.inScratch (dscChunk d row q j) 16 with
          | some j => (s, .error (.fault 8 (dscChunk d row q j) q e))
          | none =>
            match s.rowGet w t e h with
            | (s, .error x) => (s, .error x)
            | (s, .ok bs) =>
              let chunk (j : Nat) : Nat × List Byte := (dscChunk d row q j, (bs.drop (16 * j)).take 16)
              let cs := sortBy (fun a b => a.1 ≤ b.1) ((List.range (row / 16)).map chunk)
              (cs.foldl (fun s c => (s.scPut o.team core c.1 c.2).digestPart o.team o.id true c.1 c.2) s, .ok ())
      | k =>
        let op := match k with | .red o => some o | _ => none
        if badD || (op.isSome && t.size != 4) then (s, ill cs)
        else s.copyRows t cs fun s q e =>
          let m := (row + 15) / 16
          match (List.range m).find? fun j => !tm.inScratch (dscChunk d row q j) 16 with
          | some j => (s, .error (.fault 8 (dscChunk d row q j) q e))
          | none =>
            match (List.range m).find? fun j => s.scHurt o.team (dscChunk d row q j) 16 with
            | some j => (s, .error (.fault 0x0E (dscChunk d row q j) q e))
            | none =>
            let bs := ((List.range m).flatMap fun j => s.scRd o.team (dscChunk d row q j) 16).take row
            match s.rowPut w t e bs h op with
            | (s, .error x) => (s, .error x)
            | (s, .ok _) =>
              let inb := (t.row e).zipIdx.filter fun x => (t.elem x.1).1
              (match inb with
                | [] => s
                | x :: _ => s.digestPart o.team o.id false (t.elem x.1).2 (inb.flatMap fun y => (bs.drop (y.2 * t.size)).take t.size), .ok ())

/-- A command no longer counts in its reservation's USERS (R240). -/
def State.copyClose (s : State) (o : POp) (c : CopyCmd) : State :=
  match c.res with | some r => s.updResv (s.team o.team).first r fun v => { v with users := v.users - 1 } | none => s
/-- A command stopped by CPYCAN: complete for its flag, without error and without publication (R243). -/
def State.copyCancel (s : State) (core : Nat) (o : POp) : State :=
  match o.kind with | .copy c => ((s.copyClose o c).digestClose o.team o.id).complete core o [] | _ => s
/-- The lowest free copy slot of a core (R238). -/
def Core.copySlot (c : Core) : Option Nat :=
  let used := c.ops.filterMap fun o => match o.kind with | .copy x => some x.slotNo | _ => none
  (List.range Config.copySlots).find? fun n => !used.contains n
/-- Whether a copy command's writes are folded into a digest (R349). -/
def CopyKind.folds : CopyKind → Bool | .in_ => true | .out => true | .obO => true | .red _ => true | _ => false
/-- A copy command issued (R238, R241): with all slots in use it does not issue; the ring option takes its publish position. -/
def State.copyIssue (s : State) (i : Instr) (act : W32) (c : CopyCmd) : State :=
  if act == 0 then s.idleL i
  else
    match (s.core s.cur.core).copySlot with
    | none => s.stalled
    | some k =>
      let d := c.dsc.toNat
      let ri := bits d 54 52
      let r := s.ring s.g.team ri
      let rn := c.kind == .in_ && d.testBit 51
      if rn && r.n != 0 && decide (r.p ≤ r.qr) then s.stalled
      else
        let c := { c with slotNo := k, ring := if rn && r.n != 0 then some (ri, r.qr) else none, bad := c.bad || (rn && r.n == 0) }
        let s := if c.ring.isSome then s.updRing s.g.team ri fun r => { r with qr := r.qr + 1 } else s
        let w := s.who (firstLane act)
        let s := match c.kind with | .red _ => (s.noRollW w).noAudit w | _ => s
        let s := if c.kind.folds then s.digestLater s.cur.core s.cur.slot (firstLane act) s.serial else s
        ((s.pushOp i act (.copy c)).finish i).wdRingClear s.cur.core s.cur.slot
/-- A CPYOB's reservation at its issue (R240): counted when the team holds it; malformed when it is releasing or format-only. -/
def State.obName (s : State) (word : W64) : State × Option Nat × Bool :=
  let n := word.toNat
  let id := n % 16
  let fc := s.tm.first
  let rsv := bits n 63 32 != 0 || bits n 7 4 != 0 || bits n 31 8 % 16 != 0
  match s.resv? fc id with
  | some v =>
    if v.team == s.g.team then
      (s.updResv fc id fun v => { v with users := v.users + 1 }, some id, rsv || v.releasing || v.len == 0)
    else (s, none, true)
  | none => (s, none, true)
/-- Three coordinate registers. -/
def State.coord (s : State) (k : SReg) : List W64 := [s.srd k, s.srd (k + 1), s.srd (k + 2)]

/-- TSRSET (R237): the record's words, checked; stored as eight 8-byte writes, or the first bad word's number plus 1. -/
def execTsrset (c : Ctl) (d a : Opnd) (k : BitVec 4) (s : State) : Out :=
  let i : Instr := .tsrset c d a k
  let act := s.active c
  let f := firstLane act
  let ws := (blockRegs k).map s.srd
  .next (if act == 0 then s.idleL i
    else match tsrOf (ws.map BitVec.toNat) with
    | .error j => (s.pushOp i act (.done (wbOne d act (BitVec.ofNat 32 (j + 1))))).finish i
    | .ok _ =>
      s.access i act .store 64 64 (lanesAt act fun _ => (s.rd64 a f).toNat) (s.detStore f) (s.detWhy f) fun s ps =>
        let p := ps.headD default
        match s.twinWait (s.who f) ps with
        | some t => t
        | none => if s.detPoison (s.who f) p.pa then (s.poisonTrap act [p] 64).getD s
        else
          let s := (s.noteFenced [p] 64).store (s.who f) p (ws.flatMap fun w => leBytes 8 w.toNat) .n
          (s.pushOp i act (.done (wbOne d act 0))).finish i)
/-- CPYIN (R240, R241). -/
def execCpyin (c : Ctl) (t k dsc : SReg) (s : State) : Out :=
  .next (s.copyIssue (.cpyin c t k dsc) (s.active c)
    { kind := .in_, tsrVa := (s.srd t).toNat, coord := s.coord k, dsc := s.srd dsc, bad := dscBad (s.srd dsc).toNat .in_ })
/-- CPYOUT (R240). -/
def execCpyout (c : Ctl) (t k dsc : SReg) (s : State) : Out :=
  .next (s.copyIssue (.cpyout c t k dsc) (s.active c)
    { kind := .out, tsrVa := (s.srd t).toNat, coord := s.coord k, dsc := s.srd dsc, bad := dscBad (s.srd dsc).toNat .out })
/-- CPYOB.g (R240). -/
def execCpyobG (c : Ctl) (t k ob : SReg) (s : State) : Out :=
  let act := s.active c
  let (s', res, bad) := if act == 0 || (s.core s.cur.core).copySlot.isNone then (s, none, false) else s.obName (s.srd ob)
  .next (s'.copyIssue (.cpyobG c t k ob) act
    { kind := .obG, tsrVa := (s.srd t).toNat, coord := s.coord k, dsc := s.srd ob, res, bad })
/-- CPYOB.s and CPYOB.o: a scratchpad address and a length, each of lane first(active) (R238, R240). -/
def State.copyLinear (s : State) (i : Instr) (act : W32) (kind : CopyKind) (a len : Opnd) (ob : SReg) : State :=
  let f := firstLane act
  let n := (s.rd len f).toNat
  let addr := (s.rd a f).toNat
  let (s', res, bad) := if act == 0 || (s.core s.cur.core).copySlot.isNone then (s, none, false) else s.obName (s.srd ob)
  s'.copyIssue i act { kind, addr, len := n, dsc := s.srd ob, res,
                       bad := bad || addr % 16 != 0 || n % 16 != 0 || n == 0 || decide (262144 < n) }
/-- CPYOB.s: scratchpad to buffer (R240). -/
def execCpyobS (c : Ctl) (a len : Opnd) (ob : SReg) (s : State) : Out :=
  .next (s.copyLinear (.cpyobS c a len ob) (s.active c) .obS a len ob)
/-- CPYOB.o: buffer to scratchpad (R240). -/
def execCpyobO (c : Ctl) (a len : Opnd) (ob : SReg) (s : State) : Out :=
  .next (s.copyLinear (.cpyobO c a len ob) (s.active c) .obO a len ob)
/-- CPYRED (R240). -/
def execCpyred (c : Ctl) (t k dsc : SReg) (op : CpyRedOp) (s : State) : Out :=
  .next (s.copyIssue (.cpyred c t k dsc op) (s.active c)
    { kind := .red op, tsrVa := (s.srd t).toNat, coord := s.coord k, dsc := s.srd dsc, bad := dscBad (s.srd dsc).toNat (.red op) })
/-- CPYPF (R240). -/
def execCpypf (c : Ctl) (t k : SReg) (hint : Hint) (s : State) : Out :=
  .next (s.copyIssue (.cpypf c t k hint) (s.active c)
    { kind := .pf, tsrVa := (s.srd t).toNat, coord := s.coord k, hint := match hint with | .n => 0 | .ef => 1 | .el => 2 })
/-- CPYCAN (R243): it holds a slot itself (R238), and stops no CPYCAN. -/
def execCpycan (c : Ctl) (mask : BitVec 12) (s : State) : Out :=
  let i : Instr := .cpycan c mask
  let act := s.active c
  let core := s.cur.core
  .next (if act == 0 then s.idleL i
    else if (s.core core).copySlot.isNone then s.stalled
    else
      let os := ((s.core core).opsOf s.cur.slot).filter fun o =>
        match o.kind, o.flag with | .copy x, some f => x.kind != .can && mask.getLsbD f | _, _ => false
      (os.foldl (fun s o => s.copyCancel core o) s).copyIssue i act { kind := .can })

/-- OBRES (R265). -/
def execObres (c : Ctl) (d : Opnd) (a : SReg) (s : State) : Out :=
  let i : Instr := .obres c d a
  let act := s.active c
  let n := (s.srd a).toNat
  let fc := s.tm.first
  let base := bits n 9 0
  let len := bits n 20 10
  let sp := n.testBit 30
  let soff := bits n 49 32
  let say (s : State) (v : Nat) : State := (s.pushOp i act (.done (wbOne d act (BitVec.ofNat 32 v)))).finish i
  .next (if act == 0 then s.idleL i
    else if bits n 63 50 != 0 || bits n 23 21 != 0 || decide (1024 < base + len) || (sp && len == 0)
        || (sp && decide (256 * len < soff + 128)) then say s 0x80000001
    else match firstFree (s.core fc).resv 16 with
    | none => say s 0x80000002
    | some id =>
      if len != 0 && ((s.core fc).resv.any fun r => r.2.team != s.g.team && r.2.len != 0 && decide (r.2.base < base + len)
          && decide (base < r.2.base + r.2.len)) then say s 0x80000003
      else
        let v : Resv := { team := s.g.team, base, len, fmt := bits n 27 24, blk := bits n 29 28, sp, slay := n.testBit 31, soff }
        let scrub := (List.range len).filter fun u => match aget (s.core fc).obCtx (base + u) with | some x => x != s.tm.ctx | none => false
        -- a byte of the range that no reservation of the team held: its context's byte, or zero, by a free choice (R176)
        let keep (b : Nat) : Bool :=
          decide (b / 256 < base) || decide (base + len ≤ b / 256) ||
            (!(scrub.contains (b / 256 - base)) &&
              (((s.core fc).resv.any fun r => decide (r.2.base ≤ b / 256) && decide (b / 256 < r.2.base + r.2.len)) ||
                (Config.free s.freeCtr b).getLsbD 0))
        let s := s.drew.updCore fc fun k => { k with
          resv := aset k.resv id v
          ob := k.ob.filter fun b => keep b.1
          obCtx := scrub.foldl (fun l u => adel l (base + u)) k.obCtx }
        say s id)
/-- OBREL (R266): the record is releasing from its issue; the command completes when USERS reaches 0. -/
def execObrel (c : Ctl) (a : Opnd) (s : State) : Out :=
  let i : Instr := .obrel c a
  let act := s.active c
  let id := (s.rd a (firstLane act)).toNat % 16
  let fc := s.tm.first
  .next (if act == 0 then s.idleL i
    else match s.resv? fc id with
    | some v =>
      if v.team == s.g.team && !v.releasing then
        ((s.updResv fc id fun v => { v with releasing := true }).pushOp i act (.obrel id)).finish i
      else if v.team == s.g.team then (s.pushOp i act (.obrel id)).finish i
      else (s.pushOp i act (.done [])).finish i
    | none => (s.pushOp i act (.done [])).finish i)
/-- The lanes' byte offsets in a reservation (R267), and the checks: the earliest that fails, its lanes, the lowest one's offset. -/
def State.obOffs (s : State) (act : W32) (a : SReg) (b : Opnd) : List (Nat × Nat) :=
  (lanesOf act).map fun l => (l, (BitVec.ofNat 32 (bits (s.srd a).toNat 31 8) + s.rd b l).toNat)
def State.obBad (s : State) (a : SReg) (n : Nat) (l : List (Nat × Nat)) : Option (Nat × W32 × Nat) :=
  let mis := l.filter fun p => p.2 % n != 0
  let fc := s.tm.first
  let out := match s.resv? fc ((s.srd a).toNat % 16) with
    | some v => if v.team == s.g.team && !v.releasing && v.len != 0 then l.filter fun p => decide (256 * v.len < p.2 + n) else l
    | none => l
  let say (cause : Nat) (x : List (Nat × Nat)) := some (cause, maskOf fun i => x.any (·.1 == i), (x.map (·.2)).headD 0)
  if !mis.isEmpty then say 7 mis else if !out.isEmpty then say 8 out else none
def State.obRec (s : State) (a : SReg) : Resv :=
  (s.resv? s.tm.first ((s.srd a).toNat % 16)).getD { team := 0, base := 0, len := 0, fmt := 0, blk := 0, sp := false, slay := false, soff := 0 }
/-- OBPUT (R267). -/
def execObput (c : Ctl) (a : SReg) (b e : Opnd) (w128 : Bool) (s : State) : Out :=
  let i : Instr := .obput c a b e w128
  let act := s.active c
  let n := if w128 then 16 else 4
  let l := s.obOffs act a b
  .next (if act == 0 then s.idleL i
    else match s.obBad a n l with
    | some (cause, m, va) => s.trapW cause m va 5 0
    | none =>
      let v := s.obRec a
      ((l.foldl (fun s p => s.obWr s.tm.first s.tm.ctx v p.2 (s.stBytes e n p.1)) s).pushOp i act (.done [])).finish i)
/-- OBGET: the result is always G (R267). -/
def execObget (c : Ctl) (d : Opnd) (a : SReg) (b : Opnd) (w128 : Bool) (s : State) : Out :=
  let i : Instr := .obget c d a b w128
  let act := s.active c
  let n := if w128 then 16 else 4
  let l := s.obOffs act a b
  .next (if act == 0 then s.idleL i
    else match s.obBad a n l with
    | some (cause, m, va) => s.trapW cause m va 5 0
    | none =>
      let v := s.obRec a
      match l.find? fun p => s.obHurt s.tm.first v p.2 n with
      | some p => s.sramTrap act p.2 6
      | none =>
      let vals := l.map fun p => (p.1, s.obRd s.tm.first v p.2 n)
      (s.pushOp i act (.done (ldWbs d act n false false vals))).finish i)

end Sys2Proof.Machine
end

