-- ==== Sys2Proof/Machine/Matrix.lean ====
section
/-! DEFINITION. The matrix engine (R244 to R263, R268 to R270): commands and their sections, offers and held registers, where
operands are read, the sums of R104, and the three instructions. -/
namespace Sys2Proof.Machine

/-- K per step and slice bytes of a width (R246). -/
def matKs : Nat → Nat | 2 => 128 | 4 => 64 | 8 => 32 | 16 => 16 | _ => 32
def matSl : Nat → Nat | 32 => 128 | _ => 32

/-- The fields of a command block (R250, R251), word 4, 5, 6 and 7 and the descriptors. -/
def MatCmd.w (m : MatCmd) (i : Nat) : Nat := (m.blk.getD i 0).toNat
def MatCmd.steps (m : MatCmd) : Nat := bits (m.w 4) 15 0
def MatCmd.inc (m : MatCmd) (b : Bool) : Nat := if b then bits (m.w 4) 63 40 else bits (m.w 4) 39 16
def MatCmd.res (m : MatCmd) (b : Bool) : Nat := if b then bits (m.w 6) 7 4 else bits (m.w 6) 3 0
def MatCmd.src (m : MatCmd) (b : Bool) : Nat := if b then bits (m.w 6) 11 10 else bits (m.w 6) 9 8
def MatCmd.shape (m : MatCmd) : Nat := bits (m.w 6) 13 12
def MatCmd.tri (m : MatCmd) : Bool := (m.w 6).testBit 14
def MatCmd.dsc (m : MatCmd) (b : Bool) (i : Nat) : Nat := m.w ((if b then 2 else 0) + i)
/-- A 32-bit field read as signed. -/
def sgn32 (n : Nat) : Int := (BitVec.ofNat 32 n).toInt
/-- The row and column of local element (mm, nn) of tile group j in the tile (R245). -/
def MatCmd.row (m : MatCmd) (j mm : Nat) : Nat := if m.shape != 0 then mm + 64 * (j % 2) else mm
def MatCmd.col (m : MatCmd) (j nn : Nat) : Nat := if m.shape == 2 then nn + 64 * (j / 2) else nn
/-- Whether an element is masked (R257). -/
def MatCmd.masked (m : MatCmd) (r c : Nat) : Bool :=
  m.tri && decide (sgn32 (bits (m.w 5) 31 0) < (sgn32 (bits (m.w 7) 63 32) + c) - (sgn32 (bits (m.w 7) 31 0) + r))
/-- Whether a sub-tile of section j is wholly masked, and skipped (R257). -/
def MatCmd.skips (m : MatCmd) (j p q : Nat) : Bool := m.masked (m.row j (16 * p + 15)) (m.col j (16 * q))
/-- Whether the local row (of A) or column (of B) of section j is read by some sub-tile. -/
def MatCmd.reads (m : MatCmd) (b : Bool) (j i : Nat) : Bool :=
  (List.range 4).any fun k => if b then !m.skips j k (i / 16) else !m.skips j (i / 16) k

/-- The record of an operand; a command that is not malformed names one its team holds. -/
def State.matRec (s : State) (o : POp) (m : MatCmd) (b : Bool) : Resv :=
  (s.resv? (s.team o.team).first (m.res b)).getD { team := 0, base := 0, len := 0, fmt := 0, blk := 0, sp := false, slay := false, soff := 0 }
def Resv.format (v : Resv) : Fmt := Fmt.ofCode (BitVec.ofNat 4 v.fmt)
def Resv.block (v : Resv) : Nat := 16 * 2 ^ v.blk
/-- The registers of a register source (R253). -/
def MatCmd.srcRegs (m : MatCmd) (b : Bool) (width : Nat) : List Nat :=
  if m.src b != 0 || m.zero then []
  else
    let w := matSl width / 4
    let n := if m.inc b == 0 then 1 else m.steps
    ((List.range n).flatMap fun s => (List.range (2 * w)).map fun k => bits (m.dsc b 0) 8 0 + s * m.inc b + k).eraseDups
/-- Every register a command uses in a tile group: the accumulators and the operand registers (R253, R259). -/
def State.matRegs (s : State) (o : POp) (m : MatCmd) : List Nat :=
  let width := (s.matRec o m false).format.width
  ((List.range 128).map (m.d + ·)) ++ m.srcRegs false width ++ m.srcRegs true width
/-- Registers of a group that a word wants in the register store (R81): those it reads, writes or kills, and those that it hands to the
engine, which the engine reads as it runs (R258, R270). -/
def State.spillNeeds (s : State) (g : Group) (i : Instr) : List Nat :=
  if g.spilled.isEmpty then []
  else
    let own := match i.tab with | some t => t.vreads ++ t.vwrites ++ t.killed | none => []
    let o : POp := { id := 0, slot := 0, tag := 0, pc := 0, lanes := 0, team := g.team, kind := .ready }
    own ++ (match i with
      | .mloop _ d k => s.matRegs o { d, blk := (blockRegs k).map g.sreg }
      | .mready _ a n => (List.range n.toNat).map (a + ·)
      | _ => [])
/-- A command that is malformed, found before any access (R252, R253). -/
def State.matBad (s : State) (o : POp) (m : MatCmd) (budget : Nat) : Bool :=
  if m.bad then true
  else if m.zero then false
  else
    let va := s.matRec o m false
    let vb := s.matRec o m true
    let width := va.format.width
    let k := m.steps * matKs width
    let side (b : Bool) : Bool :=
      let v := s.matRec o m b
      let d0 := m.dsc b 0
      let d1 := m.dsc b 1
      (match m.src b with
        | 0 => d0 / 2 ^ 9 != 0 || d1 != 0
        | 1 => d1 / 8 != 0 || bits d0 31 0 % 16 != 0 || bits d0 47 32 % 2 ^ (d1 % 8) != 0
        | 2 => d0 / 2 ^ 32 != 0 || d1 != 0 || d0 % 16 != 0 || v.len == 0
        | _ => true)
      || (v.sp && v.len == 0) || (v.sp && k % v.block != 0)
    m.w 6 / 2 ^ 20 != 0 || (m.w 6).testBit 15 || m.steps == 0 || vb.format.width != width || side false || side true
      || (s.matRegs o m).any fun r => decide (budget ≤ r)

/-- The words of a slice of an operand (R253 to R255): row or column r of the tile, local i of section j, step t; or a fault
with its cause and, in scratchpad, its address (R262). -/
def State.matSlice (s : State) (core : Nat) (o : POp) (m : MatCmd) (b : Bool) (j i t : Nat) : Except (Nat × Option Nat) (List W32) :=
  let v := s.matRec o m b
  let sl := matSl v.format.width
  let r := if b then m.col j i else m.row j i
  let tm := s.team o.team
  match m.src b with
  | 0 =>
    let g := s.group core ((m.groups.getD j (0, 0)).1)
    let rs := (List.range (sl / 4)).map fun w => bits (m.dsc b 0) 8 0 + t * m.inc b + sl / 4 * (i / 32) + w
    if rs.any fun r => m.hurt.contains (j, r) then .error (0x0E, none) else .ok (rs.map fun r => (g.reg r).lane (i % 32))
  | 1 =>
    let d0 := m.dsc b 0
    let at_ (c : Nat) : Nat := bits d0 31 0 + 16 * ((r / 64) * bits d0 63 48 + (r % 64) * bits d0 47 32
      + ((t * m.inc b + c) ^^^ (r % 2 ^ (m.dsc b 1 % 8))))
    let chunks := (List.range (sl / 16)).map at_
    let bad := chunks.filterMap fun a =>
      if !tm.inScratch a 16 then some (8, a) else if s.scHurt o.team a 16 then some (0x0E, a) else none
    match bad.foldl (fun (m : Option (Nat × Nat)) x => match m with | some y => if x.2 < y.2 then some x else m | none => some x) none with
    | some x => .error (x.1, some x.2)
    | none => .ok (chunks.flatMap fun c => (List.range 4).map fun w => BitVec.ofNat 32 (leNat (s.scRd o.team (c + 4 * w) 4)))
  | _ =>
    let off := bits (m.dsc b 0) 31 0 + 16 * m.inc b * t + r * sl
    if 256 * v.len < off + sl then .error (8, none)
    else if s.obHurt tm.first v off sl then .error (0x0E, none)
    else .ok ((List.range (sl / 4)).map fun w => BitVec.ofNat 32 (leNat (s.obRd tm.first v (off + 4 * w) 4)))
/-- The scale of row or column r for K index k (R256); the cause of a fault beyond the reservation, or of a byte that cannot be
corrected. -/
def State.matScale (s : State) (o : POp) (m : MatCmd) (b : Bool) (r k : Nat) : Except Nat Val :=
  let v := s.matRec o m b
  if !v.sp then .ok (.fin false 1 0)
  else
    let g := k / v.block
    let nb := m.steps * matKs v.format.width / v.block
    let off := if v.slay then v.soff + nb * r + g else v.soff + 128 * g + r
    let fc := (s.team o.team).first
    if 256 * v.len ≤ off then .error 8
    else if s.obHurt fc v off 1 then .error 0x0E
    else .ok (bs8 ((s.obRd fc v off 1).headD 0).toNat)
/-- A scale where there is no fault. -/
def State.matScaleAt (s : State) (o : POp) (m : MatCmd) (b : Bool) (r k : Nat) : Val :=
  match s.matScale o m b r k with | .ok v => v | .error _ => .nan
/-- The length of a summation unit (R104). -/
def State.matUnit (s : State) (o : POp) (m : MatCmd) : Nat :=
  let va := s.matRec o m false
  let vb := s.matRec o m true
  match va.sp, vb.sp with
  | true, true => min va.block vb.block
  | true, false => va.block
  | false, true => vb.block
  | false, false => matKs va.format.width
/-- The lowest step before t1 in which a section finds a fault, its cause, and the lowest faulting scratchpad address of that step,
whose cause it then is (R262). Of several faults of the step without a scratchpad address the first is reported, by tile group, then
operand, A before B, then row or column (DESIGN CHOICE, log 86). -/
def State.matFault (s : State) (core : Nat) (o : POp) (m : MatCmd) (t1 : Nat) : Option (Nat × Nat × Nat) :=
  let ks := matKs (s.matRec o m false).format.width
  let bad (t : Nat) : List (Nat × Option Nat) :=
    (List.range m.groups.length).flatMap fun j => [false, true].flatMap fun b => (List.range 64).flatMap fun i =>
      if !m.reads b j i then []
      else
        let r := if b then m.col j i else m.row j i
        (match s.matSlice core o m b j i t with | .error a => [a] | .ok _ => [])
          ++ (List.range ks).filterMap fun k => match s.matScale o m b r (t * ks + k) with | .error c => some (c, none) | .ok _ => none
  ((List.range t1).drop m.step).findSome? fun t =>
    match bad t with
    | [] => none
    | x :: l =>
      let low := (x :: l).foldl (fun (m : Option (Nat × Nat)) y => match y.2, m with
        | some a, some z => if a < z.2 then some (y.1, a) else m
        | some a, none => some (y.1, a)
        | none, m => m) none
      some (t, low.getD (x.1, 0))
/-- The elements of a row or column over steps t0 to t1 − 1, in K order. -/
def State.matVals (s : State) (core : Nat) (o : POp) (m : MatCmd) (b : Bool) (j i t0 t1 : Nat) : List Val :=
  let f := (s.matRec o m b).format
  let n := 32 / f.width
  (List.range (t1 - t0)).flatMap fun t =>
    match s.matSlice core o m b j i (t0 + t) with
    | .ok ws => ws.flatMap fun w => (List.range n).map fun e => val (elemOf f w e) f
    | .error _ => []
/-- unit_step over the units of steps t0 to t1 − 1 (R104). -/
def matSum (int : Bool) (u : Nat) (sa sb : Nat → Val) : Nat → Nat → List Val → List Val → W32 → W32
  | 0, _, _, _, acc => acc
  | n + 1, k, as, bs, acc =>
    let prods := ((as.take u).zip (bs.take u)).map fun p => p.1.mul p.2
    let sum := sumVals .rn prods
    let acc :=
      if int then (match sum with
        | .fin neg m e => acc + BitVec.ofInt 32 ((if neg then -1 else 1) * (m * 2 ^ e.toNat : Nat))
        | _ => acc)
      else rnd ((val acc.toNat .f32).add .rn (((sa k).mul (sb k)).mul sum)) .f32 .rn
    matSum int u sa sb n (k + u) (as.drop u) (bs.drop u) acc
/-- The accumulators of tile group j after steps t0 to t1 − 1: registers d to d + 127 (R247, R270). Masked elements take FILL at the end. -/
def State.matTile (s : State) (core : Nat) (o : POp) (m : MatCmd) (j t0 t1 : Nat) : List Shaped :=
  let va := s.matRec o m false
  let vb := s.matRec o m true
  let int := va.format.isInt && vb.format.isInt && !va.sp && !vb.sp
  let ks := matKs va.format.width
  let u := s.matUnit o m
  let units := (t1 - t0) * ks / u
  let g := s.group core ((m.groups.getD j (0, 0)).1)
  let row (i : Nat) := if m.reads false j i then s.matVals core o m false j i t0 t1 else []
  let col (i : Nat) := if m.reads true j i then s.matVals core o m true j i t0 t1 else []
  let rows := (List.range 64).map row
  let cols := (List.range 64).map col
  let one (mm nn : Nat) : W32 :=
    let old := (g.reg (m.d + 64 * (mm / 32) + nn)).lane (mm % 32)
    if m.masked (m.row j mm) (m.col j nn) then (if t1 == m.steps then BitVec.ofNat 32 (bits (m.w 5) 63 32) else old)
    else matSum int u (s.matScaleAt o m false (m.row j mm)) (s.matScaleAt o m true (m.col j nn))
      units (t0 * ks) (rows.getD mm []) (cols.getD nn []) old
  (List.range 128).map fun r => gOf fun l => one (32 * (r / 64) + l) (r % 64)

/-- The matrix commands of a core, in the order in which they entered their queues. -/
def Core.matOps (c : Core) : List (POp × MatCmd) := c.ops.filterMap fun o => match o.kind with | .matrix m => some (o, m) | _ => none
/-- Whether a command stands first in every section it uses (R244). -/
def Core.matFirst (c : Core) (o : POp) (m : MatCmd) : Bool :=
  (c.matOps.filter fun p => p.1.id < o.id).all fun p => p.2.sections.all fun q => !m.sections.contains q
/-- The partner groups of a command: its tile groups but the issuer. -/
def MatCmd.partners (m : MatCmd) (o : POp) : List (Nat × Nat) := m.groups.filter (·.1 != o.slot)
/-- General entries a command's accumulators still need (R247): for those that are not G, or are shared. -/
def State.matNeeds (s : State) (core : Nat) (m : MatCmd) : Nat :=
  if m.zero then 0
  else (m.groups.flatMap fun p => (List.range 128).filter fun r =>
    let g := s.group core p.1
    g.code (m.d + r) != 3 || g.shared.contains (m.d + r)).length
/-- Whether a command could start but for its storage: first in its queues, an offer of every partner (R259). -/
def State.matOpen (s : State) (core : Nat) (o : POp) (m : MatCmd) : Bool :=
  let c := s.core core
  !m.started && c.matFirst o m && (m.partners o).all fun p => c.tag p.1 == p.2 && !(s.group core p.1).offers.isEmpty
def State.matRoom (s : State) (core : Nat) (m : MatCmd) : Bool :=
  decide ((s.storeUse core).1 + s.matNeeds core m ≤ Config.generalEntries)
/-- The age of a command: the number of its issuing group's allocation, 0 once that group has gone. -/
def State.matAge (s : State) (core : Nat) (o : POp) : Nat := if s.live core o then (s.group core o.slot).alloc else 0
/-- Whether a command older than a group waits for storage (R80, R247). -/
def State.matWants (s : State) (core alloc : Nat) : Bool :=
  (s.core core).matOps.any fun p => decide (s.matAge core p.1 < alloc) && s.matOpen core p.1 p.2 && !s.matRoom core p.2
/-- Whether a command can start (R259): its storage is granted oldest first, by the age of its issuer (R80, R247). -/
def State.matReady (s : State) (core : Nat) (o : POp) (m : MatCmd) : Bool :=
  let age := s.matAge core o
  s.matOpen core o m && (s.matNeeds core m == 0 || (s.matRoom core m && !s.matWants core age
    && !(s.core core).slots.any fun g => g.2.waits.1 && decide (g.2.alloc < age)))
/-- A command started: each partner's oldest offer is taken; one that does not cover the registers the command uses makes it
malformed (R259). -/
def State.matStart (s : State) (core : Nat) (o : POp) (m : MatCmd) : State × MatCmd :=
  let regs := s.matRegs o m
  let bad := s.matBad o m m.budget
  let (s, offs, short) := (m.partners o).foldl (fun (a : State × List (Nat × Nat) × Bool) p =>
    match (a.1.group core p.1).offers with
    | f :: r => (a.1.updGroup core p.1 fun g => { g with offers := r }, a.2.1 ++ [(p.1, f.op)],
        a.2.2 || regs.any fun x => !(decide (f.first ≤ x) && decide (x < f.first + f.n)))
    | [] => a) (s, [], false)
  let m := { m with started := true, offers := offs, bad := bad || short }
  (s.updOp core o.id fun o => { o with kind := .matrix m }, m)

/-- Registers held for a command are released; those written or killed meanwhile are undefined (R260, log 2). -/
def State.unhold (s : State) (core slot op : Nat) : State :=
  let g := s.group core slot
  let rs := (g.held.filter (·.2 == op)).map (·.1)
  let left := g.held.filter (·.2 != op)
  let undef := rs.filter fun r => g.taint.contains r && !left.any (·.1 == r)
  let g := { g with
    held := left
    taint := g.taint.filter fun r => !undef.contains r
    shared := g.shared.filter (!undef.contains ·)
    regs := undef.foldl (fun l r => aset l r (gOf fun x => s.freeW (32 * r + x))) g.regs }
  (s.updGroup core slot fun _ => g).drew
/-- Accumulators of a tile group written by the engine, in all lanes (R247). The first write of a register that the group still shares
with a template is a register copy fault (R295), and may leave the template without references (R299). -/
def State.matWrite (s : State) (core slot d : Nat) (vs : List Shaped) : State :=
  let own (r : Nat) : Bool := decide (d ≤ r) && decide (r < d + 128)
  let n := ((s.group core slot).shared.filter own).length
  let s := s.updGroup core slot fun g =>
    let regs := (vs.zipIdx).foldl (fun l v => aset l (d + v.2) v.1) g.regs
    { g with regs, shared := g.shared.filter (!own ·) }
  if n == 0 then s else (s.countCore core 0x101 n).sweep
/-- Whether a tile group still holds its slot (R88, R247). -/
def State.matLive (s : State) (core : Nat) (p : Nat × Nat) : Bool :=
  (s.group? core p.1).isSome && (s.core core).tag p.1 == p.2
/-- A command ended, with or without a fault: its USERS fall, its registers and its partners' are released, and the partners'
MREADY commands complete (R260, R262). -/
def State.matClose (s : State) (core : Nat) (o : POp) (m : MatCmd) : State :=
  let fc := (s.team o.team).first
  let s := m.users.foldl (fun s r => s.updResv fc r fun v => { v with users := v.users - 1 }) s
  let s := s.unhold core o.slot o.id
  (m.offers.foldl (fun s p =>
    let s := s.unhold core p.1 p.2
    match s.op? core p.2 with | some q => s.complete core q [] | none => s) s).sweep
/-- The accumulators after steps up to t1 written to every live tile group. -/
def State.matUpto (s : State) (core : Nat) (o : POp) (m : MatCmd) (t1 : Nat) : State :=
  let tiles := (List.range m.groups.length).map fun j => s.matTile core o m j m.step t1
  ((m.groups.zip tiles).foldl (fun s p => if s.matLive core p.1 then s.matWrite core p.1.1 m.d p.2 else s) s).countCore core 0x108 ((t1 - m.step) * m.sections.length)
/-- A command's completion: the final values (R247), or U(0) for MZERO (R268). -/
def State.matDone (s : State) (core : Nat) (o : POp) (m : MatCmd) : State :=
  let s := if m.zero then
      m.groups.foldl (fun s p => if s.matLive core p then s.matWrite core p.1 m.d (List.replicate 128 (.u 0)) else s) s
    else s.matUpto core o m m.steps
  (s.matClose core o m).complete core o []
/-- A command's fault (R262): undefined accumulators (log 2), the flag in error, the record's words. -/
def State.matFails (s : State) (core : Nat) (o : POp) (m : MatCmd) (cause step va : Nat) : State :=
  let s := (m.groups.zipIdx).foldl (fun s p => if s.matLive core p.1 then
    s.matWrite core p.1.1 m.d ((List.range 128).map fun r => gOf fun l => s.freeW (4096 * (p.2 + 1) + 32 * r + l)) else s) s
  let q := (s.group core o.slot).quad
  let ti : TrapInfo := { cause := 0x0A, pc := o.pc, lanes := 0, va,
                         x0 := BitVec.ofNat 64 (cause + 256 * (2 * q + m.entry) + 65536 * step), x1 := BitVec.ofNat 64 (m.w 7) }
  (((s.drew).matClose core o m).countCore core 0x108 ((step - m.step) * m.sections.length)).opFault core o ti
/-- A running command stopped for a pre-emption (R263): at the first end of a step that ends a summation unit; it faults if a step
up to there does (R262). -/
def State.matPause (s : State) (core : Nat) (o : POp) (m : MatCmd) : State :=
  let ks := matKs (s.matRec o m false).format.width
  let u := s.matUnit o m
  let t := ((List.range (m.steps - m.step)).map fun i => m.step + i + 1).find? fun t => t * ks % u == 0
  let t := t.getD m.steps
  if m.bad then s.matFails core o m 1 0 0
  else if m.zero then s.matDone core o m
  else match s.matFault core o m t with
  | some (step, cause, va) => s.matFails core o m cause step va
  | none => (s.matUpto core o m t).updOp core o.id fun o => { o with kind := .matrix { m with step := t } }

/-- Results on their way to some registers written at once: the engine reads them as later instructions would have (R258). -/
def Group.flush (g : Group) (regs : List Nat) : Group :=
  let hit (w : Wb) : Bool := match w with | .vec r .. => regs.contains r | _ => false
  (g.wb.filter hit).foldl Group.commit { g with wb := g.wb.filter fun w => !hit w }
/-- Registers lent from now on (R258, R260). -/
def State.lend (s : State) (regs : List Nat) (op : Nat) : State :=
  s.updG fun g =>
    let g := g.flush regs
    { g with held := regs.map (fun r => (r, op)) ++ g.held }
/-- Whether registers to be lent are still owed a write, or spilled (R81, R258). -/
def State.lendWaits (s : State) (regs : List Nat) : Bool :=
  ((s.core s.cur.core).owedV s.cur.slot).any regs.contains || s.g.spilled.any fun r => regs.contains r.1
/-- The tile groups, by QMASK (R245): slots and tags in tile order with their quadrants; none when QMASK breaks R245. -/
def State.tileGroups (s : State) (qmask shape : Nat) : Option (List ((Nat × Nat) × Nat)) :=
  let g := s.g
  let c := s.core s.cur.core
  let tag (k : Nat) : Nat := c.tag k
  if g.role == 1 then
    let i := g.index - s.tm.desc.ncopy
    let bs := (List.range 4).filter qmask.testBit
    let find (b : Nat) : Option ((Nat × Nat) × Nat) :=
      (c.slots.find? fun p => p.2.team == g.team && p.2.role == 1 && p.2.index == s.tm.desc.ncopy + 4 * (i / 4) + b).map fun p => ((p.1, tag p.1), b)
    let l := bs.filterMap find
    if qmask.testBit (i % 4) && l.length == bs.length && (shape == 0 && bs.length == 1 || shape == 1 && bs.length == 2 || shape == 2 && bs.length == 4)
    then some l else none
  else if qmask == 0 && shape == 0 then some [((s.cur.slot, tag s.cur.slot), g.quad)] else none
/-- The entry of a section's queue that a command takes: of the two, the free one; of two free ones entry 0 (R244, R262; DESIGN CHOICE,
log 85). -/
def freeEntry (inQueue : List MatCmd) (q : Nat) : Nat :=
  let at_ (m : MatCmd) : Option Nat := (m.sections.zip m.entries).lookup q
  if inQueue.any fun m => at_ m == some 0 then 1 else 0
/-- A matrix command issued (R244, R258, R270): with a full queue in a section it uses, or writes still owed to registers it
lends, it does not issue; the issuer lends its registers, and its records count one more user. One that is malformed, since it names
a record whose OBREL has issued, counts too, and delays the free (R266, R270; DESIGN CHOICE, log 88). -/
def State.matIssue (s : State) (i : Instr) (act : W32) (zero : Bool) (d : Nat) (blk : List W64) : State :=
  if act == 0 then s.idleL i
  else
    let c := s.core s.cur.core
    let m : MatCmd := { zero, d, blk }
    let tiles := s.tileGroups (bits (m.w 6) 19 16) m.shape
    let tg := tiles.getD [((s.cur.slot, c.tag s.cur.slot), s.g.quad)]
    let secs := tg.map (·.2)
    let inSec (q : Nat) : List MatCmd := (c.matOps.map (·.2)).filter fun x => x.sections.contains q
    if secs.any fun q => decide (2 ≤ (inSec q).length) then s.stalled
    else
      let entries := secs.map fun q => freeEntry (inSec q) q
      let entry := freeEntry (inSec s.g.quad) s.g.quad
      let fc := s.tm.first
      let named := if zero then [] else [m.res false, m.res true].eraseDups
      let held := named.filter fun r => ((s.resv? fc r).map (·.team)) == some s.g.team
      let open_ := held.filter fun r => !((s.resv? fc r).map (·.releasing)).getD true
      let m := { m with budget := s.g.budget, groups := tg.map (·.1), sections := secs, entry, entries, users := held,
                        bad := tiles.isNone || m.shape == 3 || open_.length != named.length }
      let dummy : POp := { id := 0, slot := s.cur.slot, tag := 0, pc := 0, lanes := 0, team := s.g.team, kind := .ready }
      let regs := (if m.bad then (List.range 128).map (d + ·) else (s.matRegs dummy m).filter fun r => decide (r < s.g.budget)).eraseDups
      if s.lendWaits regs then s.stalled
      else
        let s := held.foldl (fun s r => s.updResv fc r fun v => { v with users := v.users + 1 }) s
        let id := s.serial
        let s := (s.pushOp i act (.matrix m)).updOp s.cur.core id fun o => { o with vdest := [] }
        (s.lend regs id).finish i

/-- MZERO (R268). -/
def execMzero (c : Ctl) (d : VNum) (a : SReg) (s : State) : Out :=
  .next (s.matIssue (.mzero c d a) (s.active c) true d (List.replicate 6 0 ++ [s.srd a]))
/-- MREADY (R258, R269): a third offer waits to issue. -/
def execMready (c : Ctl) (a : VNum) (n : BitVec 9) (s : State) : Out :=
  let i : Instr := .mready c a n
  let act := s.active c
  .next (if act == 0 then s.idleL i
    else if 2 ≤ s.g.offers.length || s.lendWaits ((List.range n.toNat).map (a + ·)) then s.stalled
    else
      let id := s.serial
      let s := s.pushOp i act .ready
      let s := s.lend ((List.range n.toNat).map (a + ·)) id
      (s.updG fun g => { g with offers := g.offers ++ [{ first := a, n := n.toNat, op := id }] }).finish i)
/-- MLOOP (R270). -/
def execMloop (c : Ctl) (d : VNum) (k : BitVec 4) (s : State) : Out :=
  .next (s.matIssue (.mloop c d k) (s.active c) false d ((blockRegs k).map s.srd))

end Sys2Proof.Machine
end

