-- ==== Sys2Proof/Machine/Control.lean ====
section
/-! DEFINITION. The instructions on program counters, rejoin masks, flags and sleep (R136 to R152), and the end of a group
(R141, R366). -/
namespace Sys2Proof.Machine

/-- Whether a target holds a header, or faults on fetch, which is reported at the target (R61, R137); none while its fetch is
delayed (R362). -/
def State.goodTarget (s : State) (v : W64) : State × Option Bool :=
  if !canonical v.toNat || v.toNat % 8 != 0 then (s, some false)
  else match s.fetch s.cur.core s.g.quad s.tm.ctx (v.toNat % 2 ^ 57) with
    | (s, .ok w) => (s, some (isHeader w).isSome)
    | (s, .error (some _)) => (s, some true)
    | (s, .error none) => (s, none)
/-- Targets checked in turn: the state the fetches leave, the targets that fail, and whether some fetch is delayed (R137). -/
def State.checkTargets (s : State) (l : List W64) : State × List W64 × Bool :=
  l.foldl (fun (a : State × List W64 × Bool) v =>
    let (s, ok) := a.1.goodTarget v
    (s, if ok == some false then v :: a.2.1 else a.2.1, a.2.2 || ok.isNone)) (s, [], false)
/-- The lanes whose target returns from the handler (R368). -/
def State.returns (s : State) (act : W32) (tgt : Nat → W64) (ret : Bool) : W32 :=
  maskOf fun l => act.getLsbD l && ret && (s.g.thread l).isReturn (tgt l)
/-- The distinct targets the lanes of a transfer go to. -/
def State.targets (s : State) (act : W32) (tgt : Nat → W64) (ret : Bool) : List W64 :=
  ((lanesOf (act &&& ~~~s.returns act tgt ret)).map tgt).eraseDups
/-- Threads gone to their targets, not runnable before a cycle, or back from the handler (R137, R368). -/
def Group.goTo (g : Group) (act rets : W32) (tgt : Nat → W64) (clk : Nat) : Group :=
  { g with threads := g.threads.mapIdx fun l t =>
      if !act.getLsbD l then t
      else if rets.getLsbD l then t.resumeAt clk
      else { t with pc := (tgt l).toNat % 2 ^ 57, left := 0, wait := .redir clk } }
/-- A transfer of the active threads (R137): each goes to its target, not runnable before cycle c + 3. BADTARGET names the
threads whose target fails, and as its address the target of the lowest of them, where they differ (DESIGN CHOICE, log 67); for
those nothing has issued, and the others go on (R61). Under `ret`, a handler's link returns from the handler (R368); `link` receives
the threads that go. -/
def State.transfer (s : State) (i : Instr) (act : W32) (tgt : Nat → W64) (ret : Bool) (link : W32 → State → State) : State :=
  let rets := s.returns act tgt ret
  let (s, bad, late) := s.checkTargets (s.targets act tgt ret)
  let fail := maskOf fun l => act.getLsbD l && !rets.getLsbD l && bad.contains (tgt l)
  if late then s.stalled
  else
    let go (s : State) (m : W32) : State := ((link m s).finish i).updG fun g => g.goTo m rets tgt (s.cur.last + 3)
    let ti := s.trapOf 4 fail (tgt (firstLane fail)).toNat s.cur.word.toNat 0
    if fail == 0 then go s act
    else if !s.goesOn s.cur.core s.cur.slot fail then s.wordTrap ti
    else
      let t := s.partTrap s.cur.core s.cur.slot ti
      go { t with cur := { s.cur with mask := s.cur.mask &&& ~~~fail } } (act &&& ~~~fail)
/-- The target of BRA and CALL: PC + 8 × sext(imm26) (R138). -/
def State.relTarget (s : State) (imm : BitVec 26) : W64 := sext57 (BitVec.ofNat 57 s.cur.pc + (imm.signExtend 57) * 8).toNat
/-- The return address a call links (R139). -/
def State.linkOf (s : State) : W64 := sext57 (pcMod (s.cur.pc + 8))

/-- A rejoin mask written, limited to threads that have not exited; one that becomes 0 releases the threads that wait on it,
from the next cycle, at the word after their JARR (R143, R148). -/
def Group.setJoin (g : Group) (n : Nat) (v : W32) (clk : Nat) : Group :=
  let v := v &&& g.present
  let g := { g with joins := vset 16 0 g.joins n fun _ => v }
  if v != 0 then g
  else g.updThreads (maskOf fun l => (g.thread l).wait == .jarr n) fun t => { t with pc := pcMod (t.pc + 8), wait := .redir (clk + 1) }
/-- Whether some thread waits at a JARR on a mask. -/
def Group.awaited (g : Group) (n : Nat) : Bool := g.threads.any fun t => t.wait == .jarr n

/-- ASYNCFAULT at a wait that names flags with errors (R366). -/
def State.asyncFault (s : State) (c k : Nat) (lanes : W32) (flags : Nat) : Option State :=
  (State.firstErr (s.group c k) flags).map fun ti => s.trap c k { ti with lanes }
/-- A group without threads ends (R141): a fault no wait has reported is recorded and contained (R366); else the slot is free. -/
def State.groupEnd (s : State) (c k : Nat) : State :=
  if (s.group c k).present != 0 then s
  else match State.firstErr (s.group c k) 4095 with
    | some ti => s.trap c k { ti with lanes := 0, exited := true }
    | none =>
      let g := s.group c k
      let l := (s.team g.team).launch
      let s := if (s.team g.team).prologue && g.index == 0 && (s.launchRec l).prologue == .running then
          s.updLaunch l fun l => { l with prologue := .failed } else s
      (s.dropGroup c k).sweep

/-- BRA (R138). -/
def execBra (c : Ctl) (imm : BitVec 26) (s : State) : Out :=
  .next (s.transfer (.bra c imm) (s.active c) (fun _ => s.relTarget imm) false fun _ => id)
/-- BRX (R140). -/
def execBrx (c : Ctl) (a : Opnd) (s : State) : Out := .next (s.transfer (.brx c a) (s.active c) (s.rd64 a) false fun _ => id)
/-- CALL (R139). -/
def execCall (c : Ctl) (d : Opnd) (imm : BitVec 26) (s : State) : Out :=
  let act := s.active c
  .next (s.transfer (.call c d imm) act (fun _ => s.relTarget imm) false fun m t => t.wv64 d m (fun _ => s.linkOf) true .c)
/-- CALLX: the target is read before the link is written (R139). -/
def execCallx (c : Ctl) (d a : Opnd) (s : State) : Out :=
  let act := s.active c
  .next (s.transfer (.callx c d a) act (s.rd64 a) false fun m t => t.wv64 d m (fun _ => s.linkOf) true .c)
/-- RET: as BRX, and the return from the device trap handler (R140, R368). -/
def execRet (c : Ctl) (a : Opnd) (s : State) : Out := .next (s.transfer (.ret c a) (s.active c) (s.rd64 a) true fun _ => id)
/-- EXIT (R141): each mask an EXIT empties while a thread waits on it counts as a lost reconvergence (R148). -/
def execExit (c : Ctl) (s : State) : Out :=
  let act := s.active c
  if act == 0 then s.done (.exit c)
  else
    let g := s.g
    let lost := (List.range 16).filter fun n => g.join n != 0 && g.join n &&& ~~~act == 0 && g.awaited n
    let s := if lost.isEmpty then s else s.countCore s.cur.core 0x103 lost.length
    let s := (s.finish (.exit c)).updG fun g =>
      let g := g.updThreads act fun t => { t with wait := .empty }
      (List.range 16).foldl (fun g n => if g.join n == 0 then g else g.setJoin n (g.join n) s.cur.last) g
    .next (s.groupEnd s.cur.core s.cur.slot)
/-- JSET (R144). -/
def execJset (c : Ctl) (n : BitVec 4) (src : Option Opnd) (s : State) : Out :=
  let act := s.active c
  let v := match src with | none => act | some a => s.rd a (firstLane act)
  (if act == 0 then s else s.updG fun g => g.setJoin n.toNat v s.cur.last).done (.jset c n src)
/-- JARR (R145). -/
def execJarr (c : Ctl) (n : BitVec 4) (s : State) : Out :=
  let act := s.active c
  if act == 0 then s.done (.jarr c n)
  else .next (s.updG fun g =>
    let g := g.updThreads (s.cur.mask &&& ~~~act) Thread.past
    let g := g.updThreads act fun t => { t with left := t.left - 1, wait := .jarr n.toNat }
    g.setJoin n.toNat (g.join n.toNat &&& ~~~act) s.cur.last)
/-- JDROP (R146). -/
def execJdrop (c : Ctl) (n : BitVec 4) (s : State) : Out :=
  let act := s.active c
  (if act == 0 then s else s.updG fun g => g.setJoin n.toNat (g.join n.toNat &&& ~~~act) s.cur.last).done (.jdrop c n)
/-- JREAD (R147). -/
def execJread (c : Ctl) (d : Opnd) (n : BitVec 4) (s : State) : Out :=
  (s.wvs d (s.active c) (s.g.join n.toNat) .i).done (.jread c d n)
/-- WAITF (R149). -/
def execWaitf (c : Ctl) (mask : BitVec 12) (s : State) : Out :=
  let act := s.active c
  let g := s.g
  if act == 0 then s.done (.waitf c mask)
  else match s.asyncFault s.cur.core s.cur.slot act mask.toNat with
    | some t => .next t
    | none =>
      if (List.range 12).any fun f => mask.getLsbD f && (g.flag f).isSet (s.now s.cur.core) then
        .next (s.updG fun g =>
          (g.updThreads (s.cur.mask &&& ~~~act) Thread.past).updThreads act fun t =>
            { t with left := t.left - 1, wait := .waitf mask.toNat })
      else s.done (.waitf c mask)
/-- The clause header (R56 to R60): the threads at it enter the clause when no flag of WAIT is set, and trap when one of
them holds an error; otherwise they wait. It is no instruction and takes no cycle. -/
def execClauseHeader (wait : BitVec 12) (seta setb : BitVec 4) (len : BitVec 5) (s : State) : Out :=
  match s.asyncFault s.cur.core s.cur.slot s.cur.mask wait.toNat with
  | some t => .next t
  | none =>
    if (List.range 12).any fun f => wait.getLsbD f && (s.g.flag f).isSet (s.now s.cur.core) then .next s
    else .next (s.updG fun g => g.updThreads s.cur.mask fun t =>
      { t with pc := pcMod (t.pc + 8), seta := seta.toNat, setb := setb.toNat, left := len.toNat })
/-- SLEEP (R150). -/
def execSleep (c : Ctl) (a : Opnd) (s : State) : Out :=
  let act := s.active c
  let n := (s.rd a (firstLane act)).toNat % 65536
  let t := s.finish (.sleep c a)
  .next (t.updG fun g => g.updThreads act fun t => { t with wait := .sleep (s.cur.last + 1 + n) })

end Sys2Proof.Machine
end

