-- ==== Sys2Proof/Machine/Templates.lean ====
section
/-! DEFINITION. Templates: FREEZE, STAMP, TDROP, TINFO, SPAWN, the items and spawn bins they create (R288 to R306, R404). -/
namespace Sys2Proof.Machine

/-- The id of a template as STAMP takes it (R297): 448 names the group's own. -/
def State.tmplId (s : State) (a : Opnd) (act : W32) : Option Nat :=
  match a with
  | .zero => s.g.tmpl
  | a => let v := (s.rd a (firstLane act)).toNat; if v < 4096 then some v else none
/-- The template an id names in the issuing launch (R297, R301). -/
def State.tmplOf (s : State) (id : Option Nat) : Option (Nat × Tmpl) :=
  id.bind fun n => (aget s.tmpls n).bind fun t => if t.launch == s.tm.launch && t.ctx == s.tm.ctx then some (n, t) else none
/-- Pages of a die's template backing in use (R288, R291). -/
def State.backing (s : State) (x : Nat) : Nat := ((s.tmpls.filter (·.2.replicas.contains x)).map (·.2.pages)).foldl (· + ·) 0
/-- Pages an image takes: the fixed parts, the registers' bytes and the ranges' bytes (R288). -/
def Image.pageCount (im : Image) : Nat :=
  let rs := (im.regs.map fun r => (Shaped.bytes r.2).length).foldl (· + ·) 0
  let sc := (im.ranges.map (·.2)).foldl (· + ·) 0
  (3072 + 248 + rs + sc + 4095) / 4096
/-- The named ranges of a block, and whether one is malformed (R290, R291). -/
def rangesOf (ws : List W64) : List (Nat × Nat) :=
  ((ws.take 4).map fun w => (bits w.toNat 31 0, bits w.toNat 63 32)).filter (·.2 != 0)
/-- A range split into the blocks of R296. -/
def blocksOf (r : Nat × Nat) : List (Nat × Nat) :=
  (List.range ((r.1 % 1024 + r.2 + 1023) / 1024)).map fun k =>
    let lo := max r.1 ((r.1 / 1024 + k) * 1024)
    (lo, min (r.1 + r.2) ((r.1 / 1024 + k + 1) * 1024) - lo)

/-- The registers of a freezing group after every write that came before (R292): spilled ones as they stand (R81), those the matrix
engine holds undefined (R260, log 2). -/
def Group.frozen (g : Group) (free : Nat → W32) : Group :=
  let g := (g.wb.foldl Group.commit { g with wb := [] }).whole
  { g with regs := g.regs.map fun r => if g.held.any (·.1 == r.1) then (r.1, gOf fun l => free (32 * r.1 + l)) else r, held := [] }
/-- The image a group leaves (R292, R298): its registers, with those it still shares entered by reference, and the named ranges of
its team's scratchpad with their full/empty bits. -/
def State.imageOf (s : State) (gf : Group) (th : Thread) (rs : List (Nat × Nat)) : Image :=
  let t := gf.team
  let cells := rs.flatMap fun r => (List.range r.2).map fun j => (r.1 + j, s.scByte t (r.1 + j))
  let granules := rs.flatMap fun r => (List.range (r.2 / 16)).map fun j => r.1 / 16 + j
  { regs := gf.regs, byRef := gf.shared, sregs := gf.sregs, preds := gf.preds, joins := gf.joins
    pc := th.pc, seta := th.seta, setb := th.setb, left := th.left, ranges := rs
    bytes := cells.foldl (fun m b => memSet m b.1 b.2) []
    fe := granules.foldl (fun l q => if s.isFull t (16 * q) then setFe l q true else l) [] }
/-- The template a group was stamped from, while that is in the table, and the depth of one that it freezes (R288, R291). -/
def State.parentOf (s : State) (g : Group) : Option Nat := g.tmpl.filter fun p => (aget s.tmpls p).isSome
def Group.depth (g : Group) : Nat := g.tdepth + 1
/-- Whether a group is its launch's prologue group: the one its prologue team starts with (R289). -/
def State.isPrologue (s : State) (g : Group) : Bool := (s.team g.team).prologue && g.index == 0
/-- FREEZE (R290 to R292): the checks, each with its code; then the release, the image, and the end of the group. -/
def execFreeze (c : Ctl) (d : Opnd) (x : VNum) (k : BitVec 4) (s : State) : Out :=
  let i : Instr := .freeze c d x k
  let act := s.active c
  let g := s.g
  let tm := s.tm
  let core := s.cur.core
  let here := s.core core
  let die := dieOf core
  let ws := (blockRegs k).map s.srd
  let n := bits (ws.getD 4 0).toNat 15 0
  let ib := bits (ws.getD 4 0).toNat 47 16
  let gf := g.frozen s.freeW
  let rs := rangesOf ws
  let say (v : Nat) : Out := .next ((s.pushOp i act (.done (wbOne d act (BitVec.ofNat 32 v)))).finish i)
  let bad := g.present &&& ~~~act != 0
    || (match aget gf.regs x with | some (.u _) => false | some (.a ..) => false | _ => true)
    || rs.any (fun r => r.1 % 16 != 0 || r.2 % 16 != 0 || !tm.inScratch r.1 r.2)
    || decide (128 < n) || (n != 0 && s.isPrologue g)
    || g.flags.any (·.isSet (s.now core)) || !(here.owedV s.cur.slot).isEmpty || !(here.owedS s.cur.slot).isEmpty
    || !(here.logOf s.cur.slot).isEmpty
  if act == 0 then .next (s.idleL i)
  else if bad then say 0x80000001
  else match firstFree s.tmpls Config.templates with
  | none => say 0x80000002
  | some t =>
    if 4 < g.depth then say 0x80000003
    else
      let idv : W32 := BitVec.ofNat 32 t
      let gf := match d with | .v r => gf.writeV r allOnes32 (.u idv)
                             | .s r => { gf with sregs := aset gf.sregs r (idv.setWidth 64) } | _ => gf
      let im := s.imageOf gf (g.thread (firstLane act)).past rs
      let pages := im.pageCount
      if Config.backingPages < s.backing die + pages then say 0x80000004
      else
        let s := (s.noRollW (s.who (firstLane act))).releaseNow die tm.launch [fenceKey die] true
        let xv := (gf.reg x).affine.getD (0, 0)
        let e : Tmpl := {
          ctx := tm.ctx, launch := tm.launch, parent := s.parentOf g, depth := g.depth, fdie := die, xreg := x, xbase := xv.1
          xstride := xv.2, xu := (gf.reg x).isU, lanes := act, image := im, ahold := tm.desc.audit, replicas := [die], team := g.team, pages }
        let s := { s.drew with tmpls := aset s.tmpls t e }
        let s := s.updLaunch tm.launch fun l => { l with tmpls := l.tmpls ++ [t], prologue := if s.isPrologue g then .frozen t else l.prologue }
        let (oid, s) := s.fresh
        let s := if n == 0 then s else s.updTeam g.team fun m => { m with owed := m.owed ++ [{ id := oid, tmpl := t, next := ib, count := n }] }
        let s := s.updG fun _ => gf.updThreads act fun t => { t with wait := .empty }
        .next (s.groupEnd core s.cur.slot)

/-- The die's replica of a template, made at the first use there if its backing has room (R298). -/
def State.replica (s : State) (t x : Nat) : Option State :=
  match aget s.tmpls t with
  | none => none
  | some e =>
    if e.replicas.contains x then some s
    else if Config.backingPages < s.backing x + e.pages then none
    else some (s.updTmpl t fun e => { e with replicas := e.replicas ++ [x] })
/-- A team receives an item of a template: its ranges become template-shared, but in the team that froze it (R296). -/
def State.receive (s : State) (t team : Nat) : State :=
  match aget s.tmpls t with
  | none => s
  | some e =>
    if e.team == team || (s.team team).received.contains t then s
    else s.updTeam team fun m => { m with
      received := m.received ++ [t], blocks := m.blocks ++ ((e.image.ranges.flatMap blocksOf).map fun b => (b.1, b.2, t)) }
/-- Whether a core's free general entries cover a budget (log 23). -/
def State.headroom (s : State) (c budget : Nat) : Bool := decide ((s.storeUse c).1 + min budget Config.generalEntries ≤ Config.generalEntries)
/-- Groups and reservations of a team (R303, R304). -/
def State.teamLoad (s : State) (t : Nat) : Nat :=
  (s.groupsOf t).length + ((s.cores.flatMap fun c => c.2.bins).filter (·.2.team == t)).length
/-- An item created in a team, if the limits of R297 allow: role GENERAL, the late budget, the lowest free late index (R304);
its start acquires (R292). The first item of a template on a core waits for the room of the core's instance (R298). -/
def State.makeItem (s : State) (team : Nat) (o : Owed) : Option State :=
  let tm := s.team team
  let b := (s.kernel team).lateBudget
  if 128 ≤ s.teamLoad team then none
  else
    (s.replica o.tmpl tm.die).bind fun s =>
      (s.coreFor (tm.cores.filter fun c => s.headroom c b && s.instanceFits c o.tmpl)).map fun c =>
        let s := (s.receive o.tmpl team).acqStart tm.die false
        let g := s.newItem team o.tmpl (s.lateIndex team) 3 b (o.next % 2 ^ 32) true
        let s := s.putGroup c (s.quadFor c) g
        let less (q : Owed) : Option Owed :=
          if q.id != o.id then some q else if q.count ≤ 1 then none else some { q with next := q.next + 1, count := q.count - 1 }
        (s.updTeam team fun m => { m with owed := m.owed.filterMap less }).sweep
/-- ITEM_CREATION (R297, R303, R404): the next item a STAMP or FREEZE still owes. -/
def execItemCreation (team : Nat) (s : State) : Out :=
  .next (match (s.team team).owed with
    | o :: _ => if (s.team team).st == TeamSt.resident then (s.makeItem team o).getD s else s
    | [] => s)
/-- STAMP (R297): it ends the team's eligibility for audit, refused or not (R348). -/
def execStamp (c : Ctl) (d a : Opnd) (b : SReg) (s : State) : Out :=
  let i : Instr := .stamp c d a b
  let act := s.active c
  let w := (s.srd b).toNat
  let n := bits w 15 0
  if act == 0 then .next (s.idleL i)
  else
  let s := s.noAudit (s.who 0)
  let say (v : Nat) : Out := .next ((s.pushOp i act (.done (wbOne d act (BitVec.ofNat 32 v)))).finish i)
  if n == 0 || decide (128 < n) || bits w 63 48 != 0 then say 0x80000001
  else match s.tmplOf (s.tmplId a act) with
  | none => say 0x80000002
  | some (t, e) =>
    if e.dropped then say 0x80000003
    else
      let (oid, s) := s.fresh
      let s := s.updTeam s.g.team fun m => { m with owed := m.owed ++ [{ id := oid, tmpl := t, next := bits w 47 16, count := n }] }
      .next ((s.pushOp i act (.stamp oid (wbOne d act 0))).finish i)
/-- TDROP: it completes at issue (R300). -/
def execTdrop (c : Ctl) (a : Opnd) (s : State) : Out :=
  let i : Instr := .tdrop c a
  let act := s.active c
  if act == 0 then .next (s.idleL i)
  else
    let s := match s.tmplOf (s.tmplId a act) with
      | some (t, _) => (s.updTmpl t fun e => { e with dropped := true }).sweep
      | none => s
    .next (s.atOnce i act [])
/-- The value TINFO selects (R301). -/
def State.tinfo (s : State) (q : Option (Nat × Tmpl)) (k : Nat) : W32 :=
  if k == 1 then BitVec.ofNat 32 s.g.item
  else match q with
  | none => if k == 5 then 0 else 0xFFFFFFFF
  | some (t, e) =>
    BitVec.ofNat 32 (match k with
      | 0 => t | 2 => e.depth | 3 => e.parent.getD 0xFFFFFFFF | 4 => s.refs t | 5 => if e.dropped then 2 else 1 | _ => e.pages)
/-- TINFO (R301). -/
def execTinfo (c : Ctl) (d a : Opnd) (sel_ : BitVec 3) (s : State) : Out :=
  let i : Instr := .tinfo c d a sel_
  let act := s.active c
  .next (if act == 0 then s.idleL i
    else (s.pushOp i act (.done (wbOne d act (s.tinfo (s.tmplOf (s.tmplId a act)) sel_.toNat)))).finish i)

/-- The bin of a key on a core that still takes threads (R303). -/
def Core.binOf (c : Core) (team entry : Nat) (t : Option Nat) (n : Nat) : Option (Nat × Bin) :=
  c.bins.find? fun b => b.2.team == team && b.2.entry == entry && b.2.tmpl == t && b.2.n == n
/-- Threads of a SPAWN placed as far as its bin and the limits allow (R303): the threads that still wait. -/
def State.spawnPlace (s : State) (core team entry : Nat) (t : Option Nat) (n : Nat) (todo : List (List W32)) : List (List W32) × State :=
  let c := s.core core
  let held := (c.binOf team entry t n).map fun b => b.2
  let room := match held with | some b => if b.full then 0 else 32 - b.threads.length | none => 0
  let opens := decide (room < todo.length) && held.isNone
  let needs := decide (room < todo.length)
  if needs && decide (128 ≤ s.teamLoad team) then (todo, s)
  else if opens && (firstFree c.bins 16).isNone then (todo, s)
  else
    let s := if opens then
        match firstFree c.bins 16 with
        | some k =>
          let due := s.now core + (s.ctx (s.team team).ctx).bintmr.toNat
          s.updCore core fun c => { c with bins := aset c.bins k { team, entry, tmpl := t, n, threads := [], due } }
        | none => s
      else s
    match (s.core core).binOf team entry t n with
    | none => (todo, s)
    | some (k, b) =>
      if b.full then (todo, s)
      else
        let m := 32 - b.threads.length
        let b := { b with threads := b.threads ++ todo.take m }
        let b := { b with full := decide (b.threads.length = 32) }
        (todo.drop m, s.updCore core fun c => { c with bins := aset c.bins k b })
/-- SPAWN (R302). -/
def execSpawn (c : Ctl) (e : SReg) (v : Opnd) (n : BitVec 3) (t : Opnd) (s : State) : Out :=
  let i : Instr := .spawn c e v n t
  let act := s.active c
  let pc := (s.srd e).toNat
  if act == 0 then .next (s.idleL i)
  else if s.tm.desc.det then .next (s.trapW 0x11 act 0 2 0)
  else if pc % 8 != 0 || !canonical pc then .next (s.trapW 4 act pc s.cur.word.toNat 0)
  else
    let s := s.noAudit (s.who 0)
    let arg (l : Nat) : List W32 := match v with | .v r => (List.range n.toNat).map fun j => s.rd (.v (r + j)) l | _ => []
    let tid := match t with | .zero => none | t => (s.tmplOf (s.tmplId t act)).map (·.1)
    let (left, s) := s.spawnPlace s.cur.core s.g.team (pcMod pc) tid n.toNat ((lanesOf act).map arg)
    .next ((s.pushOp i act (if left.isEmpty then .done [] else .spawn (pcMod pc) tid n.toNat left)).finish i)
/-- BIN_TIMER_EXPIRY (R303): the bin launches with the threads it holds. -/
def execBinTimerExpiry (core bin : Nat) (s : State) : Out :=
  .next (match aget (s.core core).bins bin with
    | some b => if b.due ≤ s.now core && !b.threads.isEmpty then s.updCore core fun c => { c with bins := aset c.bins bin { b with full := true } } else s
    | none => s)
/-- A spawned group's state at its start (R303): of a template, its image as R294 gives it; arguments below the budget. -/
def State.newSpawn (s : State) (b : Bin) : Group :=
  let lanes := maskOf fun l => decide (l < b.threads.length)
  let bud := (s.kernel b.team).lateBudget
  let idx := s.lateIndex b.team
  let g := match b.tmpl with
    | some t => if (aget s.tmpls t).isSome then s.newItem b.team t idx 3 bud 0 false else s.newGroup b.team idx 3 bud b.entry lanes
    | none => s.newGroup b.team idx 3 bud b.entry lanes
  let args := ((List.range b.n).filter fun j => decide (j + 1 < bud)).map fun j => (j + 1, gOf fun l => (b.threads.getD l []).getD j 0)
  { g with
    regs := args.foldl (fun l a => aset l a.1 a.2) g.regs
    shared := g.shared.filter fun r => !(decide (1 ≤ r) && decide (r ≤ b.n))
    born := lanes
    threads := allLanes.map fun l => if lanes.getLsbD l then { pc := b.entry, wait := .run } else {} }
/-- BIN_LAUNCH (R303): a full or expired bin becomes a GENERAL group on its core, when a slot and storage are free. -/
def execBinLaunch (core bin : Nat) (s : State) : Out :=
  .next (match aget (s.core core).bins bin with
    | none => s
    | some b =>
      if !b.full || s.freeSlots core == 0 || !s.headroom core (s.kernel b.team).lateBudget
        || (s.team b.team).st != .resident then s
      else
        match (match b.tmpl with
          | some t => if (aget s.tmpls t).isNone then some s else if s.instanceFits core t then s.replica t (dieOf core) else none
          | none => some s) with
        | none => s
        | some s =>
          let s := match b.tmpl with | some t => (s.receive t b.team).acqStart (dieOf core) false | none => s
          let g := s.newSpawn b
          let s := s.putGroup core (s.quadFor core) g
          s.updCore core fun c => { c with bins := adel c.bins bin })

end Sys2Proof.Machine
end

