-- ==== Sys2Proof/Machine/Save.lean ====
section
/-! DEFINITION. Saving groups and suspending teams for a pre-emption (R42, R81, R152, R249, R263, R305, R375 to R378). -/
namespace Sys2Proof.Machine

/-- A flag's count lowered when a waiting command leaves without completing. -/
def Group.unflag (g : Group) (f : Option Nat) (clk : Nat) : Group :=
  match f with | some f => { g with flags := vset 12 {} g.flags f (FlagSt.dec · clk) } | none => g
/-- A thread put back at the word at which it waited: its clause position counts the word as not issued (R376, R377). -/
def Thread.unissue (t : Thread) : Thread := { t with left := t.left + 1, wait := .run }
/-- A ring position that an RPUB has taken given up: the positions taken after it move down (R376; log 32). -/
def State.unplace (s : State) (t i pos : Nat) : State :=
  let down (o : POp) : POp :=
    if o.team != t then o
    else match o.kind with
      | .ring .pub j p d => if j == i && decide (pos + 1 < p) then { o with kind := .ring .pub j (p - 1) d } else o
      | .copy c => match c.ring with
        | some (j, p) => if j == i && decide (pos < p) then { o with kind := .copy { c with ring := some (j, p - 1) } } else o
        | none => o
      | _ => o
  let s : State := { s with cores := s.cores.map fun c => (c.1, { c.2 with ops := c.2.ops.map down }) }
  s.updRing t i fun r => { r with qr := r.qr - 1 }
/-- A waiting command withdrawn (R376). Lanes whose full/empty operation was granted have it done and go on; the others are put
back at the word, with the registers it killed. -/
def State.withdraw (s : State) (core : Nat) (o : POp) : State :=
  let put (s : State) (back : W32) (wbs : List Wb) : State :=
    (s.delOp core o.id).updGroup core o.slot fun g =>
      let g := (wbs.foldl Group.land g).unflag o.flag (s.now core)
      let g := if back == 0 then g else { g with regs := o.killed.foldl (fun l r => if (aget l r.1).isSome then l else aset l r.1 r.2) g.regs }
      let mine := maskOf fun l => (g.thread l).wait == .op o.id
      (g.updThreads (mine &&& back) Thread.unissue).updThreads (mine &&& ~~~back) fun t => { t with pc := pcMod (t.pc + 8), wait := .run }
  match o.kind with
  | .fe todo got d n sx u =>
    let back := maskOf fun l => todo.any (·.lane == l)
    put s back (ldWbs d (maskOf fun l => got.any (·.1 == l)) n sx u got)
  | .feWait _ _ => put s allOnes32 []
  | .ring k i pos _ =>
    let s := if k == .pub && pos != 0 then s.unplace o.team i (pos - 1) else s
    put s allOnes32 []
  | .bar _ _ => (s.delOp core o.id).updGroup core o.slot fun g => g.unflag o.flag (s.now core)
  | .matrix m => if m.started then s.matPause core o m else s
  | _ => s
/-- Whether a group can be saved now (R376): its log is empty, and each of its commands is one that is withdrawn, kept or
stopped at a step. An OBREL that its reservation's commands defer (R266) is kept with them. -/
def State.canSave (s : State) (core slot : Nat) : Bool :=
  let c := s.core core
  (c.logOf slot).isEmpty && (c.opsOf slot).all fun o =>
    match o.kind with
    | .fe .. | .feWait .. | .bar .. | .matrix _ | .ready | .ring .. | .obrel _ => true
    | _ => false
/-- What a thread waits for after a save (R152): sleep and redirection are over. -/
def Thread.settleWait (t : Thread) : Thread :=
  match t.wait with | .sleep _ => { t with wait := .run } | .redir _ => { t with wait := .run } | _ => t
/-- A group's save taken (R376, R377): it issues nothing more. -/
def State.saveGroup (s : State) (core slot : Nat) : State :=
  let s := ((s.core core).opsOf slot).foldl (fun s o => s.withdraw core o) s
  s.updGroup core slot fun g =>
    let g := g.wb.foldl Group.commit { g with wb := [] }
    { g with saved := true, stop := none, threads := g.threads.map Thread.settleWait }

/-- A liveness record (R42): vector mask, scalar mask, scratchpad ranges; none makes the save full (R337). A record that cannot be
read, since its address fails translation or a check, makes it full too (DESIGN CHOICE, log 62). -/
def State.liveRecord (s : State) (core : Nat) (t : Team) (k : Nat) : State × Option (Nat × Nat × List (Nat × Nat)) :=
  if 4096 ≤ k || t.desc.livetab == 0 then (s, none)
  else
    match s.readVa { die := dieOf core, core := some core, ctx := t.ctx, engine := true } (t.desc.livetab + 128 * k) 128 with
    | (s, none) => (s, none)
    | (s, some bs) =>
      if leNat (bs.drop 120) != 0 then (s, none)
      else
        let rs := (List.range 4).map fun i => let n := leNat ((bs.drop (88 + 8 * i)).take 8); (n % 2 ^ 32, n / 2 ^ 32)
        (s, some (leNat (bs.take 40), leNat ((bs.drop 40).take 48), rs.filter (·.2 != 0)))
/-- A group as its save keeps it (R305, R377): vectors not named are not live; a scalar not named has an undefined value after
the restore (log 2); nothing is shared any more. -/
def State.keptGroup (s : State) (g : Group) (r : Option (Nat × Nat × List (Nat × Nat))) : Group :=
  let g := { g.whole with shared := [], saved := true }
  match r with
  | none => g
  | some (vm, sm, _) =>
    { g with
      regs := g.regs.filter fun x => vm.testBit x.1
      sregs := (List.range 384).foldl (fun l n =>
        if sm.testBit n then l else aset l n (s.freeW (2 * n) ++ s.freeW (2 * n + 1))) g.sregs }
/-- The group index kept in place of a tile group that has ended: no group has it (R304). -/
def endedIndex : Nat := 256
/-- A matrix command or an offer as its save keeps it: tile groups by group index in place of slots (R263). -/
def State.keptOp (s : State) (core : Nat) (o : POp) : POp :=
  let idx (p : Nat × Nat) : Nat × Nat := (if s.matLive core p then (s.group core p.1).index else endedIndex, 0)
  match o.kind with
  | .matrix m =>
    let offers := m.offers.filterMap fun p => (m.groups.find? (·.1 == p.1)).map fun q => ((idx q).1, p.2)
    { o with kind := .matrix { m with groups := m.groups.map idx, offers } }
  | _ => o
/-- The commands of a team whose groups have ended, with their cores. -/
def State.orphans (s : State) (t : Nat) : List (Nat × POp) :=
  s.cores.flatMap fun c => (c.2.ops.filter fun o => o.team == t && !s.live c.1 o).map fun o => (c.1, o)
/-- A team whose groups are all saved is suspended (R375, R378): its save is taken, and everything it held on the cluster is
free. It re-enters its launch record ahead of the teams not yet admitted (R318). Of the scratchpad ranges that liveness records name
(R42) exactly the bytes named are kept, and the full/empty bit of a granule whose first byte is (DESIGN CHOICE, log 80). -/
def State.suspend (s : State) (t : Nat) : State :=
  let s := (s.orphans t).foldl (fun s x => match x.2.kind with | .matrix m => if m.started then s.matPause x.1 x.2 m else s | _ => s) s
  let tm := s.team t
  let gs := s.groupsOf t
  let (s, kept) := gs.foldl (fun (a : State × List (Group × Option (List (Nat × Nat)))) x =>
    let (s, r) := a.1.liveRecord x.1 tm (x.2.2.saveRec.getD 4096)
    (s.drew, a.2 ++ [(s.keptGroup x.2.2 r, r.map (·.2.2))])) (s, [])
  let full := kept.any (·.2.isNone)
  let rs := kept.flatMap fun x => x.2.getD []
  let inR (a : Nat) : Bool := full || rs.any fun r => decide (r.1 ≤ a) && decide (a < r.1 + r.2)
  let fc := tm.first
  let resv := ((s.core fc).resv.filter (·.2.team == t)).map fun r => (r.1, r.2,
    ((s.core fc).ob.filter fun b => decide (256 * r.2.base ≤ b.1) && decide (b.1 < 256 * (r.2.base + r.2.len))).map fun b => (b.1 - 256 * r.2.base, b.2))
  let engine (o : POp) : Bool := match o.kind with | .matrix _ => true | .ready => true | .obrel _ => true | _ => false
  let index (c : Nat) (o : POp) : Nat := if s.live c o then (s.group c o.slot).index else endedIndex
  let ops := s.cores.flatMap fun c => (c.2.ops.filter fun o => o.team == t && engine o).map fun o => (index c.1 o, s.keptOp c.1 o)
  let bins := s.cores.flatMap fun c => (c.2.bins.filter (·.2.team == t)).map (·.2)
  let tm := { tm with
    st := .suspended, cores := [], preempt := none, copying := [], saves := kept.map (·.1), savedResv := resv, savedBins := bins, savedOps := ops
    scratch := tm.scratch.filter fun b => inR b.1, fe := tm.fe.filter fun q => inR (16 * q) }
  let cores := s.cores.map fun c => (c.1, { c.2 with
    slots := c.2.slots.filter (·.2.team != t)
    ops := c.2.ops.filter fun o => !(o.team == t && engine o)
    runs := c.2.runs.filter (·.1 != t), bins := c.2.bins.filter (·.2.team != t), resv := c.2.resv.filter (·.2.team != t) })
  (({ s with cores, teams := aset s.teams t tm }).sweep).updLaunch tm.launch fun l => { l.waits (2, t) s.time.toNat with
    suspended := l.suspended ++ [t] }
/-- Whether what a team's ended groups have begun still needs it on its cores: copies, transfers, logged words (R87, R376). -/
def State.orphaned (s : State) (t : Nat) : Bool :=
  s.cores.any (fun c => c.2.opLog.any (·.team == t))
    || (s.orphans t).any fun x => match x.2.kind with | .matrix _ => false | .done _ => false | .stamp .. => false | .ready => false | .obrel _ => false | _ => true
/-- Suspended once all its groups are saved (R375). -/
def State.trySuspend (s : State) (t : Nat) : State :=
  let gs := s.groupsOf t
  if (s.team t).preempt.isSome && !gs.isEmpty && gs.all (·.2.2.saved) && !s.orphaned t then s.suspend t else s
/-- A group whose save is due is saved as soon as it can be (R376); with a group saved already, its team may be suspended. -/
def State.trySave (s : State) (core slot : Nat) : State :=
  match s.group? core slot with
  | some g =>
    if g.saved then s.trySuspend g.team
    else if g.saveRec.isSome && s.canSave core slot then (s.saveGroup core slot).trySuspend g.team else s
  | none => s
/-- The save of a group made due under a record, or in full (R375). -/
def State.saveUnder (s : State) (core slot k : Nat) : State :=
  (s.updGroup core slot fun g => if g.saveRec.isSome then g else { g with saveRec := some k }).trySave core slot
/-- Whether some thread of a group is runnable; one under redirection counts (R142, R375). -/
def State.anyRunnable (s : State) (core : Nat) (g : Group) : Bool :=
  g.threads.any fun t => match t.wait with
    | .run => !s.headerWaits core g t | .redir _ => true | .sleep n => decide (n ≤ s.now core) | _ => false
/-- The bytes a team needs at most in the save engine's working store, and whether they are free there: teams suspended or sent away,
those asked to leave, and captures take their part (R180, R371, R375). -/
def Desc.saveSize (d : Desc) : Nat := 128 * 45056 + d.cshape * d.scratchBytes + 262144
def State.storeRoom (s : State) (t : Nat) : Bool :=
  let away (p : Nat × Team) : Bool := p.2.st == .suspended || p.2.st == .sent || p.2.preempt.isSome
  let used := (((s.teams.filter away).map fun p => p.2.desc.saveSize) ++ s.caps.map (·.bytes.length)).foldl (· + ·) 0
  decide (used + (s.team t).desc.saveSize ≤ 8 * 134217728)
/-- A pre-emption request (R375): groups with no runnable thread are saved at once, in full; the others at their next LIVE, or
at the deadline. The team is no longer eligible for audit (R348); one that runs again for an audit is not pre-empted (log 73), nor one
whose queue a trap stops (R370). -/
def State.requestPreempt (s : State) (t : Nat) : State :=
  let tm := s.team t
  if (aget s.teams t).isNone || tm.st != .resident || tm.preempt.isSome || tm.rerun.isSome || !(s.doomsWith tm.launch).isEmpty || !s.storeRoom t then s
  else
    let s := s.updTeam t fun m => { m with preempt := some (s.time.toNat + (s.die tm.die).predl.toNat), auditOk := false }
    (s.groupsOf t).foldl (fun s x => if s.anyRunnable x.1 x.2.2 then s else s.saveUnder x.1 x.2.1 4096) s
/-- After a command of a slot has ended: a save that waited for it. -/
def State.opDone (s : State) (core slot : Nat) : State := s.trySave core slot

end Sys2Proof.Machine
end

