-- ==== Sys2Proof/Machine/Queues.lean ====
section
/-! DEFINITION. The instructions on barriers, rings, the fabric, the arena, pre-emption points, software traps, the host and
the queues (R325 to R340). -/
namespace Sys2Proof.Machine

/-- DETVIOL of SEND, FGET, HCALL and QSIG in a DETERMINISTIC kernel (R325). -/
def State.detTrap (s : State) (act : W32) : State := s.trapW 0x11 act 0 3 0

/-- A team that runs again for an audit and reaches beyond itself, which its first run did not do, has failed to repeat it (R348,
R350, log 73). -/
def State.strays (s : State) : Option State := s.tm.rerun.map fun _ => s.stopRerun s.g.team

/-- A barrier of a team (R326). -/
def State.barrier (s : State) (t n : Nat) : Barrier := (s.team t).barriers.getD n { e := 0 }
def State.updBarrier (s : State) (t n : Nat) (f : Barrier → Barrier) : State :=
  s.updTeam t fun m => { m with barriers := lset m.barriers n f }
/-- A generation that has its arrivals completes: its waiting threads go on from the next cycle, and their commands are complete (R326). -/
def State.barSettle (s : State) (t n : Nat) : State :=
  let b := s.barrier t n
  if b.a < b.e then s
  else
    let s := s.updBarrier t n fun b => { b with gen := (b.gen + 1) % 256, a := 0, arrived := [] }
    (s.groupsOf t).foldl (fun s x =>
      let mine := maskOf fun l => (x.2.2.thread l).wait == .bar n b.gen
      if mine == 0 then s
      else
        let s := s.updGroup x.1 x.2.1 fun g => g.updThreads mine fun t => { t with pc := pcMod (t.pc + 8), wait := .redir (s.now x.1 + 1) }
        let os := ((s.core x.1).opsOf x.2.1).filter fun o => o.kind == .bar n b.gen
        (os.foldl (fun s o => s.complete x.1 o []) s).wdBarClear x.1 x.2.1) s
/-- An arrival counted once per group and generation (R326, R327). -/
def State.barArrive (s : State) (n : Nat) : State :=
  let g := s.g
  s.updBarrier g.team n fun b =>
    if b.arrived.contains (g.index, g.alloc) then b else { b with a := b.a + 1, arrived := b.arrived ++ [(g.index, g.alloc)] }
/-- BAR.arv (R326). -/
def execBarArv (c : Ctl) (n : BitVec 4) (s : State) : Out :=
  let i : Instr := .barArv c n
  let act := s.active c
  .next (if act == 0 then s.idleL i
    else
      let t := s.g.team
      let gen := (s.barrier t n.toNat).gen
      let s := (s.barArrive n.toNat).pushWait i act (.bar n.toNat gen)
      (s.updG fun g => g.updThreads act fun t => { t with wait := .bar n.toNat gen }).barSettle t n.toNat)
/-- BAR.arr (R326). -/
def execBarArr (c : Ctl) (n : BitVec 4) (s : State) : Out :=
  let i : Instr := .barArr c n
  let act := s.active c
  .next (if act == 0 then s.idleL i
    else ((s.barArrive n.toNat).atOnce i act []).barSettle s.g.team n.toNat)
/-- BAR.exp (R326). -/
def execBarExp (c : Ctl) (d : Opnd) (n : BitVec 4) (a : Opnd) (s : State) : Out :=
  let i : Instr := .barExp c d n a
  let act := s.active c
  let v := (s.rd a (firstLane act)).toNat
  .next (if act == 0 then s.idleL i
    else if v < 1 || 128 < v then s.atOnce i act (wbOne d act 0x80000001)
    else ((s.updBarrier s.g.team n.toNat fun b => { b with e := v }).atOnce i act (wbOne d act 0)).barSettle s.g.team n.toNat)

/-- What a ring operation finds (R329): granted with its slot, an RPUB that takes its position and waits, or a wait. `pos` is an
RPUB's position plus 1, once taken. -/
inductive RingGrant where | granted (slot : Nat) (r : Ring) | placed (pos : Nat) (r : Ring) | waits
  deriving DecidableEq, Repr, Inhabited
/-- A ring operation tried (R329). -/
def Ring.try_ (r : Ring) (k : RingOp) (pos : Nat) : RingGrant :=
  match k with
  | .acq =>
    let x := r.p % r.n
    if !r.filled.getD x false && r.phase.getD x false == r.phaseOf r.p then .granted x { r with p := r.p + 1 } else .waits
  | .pub =>
    if pos == 0 then
      if r.p ≤ r.qr then .waits
      else
        let q := { r with qr := r.qr + 1 }
        if r.q == r.qr then .granted 0 (q.publish r.qr) else .placed (r.qr + 1) q
    else if r.q == pos - 1 then .granted 0 (r.publish (pos - 1)) else .waits
  | .take =>
    let x := r.c % r.n
    if r.filled.getD x false && r.phase.getD x false == r.phaseOf r.c then .granted x { r with c := r.c + 1 } else .waits
  | .done =>
    if r.c ≤ r.d then .waits
    else
      let x := r.d % r.n
      .granted 0 { r with filled := lset r.filled x fun _ => false, phase := lset r.phase x (!·), d := r.d + 1 }
/-- The commands of a team that wait at a ring with an operation, in the order in which they began waiting. -/
def State.ringWaiters (s : State) (t i : Nat) (k : RingOp) : List (Nat × POp) :=
  ((s.cores.flatMap fun c => c.2.ops.map fun o => (c.1, o)).filter fun x =>
    x.2.team == t && (match x.2.kind with | .ring k' i' p _ => k' == k && i' == i && (k != .pub || p == 0) | _ => false))
/-- A ring instruction issued (R329, R330). -/
def State.ringIssue (s : State) (i : Instr) (act : W32) (k : RingOp) (n : Nat) (d : Opnd) : State :=
  let t := s.g.team
  let r := s.ring t n
  if act == 0 then s.idleL i
  else if r.n == 0 then s.trapW 1 act 0 s.cur.word.toNat 0
  else if !(s.ringWaiters t n k).isEmpty then s.pushWait i act (.ring k n 0 d)
  else match r.try_ k 0 with
    | .granted x r => ((s.updRing t n fun _ => r).atOnce i act (wbOne d act (BitVec.ofNat 32 x))).wdRingClear s.cur.core s.cur.slot
    | .placed p r => (s.updRing t n fun _ => r).pushWait i act (.ring k n p d)
    | .waits => s.pushWait i act (.ring k n 0 d)
/-- RACQ (R329). -/
def execRacq (c : Ctl) (d : Opnd) (i : BitVec 3) (s : State) : Out :=
  .next (s.ringIssue (.racq c d i) (s.active c) .acq i.toNat d)
/-- RPUB (R329). -/
def execRpub (c : Ctl) (i : BitVec 3) (s : State) : Out :=
  .next (s.ringIssue (.rpub c i) (s.active c) .pub i.toNat .zero)
/-- RTAKE (R329). -/
def execRtake (c : Ctl) (d : Opnd) (i : BitVec 3) (s : State) : Out :=
  .next (s.ringIssue (.rtake c d i) (s.active c) .take i.toNat d)
/-- RDONE (R329). -/
def execRdone (c : Ctl) (i : BitVec 3) (s : State) : Out :=
  .next (s.ringIssue (.rdone c i) (s.active c) .done i.toNat .zero)

/-- The 16-byte pieces of a local range, checked in order: the first that fails, as underlying cause, offset and VA; or a wait. -/
def State.localCheck (s : State) (w : Who) (k : AccKind) (va len : Nat) : State × Except (Option (Nat × Nat × Nat)) Unit :=
  (List.range (len / 16)).foldl (fun a j =>
    match a.2 with
    | .error _ => a
    | .ok _ =>
      match a.1.copySpot w k 16 ((va + 16 * j) % 2 ^ 64) with
      | (s, .ok _) => (s, .ok ())
      | (s, .error (.fault c v _ _)) => (s, .error (some (c, 16 * j, v)))
      | (s, .error _) => (s, .error none)) (s, .ok ())
/-- A local range read, whose pieces have passed their checks. -/
def State.localRead (s : State) (w : Who) (va len : Nat) : List Byte × State :=
  (List.range (len / 16)).foldl (fun (a : List Byte × State) j =>
    match a.2.copySpot w .load 16 ((va + 16 * j) % 2 ^ 64) with
    | (s, .ok p) => let (bs, s) := s.load w p 16 .n; (a.1 ++ bs, s)
    | (s, .error _) => (a.1 ++ List.replicate 16 0, s)) ([], s)
/-- The binding of a port for a context (R390). -/
def State.binding (s : State) (ctx port : Nat) : W64 := (aget s.portbind (16 * ctx + port)).getD 0
/-- SEND and FGET (R331 to R333): an entry of the port, the local checks, and the message. -/
def State.fabric (s : State) (i : Instr) (act : W32) (l k r : SReg) (send posted flag : Bool) : State :=
  if act == 0 then s.idleL i
  else if (s.descOf (s.who (firstLane act))).det then s.detTrap act
  else if let some t := s.strays then t
  else
    let lva := (s.srd l).toNat
    let rva := (s.srd r).toNat
    let ctl := (s.srd k).toNat
    let len := bits ctl 31 8
    let port := bits ctl 3 0
    let p := s.port port
    if decide (Config.portEntries ≤ p.outstanding.length) then s.stalled
    else
      let w : Who := { s.who (firstLane act) with engine := true }
      let x : Xfer := { port, seq := 0, send, posted, lva, rva, len, start := s.time.toNat }
      let go (s : State) (x : Xfer) (m : Option (Nat → OutMsg)) : State :=
        let s := (s.noRollW w).noAudit w
        let id := s.serial
        let s := s.pushOp i act (.fabric { x with seq := id })
        let s := match m with
          | some m => s.updPort port fun p => { p with outstanding := p.outstanding ++ [(id, s.cur.core, id)], out := p.out ++ [m id] }
          | none => s
        s.finish i
      let bad (c o v : Nat) : State := go s { x with err := some (c, o, v) } none
      let b := s.binding w.ctx port
      if bits ctl 63 32 != 0 || bits ctl 7 4 != 0 || len < 16 || 4194304 < len || len % 16 != 0 || lva % 16 != 0 || rva % 16 != 0 then bad 1 0 0
      else if !p.up || !b.msb then bad 0x0E 0 0
      else if send then
        match s.localCheck w .load lva len with
        | (s, .error none) => s.stalled
        | (s, .error (some (c, o, v))) => go s { x with err := some (c, o, v) } none
        | (s, .ok _) =>
          let (bs, s) := s.localRead w lva len
          go s x (some fun id => .put { seq := id, ctx := b.toNat % 256, va := rva, bytes := bs, posted, rel := flag })
      else go s x (some fun id => .getreq { seq := id, ctx := b.toNat % 256, va := rva, len, acq := flag })
/-- SEND (R331). -/
def execSend (c : Ctl) (l k r : SReg) (posted rel : Bool) (s : State) : Out :=
  .next (s.fabric (.send c l k r posted rel) (s.active c) l k r true posted rel)
/-- FGET (R331). -/
def execFget (c : Ctl) (l k r : SReg) (acq : Bool) (s : State) : Out :=
  .next (s.fabric (.fget c l k r acq) (s.active c) l k r false false acq)

/-- The pool of a lane's requests: its VA and length; none for a group that owns no slice (R334). -/
def State.pool (s : State) (lane : Nat) : Option (Nat × Nat) :=
  let d := s.tm.desc
  let n := d.groups
  if n ≤ s.g.index then none
  else
    let q := d.slice
    let base := d.arena + s.tm.index * d.arenasz + s.g.index * q
    if d.det then some ((base + lane * (q / 512 * 16)) % 2 ^ 64, q / 512 * 16) else some (base % 2 ^ 64, q)
/-- The lowest run of n clear bits (R335). -/
def findRun (n : Nat) : List Bool → Nat → Nat → Option Nat
  | [], _, _ => none
  | b :: r, i, run => if b then findRun n r (i + 1) 0 else if run + 1 == n then some (i + 1 - n) else findRun n r (i + 1) (run + 1)
/-- The bits of a bitmap's first n granules, and the bitmap with some bits set or cleared. -/
def mapBits (bs : List Byte) (n : Nat) : List Bool := (List.range n).map fun i => (bs.getD (i / 8) 0).getLsbD (i % 8)
def mapSet (bs : List Byte) (b n : Nat) (v : Bool) : List Byte :=
  bs.mapIdx fun k x => BitVec.ofNat 8 (bitsOf 8 fun j => let i := 8 * k + j; if b ≤ i && i < b + n then v else x.getLsbD j)
/-- The 16-byte pieces of the bitmaps the active lanes use, each named with the first lane that uses it. -/
def State.poolPieces (s : State) (act : W32) : List (Nat × Nat) :=
  let ls := if s.tm.desc.det then lanesOf act else (lanesOf act).take 1
  ls.flatMap fun l => match s.pool l with
    | some p => (List.range (poolMap p.2 / 16)).map fun j => (l, (p.1 + 16 * j) % 2 ^ 64)
    | none => []
/-- A bitmap read and written through its checked pieces, as relaxed accesses of the group's die (R334); a team that runs again for
an audit has private copies (R350). -/
def State.mapRead (s : State) (w : Who) (ps : List Spot) (pool : Nat × Nat) : List Byte × State :=
  match s.tm.rerun with
  | some r => (memRd r.bitmaps pool.1 (poolMap pool.2), s)
  | none => ps.foldl (fun (a : List Byte × State) p => let (bs, s) := a.2.load w p 16 .n; (a.1 ++ bs, s)) ([], s)
def State.mapWrite (s : State) (w : Who) (ps : List Spot) (pool : Nat × Nat) (bs : List Byte) : State :=
  match s.tm.rerun with
  | some r => s.updTeam s.g.team fun t => { t with rerun := some { r with bitmaps := memWr r.bitmaps pool.1 bs } }
  | none => (ps.zipIdx).foldl (fun s p => s.store w p.1 ((bs.drop (16 * p.2)).take 16) .n) s
/-- Whether a program has stored into a pool's bitmap, which makes its later pointers undefined (R334). -/
def State.spoilt (s : State) (pool : Nat × Nat) : Bool := s.tm.rerun.isNone && (s.launchRec s.tm.launch).spoiled.contains pool.1
/-- DALLOC and DFREE serve the active lanes in increasing lane order (R335): `f` answers a lane's result and the pool's bitmap. -/
def State.arena (s : State) (i : Instr) (act : W32) (f : State → Nat → Nat → List Byte → W64 × List Byte)
    (k : List (Nat × List Byte) → List Wb) : State :=
  let counted (s : State) : State := if s.tm.desc.det then s else s.noAudit (s.who 0)
  if act == 0 then s.idleL i
  else if (s.pool 0).isNone then ((counted s).pushOp i act (.done (k ((lanesOf act).map fun l => (l, leBytes 8 0))))).finish i
  else s.access i act .atomic 16 16 (if s.tm.rerun.isSome then [] else s.poolPieces act) noDet (fun _ _ => 0) fun s ps =>
    match s.poisonTrap act ps 16 with
    | some t => t
    | none =>
      let det := s.tm.desc.det
      let w : Who := { s.who 0 with team := none, own := true }
      let s := counted s
      let (vals, s) := (lanesOf act).foldl (fun (a : List (Nat × List Byte) × State) l =>
        let mine := if det then ps.filter (·.lane == l) else ps
        match a.2.pool l with
        | some p =>
          let (bs, s) := a.2.mapRead w mine p
          let (v, bs') := f s l p.2 bs
          (a.1 ++ [(l, leBytes 8 v.toNat)], if bs' == bs then s else s.mapWrite w mine p bs')
        | none => (a.1 ++ [(l, leBytes 8 0)], a.2)) ([], s)
      (s.drew.pushOp i act (.done (k vals))).finish i
/-- DALLOC (R335): in a pool whose bitmap a program has written, the pointers are free values (R334, log 2). -/
def execDalloc (c : Ctl) (d a : Opnd) (s : State) : Out :=
  let act := s.active c
  .next (s.arena (.dalloc c d a) act (fun t l len bs =>
      let n := ((s.rd a l).toNat + 15) / 16
      let pool := (t.pool l).getD (0, 0)
      match if n == 0 then none else findRun n (mapBits bs (len / 16)) 0 0 with
      | some b => (if t.spoilt pool then t.freeW (2 * l) ++ t.freeW (2 * l + 1) else BitVec.ofNat 64 (pool.1 + 16 * b), mapSet bs b n true)
      | none => (if n != 0 && t.spoilt pool then t.freeW (2 * l) ++ t.freeW (2 * l + 1) else 0, bs))
    fun vals => ldWbs d act 8 false false vals)
/-- Where pools begin beyond a lane's own: the next lane's, the next group's, the next team's (R334). -/
def State.nextPools (s : State) (lane : Nat) : List Nat :=
  let d := s.tm.desc
  let p := (s.pool lane).getD (0, 0)
  let team := d.arena + s.tm.index * d.arenasz
  ([p.1 + p.2, team + (s.g.index + 1) * d.slice, team + d.arenasz].filter fun a => (d.bitmapAt a).isSome)
/-- DFREE: a pointer that is 0, outside the pool or unaligned, or whose run includes a granule of a bitmap, be it another pool's,
changes nothing (R336). -/
def execDfree (c : Ctl) (a b : Opnd) (s : State) : Out :=
  .next (s.arena (.dfree c a b) (s.active c) (fun t l len bs =>
      let p := (s.rd64 a l).toNat
      let n := ((s.rd b l).toNat + 15) / 16
      let base := ((t.pool l).getD (0, 0)).1
      let g := (p - base) / 16
      if p == 0 || decide (p < base) || decide (base + len ≤ p) || p % 16 != 0 || decide (g < poolMap len / 16)
          || (t.nextPools l).any fun a => decide (p < a) && decide (a < p + 16 * n) then (0, bs)
      else (0, mapSet bs g n false))
    fun _ => [])

/-- LIVE (R337): a pending pre-emption saves the group here, under the record. -/
def execLive (c : Ctl) (k : BitVec 12) (s : State) : Out :=
  let act := s.active c
  let t := s.finish (.live c k)
  .next (if act == 0 || s.tm.preempt.isNone then t else t.saveUnder s.cur.core s.cur.slot k.toNat)
/-- TRAP (R338). -/
def execTrap (c : Ctl) (imm : BitVec 17) (s : State) : Out :=
  let act := s.active c
  if act == 0 then s.done (.trap c imm) else .next (s.trapW 0x12 act 0 imm.toNat 0)
/-- BKPT (R338, R369). -/
def execBkpt (c : Ctl) (imm : BitVec 17) (s : State) : Out :=
  let act := s.active c
  if act == 0 then s.done (.bkpt c imm) else .next (s.trapW 0x13 act 0 imm.toNat 0)

/-- The eight message words of a block (R339, R340). -/
def State.block (s : State) (k : BitVec 4) : List W64 := (blockRegs k).map s.srd
/-- Whether a slot of the host-call ring is taken: bit 63 of its first word, read by an acquire at .sys (R339). -/
def State.slotFull (s : State) (f : Nat) (ps : List Spot) : Bool × State :=
  let die := dieOf s.cur.core
  let s := s.acqOpenAll die ps
  let (bs, s) := s.wideLoad (s.who f) (ps.headD default) 8
  ((bs.getD 7 0).msb, s.acqCloseAll die ps true)
/-- HCALL (R339). -/
def execHcall (c : Ctl) (d : Opnd) (k : BitVec 4) (s : State) : Out :=
  let i : Instr := .hcall c d k
  let act := s.active c
  let f := firstLane act
  let say (s : State) (v : W32) : State := (s.pushOp i act (.done (wbOne d act v))).finish i
  .next (if act == 0 then s.idleL i
    else if (s.descOf (s.who f)).det then s.detTrap act
    else if let some t := s.strays then t
    else
      let x := s.ctx s.tm.ctx
      let hc := x.hcbase.toNat
      let s := s.noAudit (s.who f)
      if hc == 0 then say s 0x80000001
      else
        let slot := ((sext57 (bits hc 56 12 * 4096)).toNat + 64 * (x.hcidx.toNat % 2 ^ bits hc 3 0)) % 2 ^ 64
        s.access i act .load 8 8 [(f, slot)] noDet (fun _ _ => 0) fun s ps =>
          match s.poisonTrap act ps 8 true with
          | some t => t
          | none =>
            let die := dieOf s.cur.core
            let (full, s) := s.slotFull f ps
            if full then say s 0x80000002
            else s.access i act .store 8 8 ((List.range 8).map fun j => (f, (slot + 8 * j) % 2 ^ 64)) noDet (fun _ _ => 0) fun s _ =>
              let ws := s.block k
              let bytes := leBytes 8 ((ws.headD 0) ||| 0x8000000000000000).toNat ++ (ws.drop 1).flatMap fun w => leBytes 8 w.toNat
              let s := s.noRollW (s.who f)
              let s := (s.sysWrite { die, core := some s.cur.core, ctx := s.tm.ctx } s.tm.launch slot bytes true).getD s
              let s := s.updCtx s.tm.ctx fun x => { x with hcidx := x.hcidx + 1 }
              say (s.msi s.tm.ctx 0) x.hcidx)
/-- QSIG (R340). -/
def execQsig (c : Ctl) (d : Opnd) (q : SReg) (k : BitVec 4) (s : State) : Out :=
  let i : Instr := .qsig c d q k
  let act := s.active c
  let f := firstLane act
  let n := (s.srd q).toNat % 1024
  let say (s : State) (v : W32) : State := (s.pushOp i act (.done (wbOne d act v))).finish i
  .next (if act == 0 then s.idleL i
    else if (s.descOf (s.who f)).det then s.detTrap act
    else if let some t := s.strays then t
    else
      let x := s.queue n
      let cfg := x.cfg.toNat
      let s := s.noAudit (s.who f)
      if x.st != .running then say s 0x80000001
      else if bits cfg 15 8 != s.tm.ctx then say s 0x80000002
      else if (x.wr - x.rd).toNat == 2 ^ bits cfg 4 0 then say s 0x80000003
      else
        let slot := ((sext57 (bits x.base.toNat 56 12 * 4096)).toNat + 64 * (x.wr.toNat % 2 ^ bits cfg 4 0)) % 2 ^ 64
        s.access i act .store 8 8 ((List.range 8).map fun j => (f, (slot + 8 * j) % 2 ^ 64)) noDet (fun _ _ => 0) fun s _ =>
          let bytes := (s.block k).flatMap fun w => leBytes 8 w.toNat
          let s := s.noRollW (s.who f)
          let s := (s.sysWrite { die := dieOf s.cur.core, core := some s.cur.core, ctx := s.tm.ctx } s.tm.launch slot bytes true).getD s
          say (s.updQueue n fun x => { x with wr := x.wr + 1, sigs := x.sigs ++ [x.wr] }) x.wr)

end Sys2Proof.Machine
end

