-- ==== Sys2Proof/Machine/System.lean ====
section
/-! DEFINITION. Special registers and the steering of the instruction caches (R341 to R343). -/
namespace Sys2Proof.Machine

/-- Whether reading a register needs supervisor privilege (R342, R346). -/
def srPriv (n : Nat) : Bool := n == 0x011 || (0x110 ≤ n && n ≤ 0x118) || (0x120 ≤ n && n ≤ 0x122) || n == 0x130
/-- Whether reading a register clears eligibility for audit (R348). -/
def srLocal (n : Nat) : Bool := (4 ≤ n && n ≤ 8) || n == 0x00B || 0x100 ≤ n
/-- Numbers of the counters of a core, of a die, of the device (R346). -/
def coreCtr (n : Nat) : Bool := 0x100 ≤ n && n ≤ 0x109
def dieCtr (n : Nat) : Bool := 0x110 ≤ n && n ≤ 0x118
/-- The value of a special register (R342). -/
def State.special (s : State) (n : Nat) : W64 :=
  let c := s.cur.core
  let g := s.g
  let t := s.tm
  let x := s.ctx t.ctx
  match n with
  | 0x000 => BitVec.ofNat 64 t.index
  | 0x001 => BitVec.ofNat 64 g.index
  | 0x002 => BitVec.ofNat 64 g.item
  | 0x003 => BitVec.ofNat 64 g.role
  | 0x004 => BitVec.ofNat 64 c
  | 0x005 => BitVec.ofNat 64 (c / 4)
  | 0x006 => BitVec.ofNat 64 (dieOf c)
  | 0x007 => BitVec.ofNat 64 (s.clockOf c)
  | 0x008 => s.time
  | 0x009 => BitVec.ofNat 64 t.ctx
  | 0x00A => BitVec.ofNat 64 t.queue
  | 0x00B => BitVec.ofNat 64 (t.cores.idxOf c)
  | 0x00C => BitVec.ofNat 64 (if t.desc.watchdog == 0 then 100000000 else t.desc.watchdog)
  | 0x010 => x.bintmr
  | 0x011 => x.hcbase
  | 0x012 => x.hcidx.setWidth 64
  | n =>
    if coreCtr n then (aget (s.core c).counters n).getD 0
    else if dieCtr n then (aget (s.die (dieOf c)).counters n).getD 0
    else if n == 0x130 then BitVec.ofNat 64 (s.pcore (s.physOf c)).suspicion
    else (aget s.devCounters n).getD 0
/-- SRD (R341, R342): PRIV names every thread at the PC (R69). -/
def execSrd (c : Ctl) (d : SReg) (n : BitVec 9) (s : State) : Out :=
  let i : Instr := .srd c d n
  let act := s.active c
  if srPriv n.toNat && !(s.ctx s.tm.ctx).super then .next (s.trapW 6 s.cur.mask 0 s.cur.word.toNat 0)
  else if act == 0 then s.done i
  else
    let s := if srLocal n.toNat then s.noAudit (s.who (firstLane act)) else s
    (s.ws d (s.special n.toNat) .s).done i
/-- SWR of BINTMR and HCBASE (R341, R342). -/
def execSwr (c : Ctl) (n : BitVec 9) (e : SReg) (s : State) : Out :=
  let i : Instr := .swr c n e
  let act := s.active c
  let v := s.srd e
  if n == 0x011 && !(s.ctx s.tm.ctx).super then .next (s.trapW 6 s.cur.mask 0 s.cur.word.toNat 0)
  else if act == 0 then s.done i
  else if n == 0x010 then
    (s.updCtx s.tm.ctx fun x => { x with bintmr := if v.toNat < 16 then 16 else if 4096 < v.toNat then 4096 else v }).done i
  else
    let ok := 4 ≤ bits v.toNat 3 0 && bits v.toNat 3 0 ≤ 12
    (s.updCtx s.tm.ctx fun x => { x with hcbase := if ok then v &&& 0x01FFFFFFFFFFF00F else 0, hcidx := 0 }).done i

/-- The code lines that overlap [VA, VA + len) (R343). -/
def State.codeLines (s : State) (act : W32) (a : SReg) (b : Opnd) : List Nat :=
  let va := (s.srd a).toNat
  let n := (s.rd b (firstLane act)).toNat
  if n == 0 || !canonical va then []
  else (List.range ((va % 128 + n + 127) / 128)).map fun k => pcMod (va - va % 128 + 128 * k)
/-- A level of the instruction caches of the issue's core and quadrant: its lines, its sets, its ways. -/
def State.icLevel (s : State) (l1 : Bool) : List ICLine :=
  let k := s.core s.cur.core
  if l1 then k.l1i else k.l0i.getD s.g.quad []
def State.setIc (s : State) (l1 : Bool) (f : List ICLine → List ICLine) : State :=
  let q := s.g.quad
  s.updCore s.cur.core fun k => if l1 then { k with l1i := f k.l1i } else { k with l0i := lset k.l0i q f }
def icSets (l1 : Bool) : Nat := if l1 then 128 else 32
def icWays (l1 : Bool) : Nat := if l1 then 8 else 4
/-- A line filled into a level if it is not present; one whose check fails is dropped (R343). -/
def State.icFill (s : State) (l1 : Bool) (line : Nat) : State :=
  if (icFind (s.icLevel l1) s.tm.ctx line).isSome then s
  else match s.codeLine s.cur.core s.tm.ctx line false with
    | (s, .ok x) => s.setIc l1 fun l => icPut l (icSets l1) (icWays l1) x
    | (s, .error _) => s
/-- A line pinned, within half the ways of its set; a pin past the limit is counted (R178, R343). -/
def State.icPin (s : State) (l1 : Bool) (line : Nat) : State :=
  let s := s.icFill l1 line
  let ctx := s.tm.ctx
  match icFind (s.icLevel l1) ctx line with
  | none => s
  | some x =>
    if x.pin then s
    else
      let n := ((s.icLevel l1).filter fun y => y.pin && y.va / 128 % icSets l1 == line / 128 % icSets l1).length
      if icWays l1 / 2 ≤ n then s.countCore s.cur.core 0x104
      else s.setIc l1 fun l => l.map fun y => if y.ctx == ctx && y.va == line then { y with pin := true } else y
/-- IPF (R343). -/
def execIpf (c : Ctl) (a : SReg) (b : Opnd) (l1 : Bool) (s : State) : Out :=
  let i : Instr := .ipf c a b l1
  let act := s.active c
  .next (if act == 0 then s.idleL i
    else (((s.codeLines act a b).foldl (fun s x => s.icFill l1 x) s).pushOp i act (.done [])).finish i)
/-- IPIN (R343). -/
def execIpin (c : Ctl) (a : SReg) (b : Opnd) (l1 : Bool) (s : State) : Out :=
  let i : Instr := .ipin c a b l1
  let act := s.active c
  .next (if act == 0 then s.idleL i
    else (((s.codeLines act a b).foldl (fun s x => s.icPin l1 x) s).pushOp i act (.done [])).finish i)
/-- IUNPIN (R343). -/
def execIunpin (c : Ctl) (a : SReg) (b : Opnd) (l1 : Bool) (s : State) : Out :=
  let i : Instr := .iunpin c a b l1
  let act := s.active c
  let ctx := s.tm.ctx
  .next (if act == 0 then s.idleL i
    else
      let s' := (s.codeLines act a b).foldl (fun s x => s.setIc l1 fun l => l.map fun y =>
        if y.ctx == ctx && y.va == x then { y with pin := false } else y) s
      (s'.pushOp i act (.done [])).finish i)

end Sys2Proof.Machine
end

