-- ==== Sys2Proof/Machine/Completion.lean ====
section
/-! DEFINITION. The events that end or move on what an instruction began: completions, grants, replays, engine commands, spills
and watchdogs (R81, R86, R173, R203, R205, R238 to R263, R296, R328 to R330, R353, R363). An event whose condition does not
hold leaves the state as it is. -/
namespace Sys2Proof.Machine

/-- The record of a fabric fault (R333, R357). -/
def POp.fabricInfo (o : POp) (x : Xfer) (e : Nat × Nat × Nat) : TrapInfo :=
  { cause := 0x0A, pc := o.pc, lanes := 0, va := e.2.2, x0 := BitVec.ofNat 64 (e.1 + 256 * x.port), x1 := BitVec.ofNat 64 e.2.1 }
/-- A transfer no longer takes an entry of its port (R332). -/
def State.portDone (s : State) (port seq : Nat) : State :=
  if (s.port port).outstanding.any (·.1 == seq) then
    s.updPort port fun p => { p with outstanding := p.outstanding.filter (·.1 != seq) }
  else s
/-- The writes of a release, performed when its records are acknowledged (R200, R226), each through the translation that was checked
(R276). -/
def State.relWrites (s : State) (core : Nat) (o : POp) (ws : List RelWrite) : State :=
  ws.foldl (fun s w =>
    let who : Who := { die := dieOf core, core := some core, ctx := o.ctx, team := some o.team, thread := o.thread - o.thread % 32 + w.lane }
    s.wideStore who { lane := w.lane, va := w.va, tr := w.tr, pa := w.pa } w.bytes) s
/-- CLASS_L_COMPLETION (R86): the commands whose end nothing but time decides, or whose condition now holds. A release's write into a
region that is being moved waits (R287). -/
def execClassLCompletion (core op : Nat) (s : State) : Out :=
  .next (match s.op? core op with
    | none => s
    | some o =>
      match o.kind with
      | .done wbs => (s.complete core o wbs).opDone core o.slot
      | .release ws recs syncs sc acq =>
        if (s.recs.any fun r => recs.contains r.id) || ws.any fun w => s.movesAt w.pa then s
        else
          let s := syncs.foldl (fun s p => s.relDone p.1 p.2) (s.relWrites core o ws)
          let s := if acq then s.acqFence (dieOf core) (sc == .sys) else s
          (s.complete core o []).opDone core o.slot
      | .stamp owed wbs =>
        if (s.team o.team).owed.any (·.id == owed) then s else (s.complete core o wbs).opDone core o.slot
      | .spawn entry t n todo =>
        let (left, s) := s.spawnPlace core o.team entry t n todo
        if left.isEmpty then (s.complete core o []).opDone core o.slot
        else s.updOp core op fun o => { o with kind := .spawn entry t n left }
      | .fabric x =>
        match x.err with
        | some e => ((s.portDone x.port x.seq).opFault core o (o.fabricInfo x e)).opDone core o.slot
        | none =>
          if x.got.isSome || x.posted then ((s.portDone x.port x.seq).complete core o []).opDone core o.slot else s
      | _ => s)

/-- SLEEP_END (R150). -/
def execSleepEnd (core slot lane : Nat) (s : State) : Out :=
  .next (s.updGroup core slot fun g => { g with threads := g.threads.mapIdx fun l t =>
    if l == lane then (match t.wait with | .sleep n => if n ≤ s.now core then { t with wait := .run } else t | _ => t) else t })

/-- Registers of a group that a spill writes out (R81): those live, but for the pending, those whose producer is among its last
eight words (R83), and the held (R260). -/
def State.spillable (s : State) (core slot : Nat) (g : Group) : List (Nat × Shaped) :=
  let owed := (s.core core).owedV slot ++ (s.core core).owedM slot ++ g.recent.flatten
    ++ g.wb.filterMap fun w => match w with | .vec r .. => some r | _ => none
  g.regs.filter fun r => !owed.contains r.1 && !g.held.any (·.1 == r.1)
/-- The place of a register in the spill area of a slot: area 48 × core + slot of the region, since the manual says only that each slot
has one (R82; DESIGN CHOICE, log 82). -/
def State.spillAt (s : State) (core slot r : Nat) : Nat :=
  (s.team (s.group core slot).team).desc.spillva + Config.spillArea * (48 * core + slot) + 128 * r
/-- The agent that writes and reads it. -/
def State.spiller (s : State) (core slot : Nat) : Who :=
  { die := dieOf core, core := some core, ctx := (s.team (s.group core slot).team).ctx, engine := true, own := true }
/-- The spill area of a slot written, whose bytes the manual does not lay out: free values (log 33). -/
def State.spillBytes (s : State) (core slot : Nat) (rs : List (Nat × Shaped)) : State :=
  (rs.foldl (fun u r => (u.writeVa (s.spiller core slot) (s.spillAt core slot r.1)
    (List.replicate 32 (leBytes 4 (s.freeW r.1).toNat)).flatten).1) s).drew
/-- Registers of a group whose spill writes memory: its own. -/
def State.spillOwn (s : State) (core slot : Nat) (rs : List (Nat × Shaped)) : List (Nat × Shaped) :=
  rs.filter fun r => !(s.group core slot).shared.contains r.1
/-- Whether a spill must wait for a page in migration, or for a region that is being moved (R278, R287). -/
def State.spillLate (s : State) (core slot : Nat) (rs : List (Nat × Shaped)) : Bool :=
  (s.spillOwn core slot rs).any fun r => s.late (s.spiller core slot) .store (s.spillAt core slot r.1) 128
/-- Registers of a group spilled: its own are written to its spill area, those it shares with a template lose their reference
(R81), which may free the template (R299). -/
def State.spillRegs (s : State) (core slot : Nat) (rs : List (Nat × Shaped)) : State :=
  ((s.spillBytes core slot (s.spillOwn core slot rs)).updGroup core slot fun g => { g with
    regs := g.regs.filter fun r => !rs.any (·.1 == r.1)
    spilled := rs.foldl (fun l r => aset l r.1 r.2) g.spilled
    shared := g.shared.filter fun r => !rs.any (·.1 == r) }).sweep
/-- REGISTER_SPILL (R81): after 64 cycles of waiting, the youngest group that still has something to spill. -/
def execRegisterSpill (core : Nat) (s : State) : Out :=
  .next (if (s.core core).allocWait < 64 then s
    else
      let can := (s.core core).slots.filter fun p => !(s.spillable core p.1 p.2).isEmpty
      match can.foldl (fun (b : Option (Nat × Group)) p => match b with | some q => if q.2.alloc < p.2.alloc then some p else b | none => some p) none with
      | none => s
      | some (k, g) =>
        let rs := s.spillable core k g
        if s.spillLate core k rs then s
        else ((s.updCore core fun c => { c with allocWait := 0 }).spillRegs core k rs).countCore core 0x105)
/-- The instructions of a code word. -/
def wordInstrs (w : W64) : List Instr := match decode w with | .one i => [i] | .pair a b _ => [a, b] | .bad _ => []
/-- Whether a group waits to read a spilled register: the word at a position of one of its threads names it (R81). -/
def State.wantsBack (s : State) (core : Nat) (g : Group) (r : Nat) : Bool :=
  (g.threads.filterMap (s.position core g)).any fun p =>
    p.2 != 0 && (match (s.fetch core g.quad (s.team g.team).ctx p.1).2 with
      | .ok w => (wordInstrs w).any fun i => (s.spillNeeds g i).contains r
      | .error _ => false)
/-- The pools for which a group or a matrix command older than a group of the core waited in the last cycle (R80, R247). -/
def State.olderWaited (s : State) (core alloc : Nat) : Bool × Bool :=
  ((s.core core).slots.filter fun p => decide (p.2.alloc < alloc)).foldl (fun m p => eachOf m p.2.waits) (s.matWants core alloc, false)
/-- SPILLED_REGISTER_FETCH (R81): a register that a word of its group waits to read comes back into newly allocated storage, when there
is some that nothing older waits for (R80). -/
def execSpilledRegisterFetch (core slot reg : Nat) (s : State) : Out :=
  .next (match aget (s.group core slot).spilled reg with
    | none => s
    | some v =>
      let g := s.group core slot
      let asks := s.asks core [v.code]
      if !s.wantsBack core g reg || either (s.lacks core [v.code]) || either (bothOf asks (s.olderWaited core g.alloc))
        || s.late (s.spiller core slot) .load (s.spillAt core slot reg) 128 then s
      else s.updGroup core slot (·.unspill reg))

/-- Where the writes of a command, which lead to the state t, are the first to blocks that are template-shared: those begin to be copied,
for the core of the command's group, and the command waits until they are, as for one that is being copied already (R296). -/
def State.blocksFirst (s : State) (core team : Nat) (t : State) : Option State :=
  let bs := (s.team team).blocks.filter fun b => !(t.team team).blocks.contains b
  let new := bs.filter fun b => !(s.team team).copying.any (·.1 == b.1)
  if bs.isEmpty then none
  else some (if new.isEmpty then s else s.updTeam team fun m => { m with
    copying := m.copying ++ new.map fun b => (b.1, core, s.now core + copyCycles) })

/-- FE_GRANT (R173): the lanes of a waiting full/empty operation that its granules now allow, and what they read may be uncorrectable
(R365); FEWAIT observes its granules. -/
def execFeGrant (core op : Nat) (s : State) : Out :=
  .next (match s.op? core op with
    | none => s
    | some o =>
      match o.kind with
      | .fe todo got d n sx u =>
        let t := s
        let (wait, got, s) := s.feStep o.team core op true todo got
        if let some u := t.blocksFirst core o.team s then u
        else if let some r := t.feHurt o.team todo wait then
          t.trap core o.slot { cause := 0x0E, pc := o.pc, lanes := o.lanes, va := r.addr, x0 := 3, logged := true }
        else if wait.isEmpty then
          let s := s.complete core o (ldWbs d o.lanes n sx u got)
          ((s.updGroup core o.slot (·.wake op)).wdFeClear core o.slot).opDone core o.slot
        else s.updOp core op fun o => { o with kind := .fe wait got d n sx u }
      | .feWait todo empty =>
        let left := todo.filter fun g => s.isFull o.team g == empty
        if left.isEmpty then
          (((s.complete core o []).updGroup core o.slot (·.wake op)).wdFeClear core o.slot).opDone core o.slot
        else s.updOp core op fun o => { o with kind := .feWait left empty }
      | _ => s)

/-- A logged word run again (R363): the words that apply the checks of R223. -/
def rerun (i : Instr) (s : State) : State :=
  let of (o : Out) : State := match o with | .next t => t | _ => s
  match i with
  | .ld c d a b sz sx h is => of (execLd c d a b sz sx h is s)
  | .st c a b e sz h is => of (execSt c a b e sz h is s)
  | .lda c d a b w sc is => of (execLda c d a b w sc is s)
  | .strel c a b e w sc lz is => of (execStrel c a b e w sc lz is s)
  | .sld c d a b sz sx h => of (execSld c d a b sz sx h s)
  | .sst c a b e sz h => of (execSst c a b e sz h s)
  | .atom c d a e op w sc o => of (execAtom c d a e op w sc o s)
  | .red c a e op w sc o => of (execRed c a e op w sc o s)
  | .publish c a b is len => of (execPublish c a b is len s)
  | .clean c a b is len => of (execClean c a b is len s)
  | .inval c a b is len => of (execInval c a b is len s)
  | .tsrset c d a k => of (execTsrset c d a k s)
  | .dalloc c d a => of (execDalloc c d a s)
  | .dfree c a b => of (execDfree c a b s)
  | .hcall c d k => of (execHcall c d k s)
  | .qsig c d q k => of (execQsig c d q k s)
  | _ => s
/-- An uncorrectable fetch of the ownership entry that a partial write needs (R284): the line, when the next soft error is one
(log 30), and a write of the command's team, which led to the state t, fetched it. -/
def State.ownMiss (s : State) (o : POp) (t : State) : Option Nat :=
  let has (u : State) (line : Nat) : Bool := (u.die (homeOf line)).ownCache.contains (o.launch, line)
  match s.upsets with
  | .own line :: _ => if (s.team o.team).desc.det && !has s line && has t line && (t.team o.team).dirtied.contains line then some line else none
  | _ => none
/-- What that fetch does (R284): the line is poisoned, nothing of the write is performed, and the team is stopped. -/
def State.ownBad (s : State) (line : Nat) : State :=
  ((s.setOwn s.tm.launch line 3 s.tm.index).tookUpset.countDie (dieOf s.cur.core) 0x111).trapW 0x0E s.cur.mask 0 7 line
/-- With the team rolled back, the line is compared with its twin (R284). -/
def State.ownSame (s : State) (l line index : Nat) : State :=
  let same := s.dies.all fun d => match aget d.2.twins line with
    | some w => w.words == s.lineWords d.1 line | none => true
  if (aget s.launches l).isSome && same then s.setOwn l line 2 index else s
def State.ownUpset (s : State) (line : Nat) : State := (s.ownBad line).ownSame s.tm.launch line s.tm.index
/-- The group for which a logged word runs again: as it stands, but with the values it had at the issue; one that has ended, as it
was (R87, R363). -/
def LogEntry.actor (e : LogEntry) (now : Option Group) : Group :=
  match now with
  | some g => ({ g with regs := e.group.regs, spilled := e.group.spilled, held := e.group.held, sregs := e.group.sregs, preds := e.group.preds } : Group).updThreads
      e.cur.mask fun t => let u := e.group.thread (firstLane e.cur.mask); { t with seta := u.seta, setb := u.setb }
  | none => e.group
/-- A slot given back, after a logged word has run, to the group that holds it; unless its team has been stopped meanwhile. -/
def State.giveBack (s : State) (core slot tag : Nat) (was : Option Group) : State :=
  let stays (g : Group) : Bool := (aget s.teams g.team).isSome && !(s.team g.team).rerun.any (·.trapped)
  s.updCore core fun c => match was.filter stays with
    | some g => { c with slots := aset c.slots slot g, tags := aset c.tags slot tag }
    | none => { c with slots := adel c.slots slot, tags := aset c.tags slot (if was.isSome then (tag + 1) % 256 else tag) }
/-- The results of a logged word, now begun, without what a trap's link has written over since (R85). -/
def State.loseOver (s : State) (core : Nat) (before : List POp) (e : LogEntry) : State :=
  let less (l : List Wb) : List Wb := e.lost.foldl (fun l x => l.filterMap (Wb.trim · (.vec x.1 x.2 (.u 0) 0))) l
  let new (o : POp) : POp :=
    if before.any (·.id == o.id) then o else match o.kind with | .done l => { o with kind := .done (less l) } | _ => o
  if e.lost.isEmpty then s else s.updCore core fun k => { k with ops := k.ops.map new }
/-- An operand-log entry found uncorrectable as it is replayed (R365, R372). -/
def State.logBad (s : State) : State := (s.tookUpset.countDie (dieOf s.cur.core) 0x111).trapW 0x0E s.cur.mask 0 1 0
/-- OPERAND_LOG_REPLAY (R363, R365): the oldest logged word of a slot, from its logged values, as if issued now. A word that
meets a soft fault again stays in the log. A group that has ended still has its logged words performed (R87). What the word traps
for is taken once the group has its own registers again, which are those it captures (R371). -/
def execOperandLogReplay (core slot : Nat) (s : State) : Out :=
  .next (match (s.core core).opLog.find? (·.slot == slot) with
    | none => s
    | some e =>
      let c := s.core core
      let was := aget c.slots slot
      let tag := c.tag slot
      let mine := if tag == e.tag then was else none
      let now := s.now core
      let s1 := s.updCore core fun c => { c with
        opLog := c.opLog.erase e, slots := aset c.slots slot (e.actor mine), tags := aset c.tags slot e.tag }
      let s1 : State := { s1 with cur := { e.cur with replay := true, soft := false, first := now, last := now } }
      let s2 := if s.upsets.head? == some .log then s1.logBad else rerun e.instr s1
      let o : POp := { id := 0, slot, tag := 0, pc := 0, lanes := 0, team := e.team, launch := (s.team e.team).launch, kind := .ready }
      if s2.cur.stall || (s2.core core).opLog.length > (s1.core core).opLog.length then s
      else if s2.cur.hold then
        { s2.updCore core fun k => { k with opLog := c.opLog, slots := c.slots, tags := c.tags } with cur := s.cur }
      else
        let own := s.ownMiss o s2
        let s2 := match own with | some line => s1.ownBad line | none => s2.loseOver core c.ops e
        let s2 := match mine with
          | some g => s2.updGroup core slot fun h =>
            if h.alloc == g.alloc then { h with regs := g.regs, spilled := g.spilled, held := g.held, sregs := g.sregs, preds := g.preds, threads := g.threads } else h
          | none => s2
        let s2 := match s2.cur.trap with | some ti => s2.trap core slot ti | none => s2
        let s2 := match own with | some line => s2.ownSame o.launch line (s.team e.team).index | none => s2
        let s2 := if mine.isSome then s2 else s2.giveBack core slot tag was
        ({ s2 with cur := s.cur }).opDone core slot)

/-- DIFFERENCE_RECORD (R203): a record that may be merged is merged and acknowledged. -/
def execDifferenceRecord (rid : Nat) (s : State) : Out :=
  .next (match s.recs.find? (·.id == rid) with | some r => if s.ripe r then s.merge r else s | none => s)
/-- FORCED_PUBLICATION (R205). -/
def execForcedPublication (die sync : Nat) (s : State) : Out :=
  .next (if ((s.entry? sync).getD {}).narrow.contains die then s.force die sync else s)
/-- SCRATCHPAD_COPY_FAULT (R296): the copy of a block that an access of a core has caused ends. -/
def execScratchpadCopyFault (team core addr : Nat) (s : State) : Out :=
  let ended (b : Nat × Nat × Nat) : Bool := (s.team team).copying.any fun c => c.1 == b.1 && c.2.1 == core && c.2.2 ≤ s.now core
  .next (if ((s.team team).blockAt addr).any ended then s.copyBlock team core addr else s)

/-- The record of a copy command's fault (R242, R357). -/
def POp.copyInfo (o : POp) (c : CopyCmd) (cause va q : Nat) (e : List Int) : TrapInfo :=
  let w (k : Nat) : Nat := (BitVec.ofInt 32 (e.getD k 0)).toNat
  { cause := 0x0A, pc := o.pc, lanes := 0, va, x0 := BitVec.ofNat 64 (cause + 256 * c.slotNo + 2 ^ 32 * q), x1 := BitVec.ofNat 64 (w 0 + 2 ^ 32 * w 1) }
/-- A copy command's end (R238, R240, R241): it no longer counts in USERS, and publishes its ring slot. -/
def State.copyEnd (s : State) (core : Nat) (o : POp) (c : CopyCmd) : State :=
  let s := match c.ring with | some (i, pos) => s.updRing o.team i (·.publish pos) | none => s
  ((((s.copyClose o c).digestClose o.team o.id).complete core o []).wdRingClear core o.slot).opDone core o.slot
/-- COPY_COMPLETION (R238, R241): a command whose turn to publish has not come waits for it, and one that writes a template-shared block
waits for the block's copy (R296). -/
def execCopyCompletion (core op : Nat) (s : State) : Out :=
  .next (match s.op? core op with
    | none => s
    | some o =>
      match o.kind with
      | .copy c =>
        if c.finished then s
        else match s.copyRun core o c with
        | (t, .done) =>
          if (s.ownMiss o t).isSome then s
          else if let some u := s.blocksFirst core o.team t then u
          else if c.ring.all fun r => (t.ring o.team r.1).q == r.2 then t.copyEnd core o c
          else t.updOp core op fun o => { o with kind := .copy { c with finished := true } }
        | _ => s
      | _ => s)
/-- COPY_FAULT (R242, R284). -/
def execCopyFault (core op : Nat) (s : State) : Out :=
  .next (match s.op? core op with
    | none => s
    | some o =>
      match o.kind with
      | .copy c =>
        if c.finished then s
        else match s.copyRun core o c with
        | (t, .fault cause va q e) =>
          if let some u := s.blocksFirst core o.team t then u
          else (((t.copyClose o c).digestClose o.team o.id).opFault core o (o.copyInfo c cause va q e)).opDone core o.slot
        | (t, .done) =>
          match s.ownMiss o t with
          | some line =>
            let u := (s.setOwn o.launch line 3 (s.team o.team).index).tookUpset.countDie (dieOf core) 0x111
            (((u.copyClose o c).digestClose o.team o.id).opFault core o (o.copyInfo c 0x0E line 0 [])).opDone core o.slot
          | none => s
        | _ => s
      | _ => s)

/-- A matrix command of a core, by its number. -/
def State.matOp? (s : State) (core op : Nat) : Option (POp × MatCmd) := (s.core core).matOps.find? (·.1.id == op)
/-- After a matrix command has ended: saves that waited for it or for an offer it took. -/
def State.matSettle (s : State) (core : Nat) (o : POp) (m : MatCmd) : State :=
  m.groups.foldl (fun s p => s.opDone core p.1) (s.opDone core o.slot)
/-- Whether the group of a command has been saved (R263). -/
def State.matSaved (s : State) (core : Nat) (o : POp) : Bool := s.live core o && (s.group core o.slot).saved
/-- Whether a command runs in its sections: it has started, is first in them, and its group is not saved (R244, R263). -/
def State.matRuns (s : State) (core : Nat) (o : POp) (m : MatCmd) : Bool :=
  m.started && (s.core core).matFirst o m && !s.matSaved core o
/-- MATRIX_COMMAND_START (R259). -/
def execMatrixCommandStart (core op : Nat) (s : State) : Out :=
  .next (match s.matOp? core op with
    | some (o, m) => if s.matReady core o m && !s.matSaved core o then (s.matStart core o m).1 else s
    | none => s)
/-- MATRIX_COMMAND_COMPLETION (R247): all operands are read in the act of the end, since the manual does not say when the engine reads
them (R261; DESIGN CHOICE, log 87). -/
def execMatrixCommandCompletion (core op : Nat) (s : State) : Out :=
  .next (match s.matOp? core op with
    | some (o, m) =>
      if !s.matRuns core o m || m.bad || (!m.zero && (s.matFault core o m m.steps).isSome) then s
      else (s.matDone core o m).matSettle core o m
    | none => s)
/-- MATRIX_FAULT (R262). -/
def execMatrixFault (core op : Nat) (s : State) : Out :=
  .next (match s.matOp? core op with
    | some (o, m) =>
      if !s.matRuns core o m then s
      else if m.bad then (s.matFails core o m 1 0 0).matSettle core o m
      else if m.zero then s
      else match s.matFault core o m m.steps with
        | some (step, cause, va) => (s.matFails core o m cause step va).matSettle core o m
        | none => s
    | none => s)
/-- RESERVATION_FREE (R249, R266): the OBRELs of the record complete. -/
def execReservationFree (core res : Nat) (s : State) : Out :=
  .next (match s.resv? core res with
    | some v =>
      if !v.releasing || v.users != 0 then s
      else
        let s := s.updCore core fun c => { c with resv := adel c.resv res }
        let os := (s.cores.flatMap fun c => c.2.ops.map fun o => (c.1, o)).filter fun x => x.2.team == v.team && x.2.kind == .obrel res
        os.foldl (fun s x => (s.complete x.1 x.2 []).opDone x.1 x.2.slot) s
    | none => s)
/-- RING_GRANT (R329, R241): the operation that waited first, or a copy command whose turn to publish has come. -/
def execRingGrant (core op : Nat) (s : State) : Out :=
  .next (match s.op? core op with
    | none => s
    | some o =>
      match o.kind with
      | .ring k i pos d =>
        let first := if k == .pub && pos != 0 then true else ((s.ringWaiters o.team i k).map (·.2.id)).min? == some op
        if !first then s
        else match (s.ring o.team i).try_ k pos with
        | .granted x r =>
          let s := (s.updRing o.team i fun _ => r).complete core o (wbOne d o.lanes (BitVec.ofNat 32 x))
          ((s.updGroup core o.slot (·.wake op)).wdRingClear core o.slot).opDone core o.slot
        | .placed p r => (s.updRing o.team i fun _ => r).updOp core op fun o => { o with kind := .ring k i p d }
        | .waits => s
      | .copy c =>
        match c.ring with
        | some (i, pos) => if c.finished && (s.ring o.team i).q == pos then s.copyEnd core o c else s
        | none => s
      | _ => s)

/-- The timeout of a team's watchdogs, in ticks (R315, R353). -/
def Desc.timeout (d : Desc) : Nat := if d.watchdog == 0 then 100000000 else d.watchdog
/-- The ring wait of a group: PC, threads, ring. -/
def State.ringWait (s : State) (core slot : Nat) (g : Group) : Option (Nat × W32 × Nat) :=
  (((s.core core).opsOf slot).findSome? fun o => match o.kind with
    | .ring _ i _ _ => some (o.pc, o.lanes, i)
    | .copy c => if c.finished then c.ring.map fun r => (o.pc, o.lanes, r.1) else none
    | _ => none).orElse fun _ => s.cpyinWaits core g
/-- Whether a barrier has a waiter whose count has come (R328, R354). -/
def State.barDue (s : State) (t n : Nat) : Bool :=
  (s.groupsOf t).any fun x => (s.team t).desc.timeout ≤ x.2.2.wdBar
    && x.2.2.threads.any fun t => (match t.wait with | .bar b _ => b == n | _ => false)
/-- What a group is recorded with if a watchdog of its team stops it now (R328, R330, R353): the barrier's stops every group that
waits at that barrier. -/
def State.wdBarTrap (s : State) (t : Nat) (g : Group) : Option TrapInfo :=
  let bars := ((g.threads.filterMap fun t => match t.wait with | .bar n _ => some n | _ => none).eraseDups).filter (s.barDue t)
  bars.head?.map fun n =>
    let b := s.barrier t n
    let m := maskOf fun l => match (g.thread l).wait with | .bar k _ => k == n | _ => false
    { cause := 0x0C, pc := (g.thread (firstLane m)).pc, lanes := m, x0 := BitVec.ofNat 64 (256 * n + 65536 * b.e + 16777216 * b.a) }
def State.wdRingTrap (s : State) (t core slot : Nat) (g : Group) : Option TrapInfo :=
  if g.wdRing < (s.team t).desc.timeout then none
  else (s.ringWait core slot g).map fun w =>
    let r := s.ring t w.2.2
    { cause := 0x0C, pc := w.1, lanes := w.2.1, x0 := BitVec.ofNat 64 (1 + 256 * w.2.2)
      x1 := BitVec.ofNat 64 (r.p % 65536 + 65536 * (r.q % 65536) + 2 ^ 32 * (r.c % 65536) + 2 ^ 48 * (r.d % 65536)) }
def State.wdFeTrap (s : State) (t core slot : Nat) (g : Group) : Option TrapInfo :=
  if g.wdFe < (s.team t).desc.timeout then none
  else ((s.core core).opsOf slot).findSome? fun o =>
    let ti (m : W32) (a : Nat) (full : Bool) : TrapInfo :=
      { cause := 0x0D, pc := o.pc, lanes := m, va := a - a % 16, x0 := BitVec.ofNat 64 (2 + (if full then 256 else 0)) }
    match o.kind with
    | .fe (r :: rs) .. => some (ti (maskOf fun l => (r :: rs).any (·.lane == l)) r.addr r.want)
    | .feWait (a :: _) empty => some (ti o.lanes a (!empty))
    | _ => none
/-- Every group that a watchdog stops at this tick, with its record (R354). -/
def State.expired (s : State) : List (Nat × Nat × TrapInfo) :=
  s.cores.flatMap fun c => c.2.slots.filterMap fun p =>
    let t := p.2.team
    (((s.wdBarTrap t p.2).orElse fun _ => s.wdRingTrap t c.1 p.1 p.2).orElse fun _ => s.wdFeTrap t c.1 p.1 p.2).map fun ti => (c.1, p.1, ti)
/-- The groups that expire at one tick trap together: each is recorded, in the order of core and slot, and their queues are torn down once
(R354, R409). A team that runs again for an audit is stopped, first, and a team of another package ended, of itself. -/
def State.expire (s : State) : State :=
  let l := s.expired
  let ts := (l.map fun x => (s.group x.1 x.2.1).team).eraseDups
  let (again, first) := ts.partition fun t => (s.team t).rerun.isSome
  let s' := again.foldl State.stopRerun (ts.foldl State.endPreempt s)
  let due := l.filter fun x => first.contains (s.group x.1 x.2.1).team
  let s' := due.foldl (fun u x => u.dooms x.1 x.2.1 x.2.2) s'
  ((first.map fun t => (s.team t).launch).eraseDups).foldl State.endDoomed s'
/-- BARRIER_WATCHDOG (R328, R354). -/
def execBarrierWatchdog (team bar : Nat) (s : State) : Out := .next (if s.barDue team bar then s.expire else s)
/-- RING_WATCHDOG (R330, R354): of the command's group, or of a group of the core that waits at a CPYIN. -/
def execRingWatchdog (core op : Nat) (s : State) : Out :=
  let due (p : Nat × Group) : Bool := (s.wdRingTrap p.2.team core p.1 p.2).isSome
  let mine := match s.op? core op with | some o => s.live core o && due (o.slot, s.group core o.slot) | none => (s.core core).slots.any due
  .next (if mine then s.expire else s)
/-- FE_WATCHDOG (R353, R354). -/
def execFeWatchdog (core op : Nat) (s : State) : Out :=
  .next (match s.op? core op with
    | some o => if s.live core o && (s.wdFeTrap (s.group core o.slot).team core o.slot (s.group core o.slot)).isSome then s.expire else s
    | none => s)

end Sys2Proof.Machine
end

