-- ==== Sys2Proof/Machine/Admission.lean ====
section
/-! DEFINITION. Kernels and teams: the descriptor (R315, R316), curve order (R320), placement (R17, R170, R318), admission and
team start (R293, R318, R412), pre-emption requests and deadlines (R318, R375), restore (R379), team end (R303), retirement
(R283, R321), and the completion signal (R210, R412). -/
namespace Sys2Proof.Machine

/-- Whether every page of a range is mapped in a context (R315). -/
def State.mapped (s : State) (ctx va n : Nat) : Bool :=
  canonical va && canonical (va + n - 1) && (List.range ((va % 4096 + n + 4095) / 4096)).all fun k =>
    match s.walkCtx ctx (va + 4096 * k) with | .ok _ => true | .error _ => false
/-- The fields of 256 descriptor bytes (R315). -/
def descFields (b : List Byte) : Desc :=
  let f (at_ n : Nat) : Nat := leNat ((b.drop at_).take n)
  { entry := f 0 8, gx := f 8 4, gy := f 12 4, gz := f 16 4, ncopy := f 20 1, nmatrix := f 21 1, nvector := f 22 1, ngeneral := f 23 1
    bcopy := f 24 2, bmatrix := f 26 2, bvector := f 28 2, bgeneral := f 30 2, scratch := f 32 1, cshape := f 33 1, flags := f 34 1
    auditk := f 35 1, migr := f 36 1, peerctx := f 37 1, watchdog := f 40 8, livetab := f 48 8, param := f 56 8, spillva := f 64 8
    spillsz := f 72 8, rings := f 80 4, arena := f 88 8, arenasz := f 96 8
    ranges := ((List.range 8).map fun k => (f (128 + 16 * k) 8, f (136 + 16 * k) 8)).filter (·.2 != 0) }
/-- Whether a descriptor keeps the limits of R315 and R316. -/
def State.descOk (s : State) (ctx : Nat) (b : List Byte) : Bool :=
  let d := descFields b
  let f (at_ n : Nat) : Nat := leNat ((b.drop at_).take n)
  let roles := [(d.ncopy, d.bcopy), (d.nmatrix, d.bmatrix), (d.nvector, d.bvector), (d.ngeneral, d.bgeneral)]
  canonical d.entry && d.entry % 8 == 0
    && 1 ≤ d.gx && 1 ≤ d.gy && 1 ≤ d.gz && decide (d.teams ≤ 4294967295)
    && 1 ≤ d.groups && d.groups ≤ 128 && d.nmatrix ≤ 48
    && !((roles.filter (·.1 != 0)).length == 1 && d.ngeneral == 0)
    && roles.all (fun r => if r.1 == 0 then r.2 == 0 else 1 ≤ r.2 && r.2 ≤ 320)
    && d.scratch ≤ 14 && 1 ≤ d.cshape && d.cshape ≤ 4 && d.flags < 16 && !(d.det && (d.templated || d.retry))
    && d.auditk ≤ 64 && (d.auditk == 0 || d.audit) && d.migr ≤ 2 && (d.migr == 0 || !d.det)
    && f 38 2 == 0 && (d.watchdog == 0 || (decide (100 ≤ d.watchdog) && decide (d.watchdog ≤ 1000000000)))
    && d.livetab % 128 == 0 && d.spillva % 4096 == 0 && decide (Config.spillMin ≤ d.spillsz)
    && f 84 4 == 0 && d.arena % 256 == 0 && d.arenasz % 256 == 0 && f 104 24 == 0
    && decide (d.groups ≤ 48 * d.cshape) && d.ranges.all fun r => s.mapped ctx r.1 r.2

/-- The Hilbert curve (R320): the point of position d on an n × n plane; k halvings of the scale are left. -/
def hilbertStep : Nat → Nat → Nat → Nat → Nat → Bool → Nat × Nat
  | 0, _, _, x, y, odd => if odd then (y, x) else (x, y)
  | k + 1, t, sc, x, y, odd =>
    let rx := t / 2 % 2
    let ry := (t + rx) % 2
    let (x, y) := if ry == 0 then (let p := if rx == 1 then (sc - 1 - x, sc - 1 - y) else (x, y); (p.2, p.1)) else (x, y)
    hilbertStep k (t / 4) (2 * sc) (x + sc * rx) (y + sc * ry) (!odd)
/-- hilbert_point(d, 2^k). -/
def hilbertPoint (d k : Nat) : Nat × Nat := hilbertStep k d 1 0 0 false
/-- The least k with 2^k at least n. -/
def log2Up (n : Nat) : Nat := ((List.range 33).find? fun k => decide (n ≤ 2 ^ k)).getD 32
/-- The teams of a kernel in the order in which they are admitted: rank and linear index (R317, R320). -/
def Desc.order (d : Desc) : List (Nat × Nat) :=
  if !d.det then (List.range d.teams).map fun i => (i, i)
  else
    let k := log2Up (max d.gx d.gy)
    let l := (List.range d.gz).flatMap fun z => (List.range (2 ^ k * 2 ^ k)).filterMap fun p =>
      let (x, y) := hilbertPoint p k
      if x < d.gx && y < d.gy then some (x + d.gx * (y + d.gy * z)) else none
    l.zipIdx.map fun p => (p.2, p.1)
/-- The die of a DETERMINISTIC team of a rank (R320). -/
def Desc.rankDie (d : Desc) (rank : Nat) : Nat := [0, 1, 3, 2].getD (rank / ((d.teams + 3) / 4)) 2

/-- Where a new run of ways goes on a core (R170). -/
def Core.place (c : Core) (ways : Nat) : Option Nat :=
  if ways == 0 then some 0
  else
    let top := c.runs.foldl (fun m r => max m (r.2.1 + r.2.2)) 0
    let free (a : Nat) : Bool := c.runs.all fun r => decide (a + ways ≤ r.2.1) || decide (r.2.1 + r.2.2 ≤ a)
    match (List.range (top + 1 - ways)).find? fun a => free a && decide (a + ways ≤ top) with
    | some a => some a
    | none => if top + ways ≤ 28 then some top else none
/-- The combinations of n elements of a list, in order. -/
def choose {α : Type} : Nat → List α → List (List α)
  | 0, _ => [[]]
  | _ + 1, [] => []
  | n + 1, x :: r => (choose n r).map (x :: ·) ++ choose (n + 1) r
/-- Free general entries of a core. -/
def State.freeGeneral (s : State) (c : Nat) : Nat := Config.generalEntries - (s.storeUse c).1
/-- What a team asks of the cores it goes to: cores, groups, the quadrants of its MATRIX groups, its roles' budgets, ways, the templates
its groups start from. -/
structure Ask where
  shape : Nat := 1
  groups : Nat := 1
  mats : List Nat := []
  budgets : Nat := 0
  ways : Nat := 0
  tmpls : List Nat := []
/-- Whether a team fits some cores (R318): slots, headroom (log 23; none is asked of a restore, R379), scratchpad, the instances of its
template (R298), and on the first core its MATRIX groups, each on its quadrant, which holds twelve groups (R14, R17). -/
def State.coresFit (s : State) (cs : List Nat) (a : Ask) : Bool :=
  let first := s.core (cs.headD 0)
  let room (q : Nat) : Bool := decide ((a.mats.filter (· == q)).length + first.onQuad q ≤ Config.groupsPerQuad)
  decide (a.groups ≤ (cs.map s.freeSlots).foldl (· + ·) 0) && decide (a.mats.length ≤ s.freeSlots (cs.headD 0)) && [0, 1, 2, 3].all room
    && decide (min a.budgets (Config.generalEntries * cs.length) ≤ (cs.map s.freeGeneral).foldl (· + ·) 0)
    && cs.all fun c => ((s.core c).place a.ways).isSome && !(s.pcore (s.physOf c)).quarantined && a.tmpls.all (s.instanceFits c)
/-- The lowest healthy physical core of a die that no logical core maps to (R286). -/
def State.spare (s : State) (x : Nat) : Option Nat :=
  (List.range 66).find? fun p => !(s.die x).clmap.contains p && !(s.pcore (66 * x + p)).quarantined && !(s.pcore (66 * x + p)).dead
/-- The logical core that a physical core is mapped to, and its cluster, if it is mapped (R286). -/
def State.coreOf (s : State) (p : Nat) : Option Nat := (((s.die (p / 66)).clmap.zipIdx).find? (·.1 == p % 66)).map fun x => 64 * (p / 66) + x.2
def State.clusterOf (s : State) (p : Nat) : Option Nat := (s.coreOf p).map (· / 4)
/-- Whether a cluster is out of admission: withdrawn, or with a quarantined core and no spare left to take its place (R286). -/
def State.closed (s : State) (k : Nat) : Bool :=
  (s.die (k / 16)).withdrawn.contains (k % 16)
    || ((List.range 4).any fun i => (s.pcore (s.physOf (4 * k + i))).quarantined) && (s.spare (k / 16)).isNone
/-- The cores of a cluster on which a team fits: the lowest-numbered (R318). -/
def State.clusterFit (s : State) (k : Nat) (a : Ask) : Option (List Nat) :=
  let resident := (s.teams.filter fun t => t.2.st == .resident && t.2.cores.headD 999 / 4 == k).length
  if s.closed k || decide (Config.teamsPerCluster ≤ resident) then none
  else (choose a.shape ((List.range 4).map (4 * k + ·))).find? fun cs => s.coresFit cs a
/-- The cluster a team goes to (R318): of those that fit, the one with the most free slots; ties to the queue's home die, then
to the lowest. -/
def State.placeTeam (s : State) (home : Nat) (dies avoid : List Nat) (a : Ask) : Option (List Nat) :=
  let free (k : Nat) : Nat := ((List.range 4).map fun i => s.freeSlots (4 * k + i)).foldl (· + ·) 0
  let key (k : Nat) : Nat := 2 * free k + (if k / 16 == home then 1 else 0)
  let l := ((List.range 64).filter fun k => dies.contains (k / 16) && !avoid.contains k).filterMap fun k =>
    (s.clusterFit k a).map fun cs => (k, cs)
  (l.foldl (fun (b : Option (Nat × List Nat)) p => match b with | some q => if key q.1 < key p.1 then some p else b | none => some p) none).map (·.2)

/-- The descriptor of a prologue team (R289): one GENERAL group. -/
def Desc.prologue (d : Desc) : Desc :=
  { d with ncopy := 0, nmatrix := 0, nvector := 0, ngeneral := 1, bcopy := 0, bmatrix := 0, bvector := 0, bgeneral := d.maxBudget, cshape := 1 }
def Desc.budgets (d : Desc) : Nat := d.ncopy * d.bcopy + d.nmatrix * d.bmatrix + d.nvector * d.bvector + d.ngeneral * d.bgeneral
/-- What a kernel's team asks for (R315). -/
def Desc.ask (d : Desc) : Ask :=
  { shape := d.cshape, groups := d.groups, mats := (List.range d.nmatrix).map (· % 4), budgets := d.budgets, ways := 2 * d.scratch }
/-- The next team of a launch that waits for admission: prologue; rank and linear index; a suspended team; a team that runs again
for an audit, by the audit's number. -/
inductive NextTeam where | prologue | team (rank index : Nat) | restore (t : Nat) | rerun (k : Nat)
  deriving DecidableEq, Repr, Inhabited
/-- The audits of a launch whose next run has not been admitted (R350, R352). -/
def State.runsDue (s : State) (l : Nat) : List NextTeam :=
  let runs (a : Audit) : Bool := s.teams.any fun t => t.2.launch == l && t.2.index == a.index && t.2.rerun.isSome
  s.audits.zipIdx.filterMap fun a => if a.1.launch == l && !runs a.1 then some (.rerun a.2) else none
/-- The teams of a launch that may be admitted next: suspended ones first; each die's first in a DETERMINISTIC kernel. -/
def State.firstTeams (s : State) (l : Nat) : List NextTeam :=
  let r := s.launchRec l
  match r.suspended with
  | t :: _ => [.restore t]
  | [] =>
    match r.prologue with
    | .running => if s.teams.any fun t => t.2.launch == l && t.2.prologue then [] else [.prologue]
    | .failed => []
    | _ =>
      if r.desc.det then
        ([0, 1, 3, 2].filterMap fun x => r.todo.find? fun p => r.desc.rankDie p.1 == x).map fun p => .team p.1 p.2
      else (r.todo.take 1).map fun p => .team p.1 p.2
def State.nextTeams (s : State) (l : Nat) : List NextTeam := s.firstTeams l ++ s.runsDue l
/-- The key under which a launch notes since when such a team has waited, and whether it has asked (R318, R352). -/
def State.waitKey (s : State) (n : NextTeam) : Nat × Nat :=
  match n with | .prologue => (0, 0) | .team _ i => (1, i) | .restore t => (2, t) | .rerun k => (3, (s.audits.getD k default).index)
/-- The tick from which a team has waited: the launch's start, or when it came back to its record (R318; DESIGN CHOICE, log 96). -/
def Launch.waitsFrom (l : Launch) (key : Nat × Nat) : Nat := ((l.since.find? (·.1 == key)).map (·.2)).getD l.waiting
/-- A team that waits no longer. -/
def Launch.came (l : Launch) (key : Nat × Nat) : Launch :=
  { l with since := l.since.filter (·.1 != key), asked := l.asked.filter (· != key) }
/-- Whether a die holds class-B or class-D twins of a team. -/
def State.holdsBD (s : State) (x t : Nat) : Bool := (s.die x).twins.any fun w => w.2.team == t && w.2.cls != .c
/-- The shift under which a team's saved reservations find room on a core, under their ids (R249). -/
def State.resvShift (s : State) (c : Nat) (t : Team) : Option Int :=
  let k := s.core c
  let ok (d : Int) : Bool := t.savedResv.all fun r =>
    let b : Int := r.2.1.base + d
    decide (0 ≤ b) && decide (b + r.2.1.len ≤ 1024)
      && k.resv.all fun o => o.1 != r.1 && (decide (b + r.2.1.len ≤ o.2.base) || decide ((o.2.base + o.2.len : Nat) ≤ b))
  (0 :: (List.range 1024).flatMap fun n => [((n + 1 : Nat) : Int), -((n + 1 : Nat) : Int)]).find? ok
/-- A die with the replicas of some templates, if its backing can take them (R298, R305). -/
def State.replicas (s : State) (ts : List Nat) (x : Nat) : Option State := ts.foldl (fun o t => o.bind fun s => s.replica t x) (some s)
/-- The clusters on which an audited team has run (R350). -/
def State.ranOn (s : State) (a : Audit) : List Nat :=
  (s.clusterOf a.core).toList ++ (a.second.bind fun p => s.clusterOf p.1).toList
/-- Where the bins of a team being restored go: each core of its own in turn (R303, R305). -/
def State.binRoom (s : State) (cs : List Nat) : List (Nat × Nat) :=
  cs.flatMap fun c => ((List.range 16).filter fun k => (aget (s.core c).bins k).isNone).map fun k => (c, k)
/-- The cores on some dies for the next team of a launch, if it can be admitted (R318, R320, R374, R379). -/
def State.coresOn (s : State) (l : Nat) (n : NextTeam) (all : List Nat) : Option (List Nat) :=
  let r := s.launchRec l
  let home := r.queue / 256
  let avoid (key : Nat) : List Nat := (r.avoids.filter (·.1 == key)).map (·.2)
  let tmpl := match r.prologue with | .frozen t => [t] | _ => []
  let holds (ts : List Nat) (x : Nat) : Bool := (s.replicas ts x).isSome
  match n with
  | .prologue => s.placeTeam home all (avoid (rollKey true 0)) { budgets := r.desc.maxBudget, ways := 2 * r.desc.scratch }
  | .team rank i =>
    let d := r.desc
    s.placeTeam home ((if d.det then all.filter (· == d.rankDie rank) else all).filter (holds tmpl)) (avoid i) { d.ask with tmpls := tmpl }
  | .rerun k =>
    let a := s.audits.getD k default
    let there := all.filter (holds tmpl)
    let ask : Ask := { r.desc.ask with tmpls := tmpl }
    (s.placeTeam home (there.filter (· != a.core / 66)) (s.ranOn a) ask).orElse fun _ => s.placeTeam home there (s.ranOn a) ask
  | .restore t =>
    let tm := s.team t
    let dies := if tm.desc.det || s.holdsBD tm.die t then all.filter (· == tm.die) else all
    let mats := (tm.saves.filter (·.role == 1)).map fun g => (g.index - tm.desc.ncopy) % 4
    (s.placeTeam home (dies.filter (holds (tm.blocks.map (·.2.2)).eraseDups)) []
      { shape := tm.desc.cshape, groups := tm.saves.length, mats, ways := 2 * tm.desc.scratch }).bind fun cs =>
      if (s.resvShift (cs.headD 0) tm).isSome && tm.savedBins.length ≤ (s.binRoom cs).length then some cs else none

/-- The cores for the next team of a launch, on any die (R318). -/
def State.coresForNext (s : State) (l : Nat) (n : NextTeam) : Option (List Nat) := s.coresOn l n [0, 1, 2, 3]

/-- The arena bitmaps of a team set up (R334): the bitmap's own granules are allocated. A team that runs again has copies (R350). -/
def State.arenaInit (s : State) (t : Nat) : State :=
  let tm := s.team t
  let d := tm.desc
  let q := d.slice
  let w : Who := { die := tm.die, core := tm.cores.head?, ctx := tm.ctx, own := true }
  let pools := (List.range d.groups).flatMap fun g =>
    let base := d.arena + tm.index * d.arenasz + g * q
    if d.det then (List.range 32).map fun l => (base + l * (q / 512 * 16), q / 512 * 16) else [(base, q)]
  let map (p : Nat × Nat) : List Byte := mapSet (List.replicate (poolMap p.2) 0) 0 (poolMap p.2 / 16) true
  match tm.rerun with
  | some r =>
    let bitmaps := pools.foldl (fun l p => memWr l p.1 (map p)) []
    s.updTeam t fun m => { m with rerun := some { r with bitmaps } }
  | none => pools.foldl (fun s p => (s.writeVa w p.1 (map p)).1) s
/-- Runs of ways taken on a team's cores, whose L1 loses the lines of the ways it gives up (R170, log 71). -/
def State.takeRuns (s : State) (t : Nat) (cs : List Nat) (ways : Nat) : State :=
  if ways == 0 then s
  else cs.foldl (fun s c => match (s.core c).place ways with
    | some a => s.updCore c fun k => Core.trimL1 { k with runs := k.runs ++ [(t, a, ways)] } | none => s) s
/-- The groups of a team put on its cores: MATRIX groups first, on the quadrants of R17, then the others in index order. -/
def State.putTeam (s : State) (t : Nat) (gs : List Group) : State :=
  let tm := s.team t
  let gs := sortBy (fun (a b : Group) => a.index ≤ b.index) gs
  let mat := gs.filter (·.role == 1)
  let s := mat.foldl (fun s g => s.putGroup tm.first ((g.index - tm.desc.ncopy) % 4) g) s
  (gs.filter (·.role != 1)).foldl (fun s g => (s.putAnywhere t g).getD s) s
/-- Whether a kernel's template is to be dropped: its last team has been admitted (R293), and none is left that could be rolled back to
start from the template again (R374; DESIGN CHOICE, log 97). -/
def State.dropDue (s : State) (l : Nat) : Bool :=
  let r := s.launchRec l
  match r.prologue with
  | .frozen e => r.todo.isEmpty && (aget s.tmpls e).any (fun t => !t.dropped) && !s.teams.any fun t => t.2.launch == l && t.2.rollOk
  | _ => false
/-- It is dropped (R293, R299). -/
def State.dropTmpl (s : State) (l : Nat) : State :=
  if !s.dropDue l then s
  else match (s.launchRec l).prologue with
  | .frozen e => (s.updTmpl e fun v => { v with dropped := true }).sweep
  | _ => s
/-- A new team admitted to some cores (R318, R293, R412): its record, ways, rings and barriers, the team-start acquire, its groups. A team that runs again for an audit starts as the first run did (R350). -/
def State.newTeam (s : State) (l : Nat) (n : NextTeam) (cs : List Nat) : State :=
  let r := s.launchRec l
  let (t, s) := s.fresh
  let pro := n == .prologue
  let d := if pro then r.desc.prologue else r.desc
  let again : Option Audit := match n with | .rerun k => s.audits[k]? | _ => none
  let (rank, i) := match n with | .team a b => (a, b) | _ => (0, (again.map Audit.index).getD 0)
  let x := dieOf (cs.headD 0)
  let rolls := (aget r.rolls (rollKey pro i)).getD 0
  let ring (k : Nat) : Ring :=
    let c := bits d.rings (4 * k + 3) (4 * k)
    if c == 0 then {} else { n := c + 1, filled := List.replicate (c + 1) false, phase := List.replicate (c + 1) false }
  let tm : Team := {
    launch := l, index := i, ctx := r.ctx, queue := r.queue, desc := d, die := x, cores := cs, prologue := pro
    rings := (List.range 8).map ring, barriers := List.replicate 16 { e := d.groups }
    rollOk := d.retry && decide (rolls < 3) && again.isNone && r.foreign.isNone, rollbacks := rolls, rank
    rerun := again.map fun (a : Audit) => { writes := a.second.isSome, die := a.core / 66 } }
  let s : State := { s with teams := aset s.teams t tm }
  let key := s.waitKey n
  let s := (s.takeRuns t cs (2 * d.scratch)).updLaunch l fun r => { r.came key with
    todo := if pro || again.isSome then r.todo else r.todo.filter fun p => p.2 != i
    dies := if r.dies.contains x then r.dies else r.dies ++ [x] }
  let s := s.arenaInit t
  let frozen := match r.prologue with | .frozen e => if pro then none else some e | _ => none
  let s := match frozen with | some e => (((s.replica e x).getD s).receive e t) | none => s
  let s := s.acqStart x true
  let gs := (List.range d.groups).map fun g =>
    match frozen with
    | some e => s.newItem t e g (d.role g) (d.budget (d.role g)) ((i * d.groups + g) % 2 ^ 32) true
    | none => s.newGroup t g (d.role g) (d.budget (d.role g)) d.entry allOnes32
  (s.putTeam t gs).dropTmpl l

/-- Registers beyond a core's free storage spilled after a restore, highest first (R379), but for the held (R260). -/
def State.spillOver (s : State) (core slot : Nat) : Nat → State
  | 0 => s
  | n + 1 =>
    let u := s.storeUse core
    if u.1 ≤ Config.generalEntries && u.2 ≤ Config.compactEntries then s
    else match ((s.group core slot).regs.filter fun r => !(s.group core slot).held.any (·.1 == r.1)).getLast? with
      | some r => (s.spillRegs core slot [r]).spillOver core slot n
      | none => s
/-- A saved command enters its core's list; a matrix command, the sections of its tile groups' quadrants, with a free entry of each
(R244, R263). -/
def State.putOp (s : State) (core : Nat) (o : POp) : State :=
  let c := s.core core
  let o : POp := match o.kind with
    | .matrix m =>
      let quad (p : (Nat × Nat) × Nat) : Nat := ((s.group? core p.1.1).map (·.quad)).getD p.2
      let own := ((s.group? core o.slot).map (·.quad)).getD (m.sections.headD 0)
      let free (q : Nat) : Nat := freeEntry ((c.matOps.map (·.2)).filter fun x => x.sections.contains q) q
      let sections := (m.groups.zip m.sections).map quad
      { o with kind := .matrix { m with sections, entry := free own, entries := sections.map free } }
    | _ => o
  s.updCore core fun c => { c with ops := c.ops ++ [o] }
/-- The errors of a group's flags in the order of their cycles, which are another core's now (R366, R377). -/
def Group.rankErrs (g : Group) : Group :=
  let cs := ((g.flags.flatMap (·.errs)).map (·.1.1)).eraseDups
  let rank (e : (Nat × Nat) × TrapInfo) : (Nat × Nat) × TrapInfo := (((cs.filter (· < e.1.1)).length, e.1.2), e.2)
  { g with flags := g.flags.map fun f => { f with clearAt := 0, errs := f.errs.map rank } }
/-- A suspended team restored on some cores (R152, R249, R305, R376 to R379): its commands keep their order, behind those that the
engine's queues hold. -/
def State.restoreTeam (s : State) (t : Nat) (cs : List Nat) : State :=
  let tm := s.team t
  let x := dieOf (cs.headD 0)
  let fc := cs.headD 0
  let shift := (s.resvShift fc tm).getD 0
  let s := if x == tm.die then s
    else ((s.die tm.die).twins.filter (·.2.team == t)).foldl (fun s w => s.publishNow tm.die w.1 1) s
  let s := s.updTeam t fun m => { m with st := .resident, cores := cs, die := x, saves := [], savedResv := [], savedBins := [], savedOps := [] }
  let s := (s.takeRuns t cs (2 * tm.desc.scratch)).updLaunch tm.launch fun l => { l with
    suspended := l.suspended.filter (· != t), dies := if l.dies.contains x then l.dies else l.dies ++ [x] }
  let s := ((s.replicas (tm.blocks.map (·.2.2)).eraseDups x).getD s).updLaunch tm.launch (·.came (2, t)) |>.acqStart x true
  let (ids, s) := (sortBy (fun a b => a ≤ b) (tm.savedOps.map (·.2.id))).foldl (fun (a : List (Nat × Nat) × State) n =>
    let (m, s) := a.2.fresh
    (aset a.1 n m, s)) ([], s)
  let id (n : Nat) : Nat := (aget ids n).getD n
  let again (g : Group) : Group := { g.rankErrs with
    saved := false, saveRec := none
    held := g.held.map fun h => (h.1, id h.2), offers := g.offers.map fun f => { f with op := id f.op }, recent := [], waits := (false, false) }
  let s := s.putTeam t (tm.saves.map again)
  let where_ (i : Nat) : Option (Nat × Nat × Group) := (s.groupsOf t).find? fun g => g.2.2.index == i
  let s := s.updTeam t fun m => { m with barriers := m.barriers.map fun b =>
    { b with arrived := b.arrived.map fun a =>
        match tm.saves.find? fun g => g.index == a.1 && g.alloc == a.2 with
        | some _ => (a.1, ((where_ a.1).map (·.2.2.alloc)).getD a.2) | none => a } }
  let s := tm.savedResv.foldl (fun s r =>
    let v := { r.2.1 with base := (r.2.1.base + shift).toNat }
    let s := s.updCore fc fun k => { k with resv := aset k.resv r.1 v }
    s.obWr fc tm.ctx v 0 ((List.range (256 * v.len)).map fun i => memGet r.2.2 i)) s
  let s := (tm.savedBins.zip (s.binRoom cs)).foldl (fun s b => s.updCore b.2.1 fun c => { c with
    bins := aset c.bins b.2.2 { b.1 with due := s.now b.2.1 + (s.ctx tm.ctx).bintmr.toNat } }) s
  let slot (i : Nat) : Nat × Nat := match where_ i with
    | some g => (g.2.1, (s.core g.1).tag g.2.1) | none => (Config.slotsPerCore, 0)
  let s := (sortBy (fun a b => a.2.id ≤ b.2.id) tm.savedOps).foldl (fun s p =>
    let c := ((where_ p.1).map (·.1)).getD fc
    let o : POp := { p.2 with id := id p.2.id, slot := (slot p.1).1, tag := (slot p.1).2 }
    s.putOp c (match o.kind with
      | .matrix m => { o with kind := .matrix { m with groups := m.groups.map fun q => slot q.1, offers := m.offers.map fun q => ((slot q.1).1, id q.2) } }
      | _ => o)) s
  (s.groupsOf t).foldl (fun s g => s.spillOver g.1 g.2.1 320) s
/-- Whether the engine sections of some cores hold no more commands than their queues (R244, R263). -/
def State.sectionsFit (s : State) (cs : List Nat) : Bool :=
  cs.all fun c => [0, 1, 2, 3].all fun q => decide (((s.core c).matOps.filter fun p => p.2.sections.contains q).length ≤ 2)

/-- The launches of a priority, beginning after the one last served (R317). -/
def State.inTurn (s : State) (pri : Nat) : List Nat :=
  let l := (s.launches.filter (·.2.pri == pri)).map (·.1)
  let last := (aget s.admitted pri).getD 0
  l.filter (fun n => decide (last < n)) ++ l.filter (fun n => decide (n ≤ last))
/-- The next admission: the launch, the team, its cores (R317, R318). -/
def State.nextAdmission (s : State) : Option (Nat × NextTeam × List Nat) :=
  if s.launches.isEmpty || s.mgmt.stopped then none
  else [7, 6, 5, 4, 3, 2, 1, 0].findSome? fun pri => (s.inTurn pri).findSome? fun l =>
    (s.nextTeams l).findSome? fun n => (s.coresForNext l n).bind fun cs =>
      match n with
      | .restore t => if (s.restoreTeam t cs).sectionsFit cs then some (l, n, cs) else none
      | n => some (l, n, cs)
/-- The launch served with an admission. -/
def State.served (s : State) (l : Nat) : State := { s with admitted := aset s.admitted (s.launchRec l).pri l }
/-- TEAM_ADMISSION (R318). -/
def execTeamAdmission (launch : Nat) (s : State) : Out :=
  .next (match s.nextAdmission with
    | some (l, n, cs) =>
      (match n with
      | .restore _ => s
      | n => if l == launch then (s.newTeam l n cs).served l else s)
    | none => s)
/-- TEAM_RESTORE (R379). -/
def execTeamRestore (team : Nat) (s : State) : Out :=
  .next (match s.nextAdmission with
    | some (l, n, cs) => if n == .restore team then (s.restoreTeam team cs).served l else s
    | none => s)

/-- The team that a waiting team of a launch asks to leave (R318): the youngest resident team of the lowest priority whose departure
would make room. -/
def State.victimFor (s : State) (l : Nat) (n : NextTeam) : Option Nat :=
  let r := s.launchRec l
  let lower := (s.teams.filter fun t => t.2.st == .resident && t.2.preempt.isNone && t.2.rerun.isNone && decide ((s.launchRec t.2.launch).pri < r.pri)).filter fun t =>
    ((s.freeTeam t.1).coresForNext l n).isSome
  let low := (lower.map fun t => (s.launchRec t.2.launch).pri).min?
  ((lower.filter fun t => some (s.launchRec t.2.launch).pri == low).map (·.1)).max?
/-- Whether a team that waits may ask (R318): it has waited 10,000 ticks, and has not asked. -/
def Launch.mayAsk (l : Launch) (key : Nat × Nat) (now : Nat) : Bool := !l.asked.contains key && decide (l.waitsFrom key + 10000 ≤ now)
/-- PREEMPTION_REQUEST (R318, R352): a team that is next to be admitted, or a re-execution, and has waited 10,000 ticks asks once; a
request that cannot be made (R375) is none. -/
def execPreemptionRequest (launch : Nat) (s : State) : Out :=
  .next (match aget s.launches launch with
    | none => s
    | some r =>
      let asks (n : NextTeam) : Option State :=
        let key := s.waitKey n
        if !r.mayAsk key s.time.toNat then none
        else (s.victimFor launch n).bind fun t =>
          let u := s.requestPreempt t
          if (u.team t).preempt.isSome || (u.team t).st != .resident then some (u.updLaunch launch fun r => { r with asked := key :: r.asked })
          else none
      ((s.nextTeams launch).findSome? asks).getD s)
/-- HOST_PREEMPTION (R375). -/
def execHostPreemption (team : Nat) (s : State) : Out := .next (s.requestPreempt team)
/-- PREEMPTION_DEADLINE (R375): every group not yet saved is saved in full. -/
def execPreemptionDeadline (team : Nat) (s : State) : Out :=
  .next (match (s.team team).preempt with
    | some d =>
      if decide (s.time.toNat < d) then s
      else (s.groupsOf team).foldl (fun s x => s.saveUnder x.1 x.2.1 4096) s
    | none => s)

/-- Whether a team is sampled for audit (R347). -/
def sampled (seed : W32) (index k : Nat) : Bool :=
  decide ((((BitVec.ofNat 32 index ^^^ seed) * 0x9E3779B1#32) >>> 24).toNat < k)
/-- A device counter plus one, and the audit of a team that has ended (R348). -/
def State.auditEnd (s : State) (tm : Team) (core : Nat) : State :=
  let r := s.launchRec tm.launch
  if !tm.desc.audit || tm.prologue || !sampled r.seed tm.index tm.desc.auditk then s
  else
    let s := s.countDev 0x120
    if !tm.auditOk then s.countDev 0x121
    else ({ s with audits := s.audits ++ [{ launch := tm.launch, index := tm.index, core := s.physOf core, digest := tm.digest, wrote := tm.wrote }] } : State).updLaunch
      tm.launch (·.waits (3, tm.index) s.time.toNat)
/-- Whether a command's end is still to come of itself: not that of an offer, nor that of a matrix command whose partners have not
offered, which its group may leave behind (R259). -/
def POp.runs (o : POp) : Bool := match o.kind with | .ready => false | .matrix m => m.started | _ => true
/-- Whether a team has ended (R303): no group, no thread in a bin, no item owed; and nothing that its ended groups began is still
under way, for its effects complete (R87). -/
def State.teamOver (s : State) (t : Nat) : Bool :=
  let tm := s.team t
  (aget s.teams t).isSome && tm.st == .resident && (s.groupsOf t).isEmpty && tm.owed.isEmpty
    && !(s.cores.any fun c => c.2.bins.any (·.2.team == t) || c.2.ops.any (fun o => o.team == t && o.runs) || c.2.opLog.any (·.team == t))
/-- A team received from another package is reported ended once nothing of its launch is left, its audit included (R322, R352). -/
def State.foreignEnd (s : State) (l : Nat) : State :=
  let r := s.launchRec l
  if r.foreign.isNone || r.ended == 0 || s.teams.any (·.2.launch == l) || s.audits.any (·.launch == l)
    || (r.foreign.any fun f => Config.portEntries ≤ (s.port f.1).outstanding.length) then s
  else (s.sayEnded l).stopLaunch l
/-- TEAM_END (R303, R185, R289, R322, R348). A team of a DETERMINISTIC kernel keeps its record until it retires. A team that runs
again for an audit ends as the audit's event. -/
def execTeamEnd (team : Nat) (s : State) : Out :=
  .next (if !s.teamOver team || (s.team team).rerun.isSome then s
    else
      let tm := s.team team
      let l := tm.launch
      let s := s.auditEnd tm tm.first
      if tm.desc.det then
        let s : State := { s with cores := s.cores.map fun c => (c.1, { c.2 with
          ops := c.2.ops.map fun o => if o.team == team then { o.dropped with team := 0 } else o
          runs := c.2.runs.filter (·.1 != team), resv := c.2.resv.filter (·.2.team != team) }) }
        (s.updTeam team fun m => { m with st := .ended, cores := [], scratch := [], fe := [], blocks := [], preempt := none }).sweep
      else
        let s := ((s.unB team).freeTeam team).sweep
        if tm.prologue then
          match (s.launchRec l).prologue with
          | .frozen _ => s
          | _ => (s.updLaunch l fun r => { r with prologue := .failed }).teardownLaunch l 3 0
        else if (s.launchRec l).foreign.isSome then
          (s.updLaunch l fun r => { r with ended := r.ended + 1 }).foreignEnd l
        else s.updLaunch l fun r => { r with ended := r.ended + 1 })

/-- A record of kind 4 (R199, R283): made by a die for a line, and merged at its home at once (log 24). -/
def State.retireRec (s : State) (x line : Nat) (words : List (Nat × W32)) : State :=
  if words.isEmpty then s
  else
    let (id, s) := s.fresh
    let r : DiffRec := { id, kind := 4, seq := 0, sync := noSync, writer := x, line, words }
    ({ s with recs := s.recs ++ [r] } : State).merge r
/-- A team's buffered bytes brought home line by line in increasing address, each byte under its mask, then its RED operations by
thread (R283). -/
def State.retireBuf (s : State) (t : Nat) : State :=
  let tm := s.team t
  let cells := tm.buf.foldl (fun (m : List (Nat × Byte)) o => match o with
    | .bytes _ pa bs => (bs.zipIdx).foldl (fun m b => aset m (pa + b.2) b.1) m | .red .. => m) []
  let s := ((cells.map fun c => lineOf c.1).eraseDups).foldl (fun s line =>
    let mine := cells.filter fun c => lineOf c.1 == line
    let ws := ((mine.map fun c => c.1 % 128 / 4).eraseDups).map fun i =>
      (i, BitVec.ofNat 32 (leNat ((List.range 4).map fun b => (aget mine (line + 4 * i + b)).getD ((s.homeRd (line + 4 * i + b) 1).headD 0))))
    (ws.foldl (fun s w => s.noteStore false (line + 4 * w.1) 4) s).retireRec tm.die line ws) s
  let reds := tm.buf.filterMap fun o => match o with | .red th pa op w v => some (th, pa, op, w, v) | .bytes .. => none
  let ths := sortBy (fun a b => a ≤ b) (reds.map (·.1)).eraseDups
  let s := ths.foldl (fun s th => (reds.filter (·.1 == th)).foldl (fun s r =>
    let n := if r.2.2.2.1 then 8 else 4
    let old := BitVec.ofNat 64 (leNat (s.homeRd r.2.1 n))
    ((s.noteStore false r.2.1 n).homePut r.2.1 (leBytes n (atomNew r.2.2.1 r.2.2.2.1 old r.2.2.2.2 0).toNat)).touchL2 (homeOf r.2.1) (lineOf r.2.1) .n) s) s
  let lines := (tm.buf.map fun o => match o with | .bytes _ pa _ => lineOf pa | .red _ pa .. => lineOf pa).eraseDups
  s.updLaunch tm.launch fun r => { r with merged := (r.merged ++ lines).eraseDups }
/-- A team's private lines homed on another die, brought home as records of kind 4 (R198, R283, log 24). -/
def State.retireLines (s : State) (t : Nat) : State :=
  let tm := s.team t
  let r := s.launchRec tm.launch
  let mine := (r.own.filter fun o => o.2.1 == 1 && o.2.2 == tm.index).map (·.1)
  mine.foldl (fun s line =>
    let s := s.cacheTwin tm.die line
    match aget (s.die tm.die).copies line, aget (s.die tm.die).twins line with
    | some c, some w => s.retireRec tm.die line (diffWords c.words w.words)
    | _, _ => s) s
/-- What a DETERMINISTIC kernel holds is freed when its last team has retired: class-D twins and the table; copies of lines that
merging changed are read again (R185, R283). -/
def State.detEnd (s : State) (l : Nat) : State :=
  let r := s.launchRec l
  let lines := (r.own.map (·.1) ++ r.merged).eraseDups
  let s : State := { s with dies := s.dies.map fun d => (d.1, { d.2 with
    twins := d.2.twins.filter fun w => !(w.2.cls == .d && lines.contains w.1)
    copies := d.2.copies.filter fun c => !(lines.contains c.1 && c.2.cls != 3) }) }
  s.updLaunch l fun r => { r with own := [], merged := [], released := [] }
/-- TEAM_RETIREMENT (R283, R321): the team next in curve order, once it has ended. -/
def execTeamRetirement (launch : Nat) (s : State) : Out :=
  .next (match aget s.launches launch with
    | none => s
    | some r =>
      match s.teams.find? fun t => t.2.launch == launch && t.2.st == .ended && t.2.rank == r.nextRetire with
      | none => s
      | some (t, _) =>
        let s := (s.retireLines t).retireBuf t
        let s : State := { s with teams := adel s.teams t }
        let s := s.updLaunch launch fun r => { r with nextRetire := r.nextRetire + 1, ended := r.ended + 1 }
        if (s.launchRec launch).ended == r.total then s.detEnd launch else s)

/-- A drain that has nothing left to finish (R309). -/
def State.drained (s : State) (q : Nat) : Bool := (s.queue q).st == .draining && (s.queue q).cmds.isEmpty
/-- A command of a queue complete: DONE advances over the leading complete commands (R313). -/
def State.cmdDone (s : State) (q idx : Nat) : State :=
  (s.updQueue q fun x => { x with cmds := x.cmds.map fun c => if c.index == idx then { c with complete := true } else c }).advanceDone q
/-- Whether a launch's completion signal may be performed (R210, R312). -/
def State.launchOver (s : State) (l : Nat) : Bool :=
  match aget s.launches l with
  | none => false
  | some r => r.foreign.isNone && r.ended == r.total && r.todo.isEmpty && r.suspended.isEmpty && r.away.isEmpty
      && !(s.audits.any (·.launch == l)) && !(s.teams.any (·.2.launch == l))
/-- Whether the write of a completion signal must wait for a migration or a region being moved (R278, R287). -/
def State.signalLate (s : State) (l : Nat) : Bool :=
  let r := s.launchRec l
  r.sigVa != 0 && s.late (s.cp r.queue) .store r.sigVa 8
/-- COMPLETION_SIGNAL (R210, R412): the fence releases of the dies that ran the grid and of the home die, the lazy records and
die-private lines of the grid sent home, then the signal, and the LAUNCH is complete. -/
def execCompletionSignal (launch : Nat) (s : State) : Out :=
  .next (if !s.launchOver launch || s.signalLate launch then s
    else
      let r := s.launchRec launch
      let home := r.queue / 256
      let dies := (r.dies ++ [home]).eraseDups
      let s := dies.foldl (fun s x => s.releaseNow x launch [fenceKey x] false) s
      let s := (s.forward fun d => d.launch == launch)
      let s := s.land s.serial
      let s := dies.foldl (fun s x => ((s.die x).copies.filter (·.2.cls == 3)).foldl (fun s c => s.writeBack x c.1) s) s
      let bad (s : State) : State :=
        let tag := (((s.queue r.queue).cmds.find? (·.index == r.cmd)).map (·.tag)).getD 0
        s.teardown r.queue 1 r.cmd tag 0
      match if r.sigVa == 0 then some s else s.sysWrite (s.cp r.queue) launch r.sigVa (leBytes 8 r.sigVal.toNat) false with
      | none => bad s
      | some s =>
        let s : State := { s with
          launches := adel s.launches launch
          tmpls := s.tmpls.map fun t => if t.2.launch == launch then (t.1, { t.2 with dropped := true, ahold := false }) else t }
        (s.sweep).cmdDone r.queue r.cmd)

end Sys2Proof.Machine
end

