-- ==== Sys2Proof/Machine/Commands.lean ====
section
/-! DEFINITION. Queues and their commands (R308 to R317), contexts (R274, R275), shootdown (R276), traps' host registers
(R358, R369, R371), page migration (R277, R278), and the host-visible window (R382 to R385, R390). -/
namespace Sys2Proof.Machine

/-- Whether a context-table entry is valid and well formed (R10, R274). -/
def entryOk (e : List W64) : Bool :=
  let w (i : Nat) : Nat := (e.getD i 0).toNat
  bits (w 0) 63 60 == 10 && (w 1).testBit 0 && bits (w 1) 63 16 == 0 && bits (w 1) 7 4 == 0 && w 2 % 4096 == 0
    && w 4 % 4096 == 0 && w 5 % 4096 == 0 && w 6 % 4096 == 0 && w 7 == 0
/-- The fields of QCFG. -/
def Queue.log2n (q : Queue) : Nat := bits q.cfg.toNat 4 0
def Queue.ctxNo (q : Queue) : Nat := bits q.cfg.toNat 15 8
def Queue.pri (q : Queue) : Nat := bits q.cfg.toNat 18 16

/-- The address of command i of a queue (R310). -/
def Queue.slotVa (q : Queue) (i : BitVec 32) : Nat :=
  ((sext57 (bits q.base.toNat 56 12 * 4096)).toNat + 64 * (i.toNat % 2 ^ q.log2n)) % 2 ^ 64
/-- The bytes of slots that both a QSIG and the host's doorbell have covered: free values (R340, log 2). -/
def State.mixed (s : State) (q : Nat) (l : List (BitVec 32)) : State :=
  if l.isEmpty then s
  else (l.foldl (fun s i => (s.writeVa { s.cp q with own := true } ((s.queue q).slotVa i)
    ((List.range 16).flatMap fun k => leBytes 4 (s.freeW (16 * (i.toNat % 65536) + k)).toNat)).1) s).drew
/-- DOORBELL (R309, R310). -/
def State.doorbell (s : State) (q : Nat) (index : BitVec 32) : State :=
  let x := s.queue q
  let both := x.sigs.filter fun i => decide ((i - x.hostIdx).toNat < (index - x.hostIdx).toNat)
  let s := (s.updQueue q fun x => { x with wr := index, hostIdx := index, sigs := x.sigs.filter fun i => !both.contains i }).mixed q both
  let x := s.queue q
  if x.st == .running && decide (2 ^ x.log2n < (x.wr - x.rd).toNat) then s.teardown q 5 x.rd.toNat 0 0 else s
def execDoorbell (q : Nat) (index : BitVec 32) (s : State) : Out := .next (s.doorbell q index)
/-- A write of QCFG that sets EN (R308, R313): the fields are written where EN reads 0 and the queue does not drain; the queue
is enabled when LOG2N, the context's entry and the status block allow. -/
def State.enable (s : State) (q : Nat) (cfg : W64) : State :=
  let x := s.queue q
  if x.st == .running || x.st == .draining then s
  else
    let s := s.updQueue q fun x => { x with cfg := cfg &&& 0x7FF1F }
    if x.st == .torn then s
    else
      let y := s.queue q
      let c := s.ctx y.ctxNo
      let e := if c.inUse then c.copy.getD c.entry else c.entry
      if y.log2n < 4 || 16 < y.log2n || c.closing || !entryOk e then s
      else
        let t := s.updCtx y.ctxNo fun c => { c with copy := some e, inUse := true }
        let fresh := y.rd == 0 && y.wr == 0
        let done : BitVec 32 := if fresh then 0 else y.done
        match t.sysWrite { t.cp q with own := true } 0 y.statVa (leBytes 8 done.toNat ++ (if fresh then List.replicate 56 0 else [])) false with
        | none => s
        | some t => t.updQueue q fun x => { x with st := .running, done, cfg := x.cfg ||| 0x80000000, cmds := [] }
/-- QUEUE_ENABLE (R308). -/
def execQueueEnable (q : Nat) (cfg : W64) (s : State) : Out := .next (s.enable q cfg)
/-- QUEUE_DRAIN (R309). -/
def State.drain (s : State) (q : Nat) : State :=
  if (s.queue q).st == .running then s.updQueue q fun x => { x with st := .draining, cfg := x.cfg &&& ~~~0x80000000#64 } else s
def execQueueDrain (q : Nat) (s : State) : Out := .next (s.drain q)
/-- DRAIN_COMPLETE (R309). -/
def execDrainComplete (q : Nat) (s : State) : Out :=
  .next (if !s.drained q then s
    else
      let x := s.queue q
      let s := s.statWrite q [(0, x.done.toNat + 2 * 2 ^ 32), (5, s.time.toNat)]
      (s.updQueue q fun x => { x with st := .disabled }).msi x.ctxNo 2)
/-- TEARDOWN of QCTL (R308, R324). -/
def execTeardown (q : Nat) (s : State) : Out := .next (s.teardown q 7 (s.queue q).rd.toNat 0 0)
/-- RESET of QCTL, on a torn-down queue (R308, R324, R371). -/
def State.resetQueue (s : State) (q : Nat) : State :=
  let x := s.queue q
  if x.st != .torn then s
  else
    let s := s.statWrite q [(0, x.done.toNat + 2 * 2 ^ 32)]
    { s.updQueue q fun x => { x with st := .disabled, rd := 0, wr := 0, hostIdx := 0, sigs := [] } with caps := s.caps.filter (·.queue != q) }
def execReset (q : Nat) (s : State) : Out := .next (s.resetQueue q)

/-- Eight-byte words read by the command processor with an acquire at .sys (R310, R412); none when a check fails. -/
def State.cpRead (s : State) (q va n : Nat) : State × Option (List W64) :=
  let w := s.cp q
  match s.checkDev w .load 8 8 ((List.range n).map fun i => (i, (va + 8 * i) % 2 ^ 64)) with
  | (s, .ok ps) =>
    let s := s.acqOpenAll w.die ps
    let (ws, s) := ps.foldl (fun (a : List W64 × State) p =>
      let (bs, s) := a.2.wideLoad w p 8
      (a.1 ++ [BitVec.ofNat 64 (leNat bs)], s)) ([], s)
    (s.acqCloseAll w.die ps true, some ws)
  | (s, _) => (s, none)
/-- Whether a command's words are well formed (R311, R312). -/
def cmdOk (ws : List W64) : Bool :=
  let w (i : Nat) : Nat := (ws.getD i 0).toNat
  let zero (from_ : Nat) : Bool := (ws.drop from_).all (· == 0)
  bits (w 0) 63 32 == 0 && bits (w 0) 15 8 == 0 &&
    (match w 0 % 256 with
      | 1 => w 1 % 256 == 0 && w 2 % 8 == 0 && zero 4
      | 2 => w 1 % 8 == 0 && bits (w 3) 2 0 ≤ 4 && bits (w 3) 4 3 ≤ 1 && w 3 < 32 && zero 4
      | 3 => w 1 % 8 == 0 && bits (w 4) 3 2 == 0 && bits (w 4) 6 4 ≤ 4 && w 4 < 128 && zero 6
      | 4 => zero 1 | 5 => w 1 % 8 == 0 && zero 2 | 6 => zero 1 | _ => false)
/-- The head command of a queue that may start but for its own condition (R309, R312): its words, none when they cannot be
read; the state after the reading, which waits out a migration or a region being moved (R278, R287). -/
def State.head (s : State) (q : Nat) : Option (State × Option (List W64)) :=
  let x := s.queue q
  if x.st != .running || x.rd == x.wr || (x.cmds.any fun c => c.op == 3 && !c.complete) || s.mgmt.stopped
      || s.late (s.cp q) .load (x.slotVa x.rd) 64 then none
  else some (s.cpRead q (x.slotVa x.rd) 8)
/-- The OP of a head command; 0 when it is malformed or cannot be read. -/
def headOp (ws : Option (List W64)) : Nat := match ws with | some l => if cmdOk l then (l.headD 0).toNat % 256 else 0 | none => 0
/-- The scopes of the commands: 0 .sys and 1 .dev reach other dies (R221, R412). -/
def cmdWide (sc : Nat) : Bool := sc ≤ 1
/-- Whether a store of the command processor needs a twin for which there is no room (R184). -/
def State.cpJam (s : State) (q va : Nat) : Bool :=
  (s.die (q / 256)).jammed && (match (s.checkLanes (s.cp q) .store 8 8 [(0, va)] noDet).2 with
    | .ok ps => s.twinFull (s.cp q) ps | _ => false)
/-- Whether a command's own access must wait out a migration or a region being moved (R278, R287), or wait for a twin's room (R184). -/
def State.cmdLate (s : State) (q op : Nat) (ws : List W64) : Bool :=
  let va := (ws.getD 1 0).toNat
  match op with
  | 1 => s.late (s.cp q) .load va 256
  | 2 => s.late (s.cp q) .store va 8 || !cmdWide (bits (ws.getD 3 0).toNat 2 0) && s.cpJam q va
  | 3 => s.late (s.cp q) .load va 8
  | 5 => s.late (s.cp q) .store va 8 || s.cpJam q va
  | _ => false
/-- Whether a queue's head command can start (R312): a launch record for a LAUNCH; every earlier command complete for an ORDER. -/
def State.canStart (s : State) (q : Nat) : Option Nat :=
  (s.head q).bind fun h =>
    let op := headOp h.2
    if op == 1 && decide (Config.launchRecords ≤ (s.launches.filter fun l => l.2.queue == q && l.2.foreign.isNone).length) then none
    else if op == 4 && !(s.queue q).cmds.isEmpty then none
    else if s.cmdLate q op (h.2.getD []) then none
    else some op
/-- The queue a die's command processor serves next, with its head's OP (R317). -/
def State.nextCommand (s : State) (x : Nat) : Option (Nat × Nat) :=
  let qs := (s.queues.filter fun q => q.1 / 256 == x && q.2.st == .running && q.2.rd != q.2.wr).map (·.1)
  if qs.isEmpty then none
  else [7, 6, 5, 4, 3, 2, 1, 0].findSome? fun pri =>
    let l := qs.filter fun q => (s.queue q).pri == pri
    let last := (aget (s.die x).served pri).getD 0
    let seen := (aget (s.die x).served pri).isSome
    (l.filter (fun n => !seen || decide (last < n)) ++ l.filter (fun n => seen && decide (n ≤ last))).findSome? fun q =>
      (s.canStart q).map fun op => (q, op)
/-- A command started, if its queue is the one to be served and its OP is this one (R310, R312, R317): `f` receives its words,
its index and the state; a malformed command tears the queue down. -/
def State.start (s : State) (q op : Nat) (f : State → List W64 → Nat → State) : State :=
  if s.nextCommand (q / 256) != some (q, op) then s
  else match s.head q with
  | none => s
  | some (s, ws) =>
    let x := s.queue q
    let s := s.updDie (q / 256) fun d => { d with served := aset d.served x.pri q }
    let l := ws.getD []
    let tag := bits (l.headD 0).toNat 31 16
    if headOp ws == 0 then s.teardown q 1 x.rd.toNat tag 0
    else
      let s := s.updQueue q fun x => { x with
        rd := x.rd + 1, sigs := x.sigs.filter (· != x.rd)
        cmds := x.cmds ++ [{ index := x.rd.toNat, op, tag, words := l, start := s.time.toNat, polled := s.time.toNat }] }
      f s l x.rd.toNat
/-- A command whose own access failed a check (R312). -/
def State.badCmd (s : State) (q idx : Nat) (l : List W64) : State := s.teardown q 1 idx (bits (l.headD 0).toNat 31 16) 0

/-- Unpinned lines of a context leave every core's instruction caches at a LAUNCH (R177). -/
def State.icDrop (s : State) (ctx : Nat) (pinned : Bool) : State :=
  let keep (x : ICLine) : Bool := x.ctx != ctx || (x.pin && !pinned)
  { s with cores := s.cores.map fun c => (c.1, { c.2 with l1i := c.2.l1i.filter keep, l0i := c.2.l0i.map (·.filter keep) }) }
/-- LAUNCH (R312, R316): the descriptor is read once; the teams wait in a launch record. -/
def execLaunch (q : Nat) (s : State) : Out :=
  .next (s.start q 1 fun s l idx =>
    let w (i : Nat) : Nat := (l.getD i 0).toNat
    let ctx := (s.cp q).ctx
    let tag := bits (w 0) 31 16
    match s.readVa (s.cp q) (w 1) 256 with
    | (s, none) => s.badCmd q idx l
    | (s, some bs) =>
      if !s.descOk ctx bs then s.teardown q 2 idx tag 0
      else
        let d := descFields bs
        let (n, s) := s.fresh
        let r : Launch := {
          queue := q, ctx, cmd := idx, pri := (s.queue q).pri, desc := d, raw := bs, sigVa := w 2, sigVal := l.getD 3 0, todo := d.order
          total := d.teams, seed := s.time.setWidth 32, prologue := if d.templated then .running else .none, waiting := s.time.toNat }
        let s := (s.icDrop ctx false).updQueue q fun x => { x with cmds := x.cmds.map fun c => if c.index == idx then { c with launch := some n } else c }
        { s with launches := aset s.launches n r })
/-- SIGNAL (R312, R412). -/
def execSignal (q : Nat) (s : State) : Out :=
  .next (s.start q 2 fun s l idx =>
    let w (i : Nat) : Nat := (l.getD i 0).toNat
    let who := s.cp q
    let add := bits (w 3) 4 3 == 1
    let wide := cmdWide (bits (w 3) 2 0)
    match s.spot who (if add then .atomic else .store) 8 8 (w 1) with
    | (s, none) => s.badCmd q idx l
    | (s, some p) =>
      let s := if wide then s.releaseNow who.die 0 [p.pa] true else s
      let bs := leBytes 8 (w 2)
      let s := if add then (s.atomAt who p .add 8 (l.getD 2 0, 0)).2
        else if wide && p.cls != 3 then s.homeStore who.die p.pa bs else s.store who p bs .n
      let s := if !wide && p.cls == 1 then s.narrowHold who.die p.pa else s
      s.cmdDone q idx)
/-- One load of a WAITV, and its completion when the condition holds (R312). -/
def State.pollWait (s : State) (q idx : Nat) (l : List W64) : State :=
  let w (i : Nat) : W64 := l.getD i 0
  let who := s.cp q
  let wide := cmdWide (bits (w 4).toNat 6 4)
  let s := s.updQueue q fun x => { x with cmds := x.cmds.map fun c => if c.index == idx then { c with polled := s.time.toNat } else c }
  match s.spot who .load 8 8 (w 1).toNat with
  | (s, none) => s.badCmd q idx l
  | (s, some p) =>
    let s := if wide then s.acqOpenAll who.die [p] else s
    let (bs, s) := if wide then s.wideLoad who p 8 else s.load who p 8 .n
    let s := if wide then s.acqCloseAll who.die [p] (bits (w 4).toNat 6 4 == 0) else s
    let a := BitVec.ofNat 64 (leNat bs) &&& w 3
    let b := w 2 &&& w 3
    let hit := match (w 4).toNat % 4 with | 0 => a == b | 1 => a != b | 2 => decide (b.toNat ≤ a.toNat) | _ => decide (a.toNat < b.toNat)
    if hit then s.cmdDone q idx else s
/-- WAITV (R312): its first load is made at its start. -/
def execWaitv (q : Nat) (s : State) : Out := .next (s.start q 3 fun s l idx => s.pollWait q idx l)
/-- The WAITV a queue waits at. -/
def Queue.waiting (q : Queue) : Option Cmd := q.cmds.find? fun c => c.op == 3 && !c.complete
/-- WAITV_POLL (R312): ten ticks or more after the load before. -/
def execWaitvPoll (q : Nat) (s : State) : Out :=
  .next (match (s.queue q).waiting with
    | some c => if s.time.toNat < c.polled + 10 || s.cmdLate q 3 c.words then s else s.pollWait q c.index c.words
    | none => s)
/-- A WAITV's timeout has come (R312). -/
def Cmd.late (c : Cmd) (now : Nat) : Bool := c.words.getD 5 0 != 0 && decide (c.start + (c.words.getD 5 0).toNat ≤ now)
/-- WAITTIME (R312, R314). -/
def execWaittime (q : Nat) (s : State) : Out :=
  .next (match (s.queue q).waiting with
    | some c => if c.late s.time.toNat then s.teardown q 4 c.index c.tag 0 else s
    | none => s)
/-- ORDER (R312). -/
def execOrder (q : Nat) (s : State) : Out := .next (s.start q 4 fun s _ idx => s.cmdDone q idx)
/-- STAMPTS (R312). -/
def execStampts (q : Nat) (s : State) : Out :=
  .next (s.start q 5 fun s l idx =>
    let who := s.cp q
    match s.spot who .store 8 8 (l.getD 1 0).toNat with
    | (s, none) => s.badCmd q idx l
    | (s, some p) => (s.store who p (leBytes 8 s.time.toNat) .n).cmdDone q idx)
/-- QNOP (R312); a head command that is malformed, or cannot be read, also fails here (R311). -/
def execQnop (q : Nat) (s : State) : Out :=
  .next (match s.nextCommand (q / 256) with
    | some (p, 0) => if p == q then s.start q 0 fun s _ _ => s else s
    | _ => s.start q 6 fun s _ idx => s.cmdDone q idx)

/-- HALT (R369): the context's resident teams. -/
def State.haltCtx (s : State) (ctx : Nat) (v : Bool) : State :=
  { s with teams := s.teams.map fun t =>
      if t.2.ctx == ctx && (!v || t.2.st == .resident) then (t.1, { t.2 with halted := v }) else t }
def execHalt (ctx : Nat) (s : State) : Out := .next (s.haltCtx ctx true)
/-- RESUME (R369): every halted team of the context. -/
def execResume (ctx : Nat) (s : State) : Out := .next (s.haltCtx ctx false)
/-- CAPSEL (R371). -/
def execCapsel (capid : W64) (s : State) : Out := .next { s with capsel := capid }

/-- Word 1 of an entry stored; DOWN is the command processor's (R274, R275). -/
def State.setWord1 (s : State) (ctx : Nat) (w : W64) : State :=
  s.updCtx ctx fun c => { c with entry := lset c.entry 1 fun _ => w }
/-- The teardown of a context in use, but for DOWN (R275). The record of a migration that still waits for room in the ring is dropped, and
not counted: the page has been moved (DESIGN CHOICE, log 91). -/
def State.closeCtx (s : State) (c : Nat) : State :=
  let asid := (s.ctx c).asid
  let mine (q : Queue) : Bool := q.ctxNo == c
  let s := (s.queues.filter fun q => mine q.2 && q.2.st == .running).foldl (fun s q => s.teardown q.1 7 q.2.rd.toNat 0 0) s
  let s := (s.queues.filter fun q => mine q.2 && q.2.st == .draining).foldl (fun s q => s.updQueue q.1 fun x => { x with cmds := [] }) s
  let s := (s.launches.filter (·.2.ctx == c)).foldl (fun s l =>
    (s.sayEnded l.1).stopLaunch l.1) s
  let s := (s.forward fun r => (s.launches.all fun l => l.1 != r.launch)).icDrop c true
  let s := s.dies.foldl (fun s d => let n := (d.2.migq.filter fun m => m.2.2.2 == c).length; if n == 0 then s else s.countDie d.1 0x116 n) s
  let s : State := { s with
    cores := s.cores.map fun k => (k.1, { k.2 with
      tlb := k.2.tlb.filter fun e => e.asid != asid && !e.glob, wtlb := k.2.wtlb.filter fun e => e.asid != asid && !e.glob })
    dies := s.dies.map fun d => (d.1, { d.2 with
      migq := d.2.migq.filter fun m => m.2.2.2 != c, migRec := d.2.migRec.filter fun r => r.1 != c })
    migrating := s.migrating.filter fun p => (s.dies.all fun d => d.2.migq.all fun m => !(m.1 == p && m.2.2.2 == c))
    caps := s.caps.filter (·.ctx != c)
    tmpls := s.tmpls.map fun t => if t.2.ctx == c then (t.1, { t.2 with dropped := true, ahold := false }) else t }
  (s.sweep).updCtx c fun x => { x with bintmr := 256, hcbase := 0, hcidx := 0, tqprod := 0, tqcons := 0, tqlost := 0, closing := true }
/-- CONTEXT_TEARDOWN (R275): a store of V = 0; while a teardown runs, a rewrite is ignored. -/
def execContextTeardown (ctx : Nat) (word : W64) (s : State) : Out :=
  let x := s.ctx ctx
  .next (if x.closing || word.getLsbD 0 then s
    else
      let s := s.setWord1 ctx ((word &&& ~~~8#64) ||| ((x.entry.getD 1 0) &&& 8))
      if x.inUse then s.closeCtx ctx else s)
/-- CONTEXT_TEARDOWN_DONE (R275 step 8), once nothing that the device has to write for the context is delayed; records written since step 7
have moved its registers again. -/
def execContextTeardownDone (ctx : Nat) (s : State) : Out :=
  .next (if (s.ctx ctx).closing && !s.later.any (·.isOf ctx) then
      s.updCtx ctx fun x => { x with
        closing := false, inUse := false, copy := none, entry := lset x.entry 1 (· ||| 8), tqprod := 0, tqcons := 0, tqlost := 0 }
    else s)
/-- CONTEXT_VALIDATE (R275): a store of V = 1 clears DOWN. -/
def execContextValidate (ctx : Nat) (word : W64) (s : State) : Out :=
  .next (if (s.ctx ctx).closing || !word.getLsbD 0 then s else s.setWord1 ctx (word &&& ~~~8#64))

/-- SHOOTDOWN (R276): GO clears DONE; ignored while DONE is 0. -/
def State.shoot (s : State) (ctl : W64) : State :=
  if !ctl.getLsbD 0 || !s.sdctl.getLsbD 8 then s else { s with sdctl := ctl &&& 0xE }
def execShootdown (ctl : W64) (s : State) : Out := .next (s.shoot ctl)
/-- Whether a cached translation falls under a shootdown (R276): G entries too. -/
def TlbEntry.shot (e : TlbEntry) (va len asid : Nat) (all : Bool) : Bool :=
  (all || e.glob || e.asid == asid) &&
    (len == 0 || (decide (e.vpn * 2 ^ e.bits < va + 4096 * len) && decide (va < (e.vpn + 1) * 2 ^ e.bits)))
/-- Every twin and die-private line of a physical page sent home, on every die (R276, R278). -/
def State.pagePublish (s : State) (hit : Nat → Bool) : State :=
  s.dies.foldl (fun s d =>
    let s := (d.2.twins.filter fun w => hit w.1).foldl (fun s w => s.publishNow d.1 w.1 1) s
    (d.2.copies.filter fun c => hit c.1 && c.2.cls == 3).foldl (fun s c => s.writeBack d.1 c.1) s) s
/-- The leaves of a page table from a level down: base and log2 of the size of each (R273). -/
def State.leaves (s : State) : Nat → Nat → List (Nat × Nat)
  | 0, _ => []
  | l + 1, ppn => (List.range 512).flatMap fun i =>
    let at_ := ppn * 4096 + 8 * i
    let e := if s.visible at_ then leNat (s.homeRd at_ 8) else 0
    let p := bits e 53 10
    if !e.testBit 0 then []
    else if !e.testBit 1 && !e.testBit 3 then s.leaves l p
    else if e.testBit 63 then [((p - p % 16) * 4096, 16)] else [(p * 4096, 12 + 9 * l)]
/-- What a shootdown covers of physical memory (R276): what its pages are mapped to now, and by the translations still cached;
bases and log2 of sizes. -/
def State.shotAt (s : State) (va len asid : Nat) (all : Bool) : List (Nat × Nat) :=
  let ctxs := (s.ctxs.filter fun c => c.2.inUse && (all || c.2.asid == asid)).map (·.1)
  let tlb := (s.cores.flatMap fun k => k.2.tlb ++ k.2.wtlb).filter fun e => e.shot va len asid all
  if len == 0 then (ctxs.flatMap fun c => s.leaves 5 (bits ((s.ctx c).word 0) 43 0)) ++ tlb.map fun e => (e.ppn, e.bits)
  else (List.range len).flatMap fun k =>
    let a := (va + 4096 * k) % 2 ^ 57
    (ctxs.filterMap fun c => match s.walkCtx c a with | .ok e => some (e.ppn + a % 2 ^ e.bits, 12) | .error _ => none)
      ++ (tlb.filter fun e => e.vpn == a / 2 ^ e.bits).map fun e => (e.ppn + a % 2 ^ e.bits, 12)
/-- Whether a release that has been issued still has a write to make through a translation that a shootdown invalidates (R276). -/
def State.shotOwed (s : State) (va len asid : Nat) (all : Bool) : Bool :=
  s.cores.any fun k => k.2.ops.any fun o => match o.kind with
    | .release ws .. => ws.any fun w => w.tr.shot va len asid all
    | _ => false
/-- Whether a release that has been issued still has a write to make into a page (R276, R278). -/
def State.pageOwed (s : State) (page : Nat) : Bool :=
  s.cores.any fun k => k.2.ops.any fun o => match o.kind with | .release ws .. => ws.any fun w => w.pa - w.pa % 4096 == page | _ => false
/-- SHOOTDOWN_DONE (R276): the invalidation and the publication, performed by every core and die, once every access that used an
invalidated translation has been performed. -/
def execShootdownDone (s : State) : Out :=
  let va := s.sdva.toNat
  let len := s.sdlen.toNat
  let asid := s.sdasid.toNat
  let all := s.sdctl.getLsbD 3
  .next (if s.sdctl.getLsbD 8 || (s.sdctl.getLsbD 1 && s.shotOwed va len asid all) then s
    else
      let at_ := if s.sdctl.getLsbD 2 then s.shotAt va len asid all else []
      let s := if s.sdctl.getLsbD 2 then s.pagePublish fun line => at_.any fun p => decide (p.1 ≤ line) && decide (line < p.1 + 2 ^ p.2) else s
      let s : State := if s.sdctl.getLsbD 1 then
          { s with cores := s.cores.map fun k => (k.1, { k.2 with
              tlb := k.2.tlb.filter fun e => !e.shot va len asid all, wtlb := k.2.wtlb.filter fun e => !e.shot va len asid all }) }
        else s
      { s with sdctl := s.sdctl ||| 0x100 })

/-- MIGRATION_WINDOW_RESET (R277). -/
def execMigrationWindowReset (s : State) : Out :=
  .next (if s.time.toNat % 100000 == 0 then { s with dies := s.dies.map fun d => (d.1, { d.2 with acc4k := [] }) } else s)
/-- A free frame of a die's migration pool (R278). -/
def State.poolFrame (s : State) (x : Nat) : Option Nat :=
  let base := ((aget s.pools (2 * x)).getD 0).toNat
  let len := ((aget s.pools (2 * x + 1)).getD 0).toNat
  ((List.range (len / 4096)).map (base + 4096 * ·)).find? fun f => !s.poolUsed.contains f
/-- The migration at the head of a die's queue given up (R278). -/
def State.abandon (s : State) (x page : Nat) : State :=
  { (s.updDie x fun d => { d with migq := d.migq.drop 1 }).countDie x 0x116 with migrating := s.migrating.filter (· != page) }
/-- The place of a context's next notification record. -/
def Ctx.ringVa (c : Ctx) : Nat := c.word 6 + 32 * (c.ringSeq % 256)
/-- Whether a context's notification ring has room for its next record (log 35), and its place there is not delayed (R278, R287). -/
def State.ringRoom (s : State) (x ctx : Nat) : Bool :=
  let c := s.ctx ctx
  c.word 6 == 0 || !s.late (deviceOn x ctx) .store c.ringVa 32 && (match (s.readVa (deviceOn x ctx) (c.ringVa + 24) 8).2 with
    | some bs => leNat bs == 0 | none => true)
/-- The record of a migration posted to the context's notification ring (R278): VA, old PA and new PA in 8 bytes each, the ASID and the
sequence in 4 each, of which the first is 1 (DESIGN CHOICE, log 89). -/
def State.postMig (s : State) (die ctx va old new : Nat) : State :=
  let c := s.ctx ctx
  let bs := leBytes 8 va ++ leBytes 8 old ++ leBytes 8 new ++ leBytes 4 c.asid ++ leBytes 4 (c.ringSeq + 1)
  match if c.word 6 == 0 then none else s.sysWrite (deviceOn die ctx) 0 c.ringVa bs false with
  | some s => (s.updCtx ctx fun c => { c with ringSeq := c.ringSeq + 1 }).msi ctx 3
  | none => s
/-- A record that found the ring full is posted once there is room (R278). -/
def State.postWaiting (s : State) (die : Nat) : State :=
  match (s.die die).migRec with
  | some (ctx, va, old, new) =>
    if s.ringRoom die ctx then (s.updDie die fun d => { d with migRec := none }).postMig die ctx va old new else s
  | none => s
/-- PAGE_MIGRATION (R278): first the page is marked; the second time it is moved, or abandoned, once every access that was checked before
has been performed (R276). A record that finds the ring full waits, and the migration behind it. What is poisoned in the page stays
with the old frame (DESIGN CHOICE, log 90). -/
def execPageMigration (die : Nat) (s : State) : Out :=
  .next (match (s.die die).migq with
    | [] => s
    | (p, x, va, ctx) :: _ =>
      let inPage (l : Nat) : Bool := l - l % 4096 == p
      let held := s.dies.any fun d => d.2.twins.any fun w => inPage w.1 && w.2.cls != .c
      if (s.die die).migRec.isSome then s.postWaiting die
      else match s.poolFrame x with
      | none => s.abandon die p
      | some f =>
        if held then s.abandon die p
        else if !s.migrating.contains p then { s with migrating := p :: s.migrating }
        else if s.pageOwed p then s
        else
          let s := s.pagePublish inPage
          let s := s.homePut f (s.homeRd p 4096)
          match s.walkCtx ctx va with
          | .error _ => s.abandon die p
          | .ok e =>
            if bits (leNat (s.homeRd e.pte 8)) 53 10 * 4096 != p || e.nap || e.bits != 12 then s.abandon die p
            else
              let old := leNat (s.homeRd e.pte 8)
              let new := old - bits old 53 10 * 1024 + f / 4096 * 1024
              let s := s.homePut e.pte (leBytes 8 new)
              let s : State := { s with
                cores := s.cores.map fun k => (k.1, { k.2 with tlb := k.2.tlb.filter (·.pte != e.pte), wtlb := k.2.wtlb.filter (·.pte != e.pte) })
                migrating := s.migrating.filter (· != p), poolUsed := f :: s.poolUsed }
              let s := (s.updDie die fun d => { d with migq := d.migq.drop 1 }).countDie die 0x117
              if s.ringRoom die ctx then s.postMig die ctx va p f else s.updDie die fun d => { d with migRec := some (ctx, va, p, f) })

/-- HOST_WRITE (R209): bytes written at their home by a host core, each line's notice logged for every die; a program's store where it
falls into a spill region or a bitmap (R187, R334). -/
def execHostWrite (pa : Nat) (bytes : List Byte) (s : State) : Out :=
  .next (if bytes.isEmpty || !s.visible pa || !s.visible (pa + bytes.length - 1) then s
    else
      let lines := (List.range ((pa % 128 + bytes.length + 127) / 128)).map fun k => lineOf pa + 128 * k
      let s := [0, 1, 2, 3].foldl (fun s x => s.updDie x fun d => { d with notices := d.notices ++ lines.filter fun l => !d.notices.contains l }) s
      let n := pa + bytes.length
      let s := lines.foldl (fun s l => s.noteStore false (max pa l) (min n (l + 128) - max pa l)) s
      s.homePut pa bytes)
/-- PCIE_WINDOW_REQUEST (R382): refused with a completer abort; nothing of the package changes. -/
def execPcieWindowRequest (_off : Nat) (_write : Bool) (s : State) : Out := .next s

/-- A 4- or 8-byte write merged into an 8-byte register. -/
def mergeReg (old : W64) (off size : Nat) (v : W64) : W64 :=
  if size == 8 then v
  else if off % 8 == 0 then (old &&& 0xFFFFFFFF00000000) ||| (v &&& 0xFFFFFFFF) else (old &&& 0xFFFFFFFF) ||| (v <<< 32)
/-- A register of the window as a read returns it (R276, R308, R358, R371, R375, R382 to R385, R390): 8 bytes, aligned. -/
def State.windowWord (s : State) (off : Nat) : W64 :=
  let o := off - off % 8
  if o == 0 then Config.stepping.setWidth 64 <<< 32 ||| 0x00094F42
  else if 0x10000 ≤ o && o < 0x14000 then (s.ctx ((o - 0x10000) / 64)).entry.getD (o % 64 / 8) 0
  else if 0x100000 ≤ o && o < 0x110000 then
    let q := s.queue ((o - 0x100000) / 64)
    (match o % 64 with | 0x00 => q.base | 0x08 => q.cfg | 0x10 => q.stat | 0x18 => q.wr.setWidth 64 | 0x20 => q.rd.setWidth 64 | _ => 0)
  else if 0x200000 ≤ o && o < 0x202000 then
    let c := s.ctx ((o - 0x200000) / 32)
    (match o % 32 with | 0x00 => c.tqprod.setWidth 64 | 0x08 => c.tqcons.setWidth 64 | 0x10 => c.tqlost.setWidth 64 | _ => 0)
  else if 0x202000 ≤ o && o < 0x202020 then (s.die ((o - 0x202000) / 8)).predl.setWidth 64
  else if o == 0x202100 then s.sdva else if o == 0x202108 then s.sdlen else if o == 0x202110 then s.sdasid else if o == 0x202118 then s.sdctl
  else if o == 0x203000 then s.capsel
  else if o == 0x203008 then BitVec.ofNat 64 (((s.caps.find? (·.capid == s.capsel.toNat)).map (·.bytes.length)).getD 0)
  else if 0x204000 ≤ o && o < 0x204040 then (aget s.pools ((o - 0x204000) / 8)).getD 0
  else if 0x208000 ≤ o && o < 0x210000 then (aget s.portbind ((o - 0x208000) / 8)).getD 0
  else if 0x210000 ≤ o && o < 0x211000 then
    let c := s.ctx ((o - 0x210000) / 16)
    if o % 16 == 0 then c.intAddr else c.intData
  else if o == 0x220008 then (if s.mgmt.mboxDone then 1 else 0)
  else if 0x220040 ≤ o && o < 0x221000 then BitVec.ofNat 64 (leNat ((s.mgmt.mbox.drop (o - 0x220040)).take 8))
  else if 0x400000 ≤ o && o < 0x800000 then
    BitVec.ofNat 64 (leNat ((((s.caps.find? (·.capid == s.capsel.toNat)).map (·.bytes)).getD []).drop (o - 0x400000) |>.take 8))
  else if 0x800000 ≤ o && o < 0xC00000 then
    let q := s.queue ((o - 0x800000) / 4096)
    (match o % 4096 with | 0 => q.wr.setWidth 64 | 8 => q.rd.setWidth 64 | _ => 0)
  else 0
/-- What a host read of the window returns (R382): other sizes, misaligned reads and reserved offsets return 0. -/
def State.windowValue (s : State) (off size : Nat) : W64 :=
  if (size != 4 && size != 8) || off % size != 0 || !decide (off < Config.windowBytes) then 0
  else if size == 8 then s.windowWord off
  else ((s.windowWord off) >>> (8 * (off % 8))).setWidth 32 |>.setWidth 64
/-- A host read of the window, which answers nothing before the window is enabled (R391). -/
def State.windowRead (s : State) (off size : Nat) : Option W64 := if s.mgmt.ready then some (s.windowValue off size) else none
/-- A queue's registers written (R308). -/
def State.queueWrite (s : State) (q r : Nat) (low : Bool) (v : W64) : State :=
  let x := s.queue q
  let open_ := x.st != .running && x.st != .draining
  match r with
  | 0x00 => if open_ then s.updQueue q fun x => { x with base := v &&& 0x01FFFFFFFFFFF000 } else s
  | 0x08 =>
    if v.getLsbD 31 then s.enable q v
    else if open_ then s.updQueue q fun x => { x with cfg := v &&& 0x7FF1F }
    else s.drain q
  | 0x10 => if open_ then s.updQueue q fun x => { x with stat := v &&& 0x01FFFFFFFFFFFFC0 } else s
  | 0x18 => if low then s.doorbell q (v.setWidth 32) else s
  | 0x28 =>
    if !low then s
    else
      let s := if v.getLsbD 0 then s.teardown q 7 x.rd.toNat 0 0 else s
      if v.getLsbD 1 && x.st == .torn then s.resetQueue q else s
  | _ => s
/-- A context-table word written (R274, R275). -/
def State.entryWrite (s : State) (c i : Nat) (v : W64) : State :=
  let of (o : Out) : State := match o with | .next t => t | _ => s
  if i == 1 then (if v.getLsbD 0 then of (execContextValidate c v s) else of (execContextTeardown c v s))
  else if (s.ctx c).closing then s
  else s.updCtx c fun x => { x with entry := lset x.entry i fun _ => v }
/-- REGISTER_WRITE (R382): a host write of 4 or 8 aligned bytes to the window; other sizes, and writes to reserved or read-only
offsets, are ignored. -/
def execRegisterWrite (off size : Nat) (value : W64) (s : State) : Out :=
  let o := off - off % 8
  let low := off % 8 == 0
  let v := mergeReg (if 0x100000 ≤ o && o < 0x110000 && o % 64 == 0x28 then 0 else s.windowWord off) off size value
  .next (if (size != 4 && size != 8) || off % size != 0 || !decide (off < Config.windowBytes) then s
    else if 0x10000 ≤ o && o < 0x14000 then s.entryWrite ((o - 0x10000) / 64) (o % 64 / 8) v
    else if 0x100000 ≤ o && o < 0x110000 then s.queueWrite ((o - 0x100000) / 64) (o % 64) low v
    else if 0x200000 ≤ o && o < 0x202000 then
      let c := (o - 0x200000) / 32
      if o % 32 == 0x08 && low then s.updCtx c fun x => { x with tqcons := v.setWidth 32 }
      else if o % 32 == 0x18 && low then
        let s := if value.getLsbD 1 then s.haltCtx c true else s
        if value.getLsbD 0 then s.haltCtx c false else s
      else s
    else if 0x202000 ≤ o && o < 0x202020 then
      let n := (v.setWidth 32 : BitVec 32).toNat
      if 100 ≤ n && n ≤ 10000000 then s.updDie ((o - 0x202000) / 8) fun d => { d with predl := v.setWidth 32 } else s
    else if o == 0x202100 then { s with sdva := v &&& 0x01FFFFFFFFFFF000 }
    else if o == 0x202108 then { s with sdlen := v &&& 0xFFFFFFFF }
    else if o == 0x202110 then { s with sdasid := v &&& 0xFFFF }
    else if o == 0x202118 then (if low then s.shoot v else s)
    else if o == 0x203000 then { s with capsel := v }
    else if 0x204000 ≤ o && o < 0x204040 then
      let k := (o - 0x204000) / 8
      let lo := ((aget s.pools (2 * (k / 2))).getD 0).toNat
      let n := ((aget s.pools (2 * (k / 2) + 1)).getD 0).toNat
      { s with pools := aset s.pools k (v &&& ~~~0xFFF#64), poolUsed := s.poolUsed.filter fun f => !(decide (lo ≤ f) && decide (f < lo + n)) }
    else if 0x208000 ≤ o && o < 0x210000 then { s with portbind := aset s.portbind ((o - 0x208000) / 8) (v &&& 0x80000000000000FF) }
    else if 0x210000 ≤ o && o < 0x211000 then
      s.updCtx ((o - 0x210000) / 16) fun c => if o % 16 == 0 then { c with intAddr := v &&& ~~~3#64 } else { c with intData := v &&& 0xFFFFFFFFF }
    else if off == 0x220000 then
      let n := value.toNat % 2 ^ (8 * size)
      if 4032 < n then s
      else { s with mgmt := { s.mgmt with mboxDone := false, pending := some n } }
    else if 0x220040 ≤ o && o < 0x221000 then
      let a := off - 0x220040
      let m := s.mgmt.mbox ++ List.replicate (a + size - s.mgmt.mbox.length) 0
      { s with mgmt := { s.mgmt with mbox := m.take a ++ leBytes size value.toNat ++ m.drop (a + size) } }
    else if 0x800000 ≤ o && o < 0xC00000 then
      (if o % 4096 == 0 && low then s.doorbell ((o - 0x800000) / 4096) (v.setWidth 32) else s)
    else s)

end Sys2Proof.Machine
end

