-- ==== Sys2Proof/Machine/Fabric.lean ====
section
/-! DEFINITION. Messages between packages, the fabric ports, and the beacons (R322, R331 to R333, R388, R389). -/
namespace Sys2Proof.Machine

/-- A message sent through a port. -/
def State.say (s : State) (port : Nat) (m : OutMsg) : State := s.updPort port fun p => { p with out := p.out ++ [m] }
/-- The agent that performs a far package's accesses: the die of the port, in the bound context (R331). -/
def farWho (port ctx : Nat) : Who := { die := port / 4, ctx }
/-- Whether a message of the far side must wait: a page in migration, or a region in re-striping, delays accesses (R238, R277, R287). -/
def State.delays (s : State) : Bool := !s.migrating.isEmpty || s.hbm.any (·.2.moving)
/-- Whether a write of the far side must wait, since a twin of it might find no room (R184). -/
def State.jams (s : State) : Bool := s.dies.any (·.2.jammed)
/-- What arrives through a port: nothing while its link is down (R388). -/
def State.through (s : State) (port : Nat) (f : State → State) : Out :=
  .next (if !(s.port port).up then s else f (if (s.port port).retries == 0 then s else s.updPort port fun p => { p with retries := 0 }))

/-- The pieces of a far write, each checked and then written; the first failing one ends it (R333). The final piece of a
SEND.rel is a .sys release (R332). -/
def State.farWrite (s : State) (w : Who) (va : Nat) (rel : Bool) : Nat → List Byte → State × Option (Nat × Nat)
  | _, [] => (s, none)
  | j, b0 :: b1 :: b2 :: b3 :: b4 :: b5 :: b6 :: b7 :: b8 :: b9 :: ba :: bb :: bc :: bd :: be :: bf :: r =>
    let piece := [b0, b1, b2, b3, b4, b5, b6, b7, b8, b9, ba, bb, bc, bd, be, bf]
    match s.copySpot w .store 16 ((va + 16 * j) % 2 ^ 64) with
    | (s, .ok p) =>
      let s := if rel && r.isEmpty then (s.releaseNow w.die 0 [p.pa] true).homeStore w.die p.pa piece else s.store w p piece .n
      s.farWrite w va rel (j + 1) r
    | (s, .error (.fault c _ _ _)) => (s, some (c, 16 * j))
    | (s, .error _) => (s, some (8, 16 * j))
  | _, _ => (s, none)
/-- PUT (R332, R333, R389). -/
def execPut (port : Nat) (m : PutMsg) (s : State) : Out :=
  s.through port fun s => (if s.delays || s.jams then s
    else
      let (s, bad) :=
        if m.va % 16 != 0 then (s, some (1, 0))
        else if !(s.ctx m.ctx).inUse then (s, some (8, 0))
        else s.farWrite (farWho port m.ctx) m.va m.rel 0 m.bytes
      match bad with
      | some (c, o) => if m.posted then s.countDie (port / 4) 0x118 else s.say port (.nack m.seq c o)
      | none => if m.posted then s else s.say port (.ack m.seq))
/-- GETREQ (R332, R333, R389). -/
def execGetreq (port : Nat) (m : GetMsg) (s : State) : Out :=
  let w := farWho port m.ctx
  s.through port fun s => (if s.delays then s
    else if m.va % 16 != 0 then s.say port (.nack m.seq 1 0)
    else if !(s.ctx m.ctx).inUse then s.say port (.nack m.seq 8 0)
    else
      let s := if m.acq then s.acqFence w.die true else s
      match s.localCheck w .load m.va m.len with
      | (s, .error e) => s.say port (.nack m.seq ((e.map (·.1)).getD 8) ((e.map (·.2.1)).getD 0))
      | (s, .ok _) =>
        let (bs, s) := s.localRead w m.va m.len
        s.say port (.getdata m.seq bs))

/-- A transfer outstanding at a port, by its sequence: its core and command. -/
def State.xfer (s : State) (port seq : Nat) : Option (Nat × POp × Xfer) :=
  ((s.port port).outstanding.find? (·.1 == seq)).bind fun e =>
    (s.op? e.2.1 e.2.2).bind fun o => match o.kind with | .fabric x => some (e.2.1, o, x) | _ => none
/-- A transfer's fields changed. -/
def State.setXfer (s : State) (core op : Nat) (f : Xfer → Xfer) : State :=
  s.updOp core op fun o => match o.kind with | .fabric x => { o with kind := .fabric (f x) } | _ => o
/-- GETDATA (R332, R389): the local writes of an FGET. -/
def execGetdata (port seq : Nat) (bytes : List Byte) (s : State) : Out :=
  s.through port fun s => (if s.delays || s.jams then s
    else match s.xfer port seq with
    | some (c, o, x) =>
      if x.send || bytes.length != x.len || x.got.isSome || x.err.isSome then s
      else match s.farWrite { o.who c with ahead := false } x.lva false 0 bytes with
        | (s, none) => s.setXfer c o.id fun x => { x with got := some [] }
        | (s, some (e, off)) => s.setXfer c o.id fun x => { x with err := some (e, off, (x.lva + off) % 2 ^ 64) }
    | none => s)
/-- ACK (R332, R389): of a SEND; of a team sent, which is the receiver's from now on; of a TEAMEND. -/
def execAck (port seq : Nat) (s : State) : Out :=
  s.through port fun s => (match s.xfer port seq with
    | some (c, o, x) => if x.send && x.err.isNone then s.setXfer c o.id fun x => { x with got := some [] } else s
    | none =>
      let gone := (s.port port).sentTeams.filter (·.1 == seq)
      let sent (t : Team) : Bool := t.st == .sent && gone.any fun g => g.2.1 == t.launch && g.2.2 == t.index
      let s := (s.updPort port fun p => { p with sentTeams := p.sentTeams.filter (·.1 != seq) }).portDone port seq
      if s.teams.any fun t => sent t.2 then ({ s with teams := s.teams.filter fun t => !sent t.2 } : State).sweep else s)
/-- A team sent away that comes back to the front of its launch record (R322). -/
def State.takeBack (s : State) (port seq : Nat) : State :=
  match (s.port port).sentTeams.find? (·.1 == seq) with
  | none => s
  | some (_, l, i) =>
    let s := (s.updPort port fun p => { p with sentTeams := p.sentTeams.filter (·.1 != seq) }).portDone port seq
    match aget s.launches l with
    | none => s
    | some r =>
      let (mine, away) := r.away.partition fun (a : Nat × Nat × Nat) => a.1 == i
      match s.teams.find? fun t => t.2.launch == l && t.2.index == i && t.2.st == .sent with
      | some (t, _) =>
        (s.updTeam t fun m => { m with st := .suspended }).updLaunch l fun r' => { r'.waits (2, t) s.time.toNat with
          suspended := t :: r'.suspended, away }
      | none => s.updLaunch l fun r' => { r'.waits (1, i) s.time.toNat with
          todo := (mine.map fun (a : Nat × Nat × Nat) => (a.2.1, i)) ++ r.todo, away }
/-- NACK (R322, R333, R389). -/
def execNack (port seq cause offset : Nat) (s : State) : Out :=
  s.through port fun s => (match s.xfer port seq with
    | some (c, o, x) =>
      if x.got.isSome || x.err.isSome then s
      else s.setXfer c o.id fun x => { x with err := some (cause, offset, (x.rva + offset) % 2 ^ 64) }
    | none => s.takeBack port seq)

/-- A group read from its save area (R377). What an area does not hold is not known here: the position at which a thread at handler
level resumes is a free value (log 2), and a flag in the error state does not travel (log 74). -/
def Group.ofSave (b : List Byte) (free : Nat → W32) : Group :=
  let f (at_ n : Nat) : Nat := leNat ((b.drop at_).take n)
  let w1 := f 8 8
  let present (l : Nat) : Bool := (f 16 4).testBit l
  let code (r : Nat) : Nat := f (512 + r / 4) 1 / 4 ^ (r % 4) % 4
  let g4 (at_ : Nat) : W32 := BitVec.ofNat 32 (f at_ 4)
  let take (a : Nat × List (Nat × Shaped)) (r : Nat) : Nat × List (Nat × Shaped) :=
    match code r with
    | 0 => a
    | 1 => (a.1 + 4, a.2 ++ [(r, .u (g4 a.1))])
    | 2 => (a.1 + 8, a.2 ++ [(r, .a (g4 a.1) (g4 (a.1 + 4)))])
    | _ => (a.1 + 128, a.2 ++ [(r, gOf fun l => g4 (a.1 + 4 * l))])
  let (end_, regs) := (List.range 320).foldl take (592 + 8 * 384, [])
  let levels := allLanes.filter fun l => present l && (f (384 + 2 * l) 2).testBit 13
  let wait (l : Nat) : TWait :=
    let x := f (448 + l) 1
    if !present l then .empty else match x % 16 with | 2 => .jarr (x / 16) | 3 => .waitf 0 | 4 => .bar (x / 16) 0 | _ => .run
  let thread (l : Nat) : Thread :=
    let p := f (384 + 2 * l) 2
    let r := (free l).toNat
    let t : Thread := { pc := f (96 + 8 * l) 8, seta := p % 16, setb := p / 16 % 16, left := p / 256 % 32, wait := wait l }
    if levels.contains l then
      { t with level := true, resume := f (end_ + 8 * levels.idxOf l) 8, rseta := r % 16, rsetb := r / 16 % 16, rleft := r / 256 % 32 }
    else t
  { index := bits w1 39 32, role := bits w1 41 40, budget := bits w1 50 42, item := w1 % 2 ^ 32
    sregs := (List.range 384).map fun n => (n, BitVec.ofNat 64 (f (592 + 8 * n) 8)), regs
    preds := (List.range 7).map fun p => maskOf fun l => (f (352 + l) 1).testBit p
    joins := (List.range 16).map fun j => g4 (32 + 4 * j)
    threads := allLanes.map thread, born := g4 16, wdBar := f 480 4, wdRing := f 484 4, wdFe := f 488 4, saved := true }
/-- The waits that a save leaves to the words at which its threads stand, and to the team's barriers (R377). -/
def State.waitsAgain (s : State) (w : Who) (barriers : List Barrier) (g : Group) : Group :=
  let mask (pc : Nat) : Nat :=
    match (s.readVa w (sext57 pc).toNat 8).2 with
    | some bs => (match decode (BitVec.ofNat 64 (leNat bs)) with | .one (.waitf _ m) => m.toNat | _ => 0)
    | none => 0
  { g with threads := g.threads.map fun t => match t.wait with
      | .waitf _ => { t with wait := .waitf (mask t.pc) }
      | .bar n _ => { t with wait := .bar n ((barriers[n]?.map (·.gen)).getD 0) }
      | _ => t }
/-- The image of a template as a save area, and read back from one (R288, R377). -/
def Image.area (im : Image) : List Byte :=
  let th : Thread := { pc := im.pc, seta := im.seta, setb := im.setb, left := im.left, wait := .run }
  Group.saveBytes { regs := im.regs, sregs := im.sregs, preds := im.preds, joins := im.joins, threads := allLanes.map fun _ => th }
    1 0 (fun _ => true) (fun _ => true) false fun _ => false
def tmplImage (m : TmplMsg) : Image :=
  let g := Group.ofSave m.area fun _ => 0
  let t := g.thread 0
  { regs := g.regs, sregs := g.sregs, preds := g.preds, joins := g.joins, pc := t.pc, seta := t.seta, setb := t.setb, left := t.left
    ranges := m.ranges, bytes := m.bytes.foldl (fun l b => memSet l b.1 b.2) [], fe := m.fe }
/-- The lengths of a packed team's parts. -/
def teamLengths (m : TeamMsg) : List Nat :=
  [m.rings.length, m.barriers.length, m.bins.length, (m.groups.map (·.length)).foldl (· + ·) 0, m.scratch.length, m.blocks.length]
/-- Whether a packed team agrees with itself: its header's part lengths and template with its parts and with what is fetched for it. -/
def teamSound (m : TeamMsg) : Bool :=
  m.fetch.desc.length == 256 && (m.groups.isEmpty || m.lens == teamLengths m) && m.tmpl == m.fetch.tmpl.map (fun t => (t.id, t.die))
    && (m.tmpl.isSome || !(descFields m.fetch.desc).templated)
/-- The template of a packed team entered into the receiver's table, if it has room (R291, R298). -/
def State.fetched (s : State) (x l ctx : Nat) (m : TmplMsg) (audit : Bool) : Option (Nat × State) :=
  let im := tmplImage m
  (firstFree s.tmpls Config.templates).bind fun t =>
    if Config.backingPages < s.backing x + im.pageCount then none
    else
      let e : Tmpl := {
        dropped := m.dropped, ctx, launch := l, depth := m.depth, fdie := x, xreg := m.xreg, xbase := m.xbase, xstride := m.xstride
        xu := m.xu, lanes := m.lanes, image := im, ahold := audit, replicas := [x], pages := im.pageCount }
      some (t, { s with tmpls := aset s.tmpls t e })
/-- The record of a packed team that was suspended, suspended here (R323, R378). -/
def State.unpacked (s : State) (x l : Nat) (d : Desc) (tmpl : Option Nat) (m : TeamMsg) : Team :=
  let ctx := d.peerctx
  let ring (r : List Nat) : Ring :=
    let v (i : Nat) : Nat := r.getD i 0
    let b (i : Nat) : List Bool := (List.range (v 0)).map (v i).testBit
    { n := v 0, p := v 1, qr := v 2, q := v 3, c := v 4, d := v 5, filled := b 6, phase := b 7 }
  let barriers := m.barriers.map fun b =>
    ({ e := b.getD 0 0, a := b.getD 1 0, gen := b.getD 2 0, arrived := (b.drop 3).map fun i => (i, 0) } : Barrier)
  let group (p : List Byte × Nat) : Group :=
    let g := Group.ofSave p.1 fun i => s.freeW (32 * p.2 + i)
    { s.waitsAgain { die := x, ctx } barriers g with tmpl, tdepth := (m.fetch.tmpl.map (·.depth)).getD 0 }
  { launch := l, index := m.index, ctx, queue := m.queue, desc := d, die := x, st := .suspended
    rings := m.rings.map ring, barriers, saves := m.groups.zipIdx.map group, auditOk := false
    savedBins := m.bins.map fun b => { team := s.serial, entry := b.entry, tmpl := if b.tmpl then tmpl else none, n := b.n, threads := b.threads, due := 0
                                       full := decide (b.threads.length = 32) }
    scratch := m.scratch.foldl (fun c b => memSet c b.1 b.2) [], fe := m.fe
    blocks := (tmpl.map fun t => m.blocks.map fun b => (b.1, b.2, t)).getD [], received := tmpl.toList }
/-- TEAM (R322, R323, R389): a team from another package, admitted under R318 or refused, once its descriptor and its template have been
fetched. It runs in the context that its kernel names (R322). A refusal gives the cause 0 (DESIGN CHOICE, log 98). -/
def execTeam (port : Nat) (m : TeamMsg) (s : State) : Out :=
  s.through port fun s =>
  let d := descFields m.fetch.desc
  let ctx := d.peerctx
  let x := port / 4
  let take : Option State :=
    if !(s.ctx ctx).inUse || (s.ctx ctx).closing || s.mgmt.stopped || !teamSound m || !s.descOk ctx m.fetch.desc || d.det then none
    else
      let (l, s) := s.fresh
      let held : Option (Option Nat × State) := match m.fetch.tmpl with
        | some e => (s.fetched x l ctx e d.audit).map fun p => (some p.1, p.2) | none => some (none, s)
      held.bind fun p =>
        let s := p.2
        let packed := !m.groups.isEmpty
        let r : Launch := {
          queue := m.queue, ctx, desc := d, raw := m.fetch.desc, todo := if packed then [] else [(0, m.index)], total := 1
          prologue := match p.1 with | some t => if d.templated then .frozen t else .none | none => .none
          tmpls := p.1.toList, seed := s.time.setWidth 32, waiting := s.time.toNat, foreign := some (port, m.launch, m.index) }
        let s : State := { s with launches := aset s.launches l r }
        if packed then
          let t := s.serial
          let s : State := { s.drew with serial := t + 1, teams := aset s.teams t (s.unpacked x l d p.1 m) }
          let s := s.updLaunch l fun r => { r with suspended := [t] }
          (s.coresForNext l (.restore t)).map fun cs => (s.restoreTeam t cs).sweep
        else (s.coresForNext l (.team 0 m.index)).map (s.newTeam l (.team 0 m.index))
  (match take with
    | some t => t.say port (.ack m.seq)
    | none => s.say port (.nack m.seq 0 0))
/-- TEAMEND (R322, R389): a team sent away has ended; the message is acknowledged. -/
def execTeamend (port seq launch team : Nat) (s : State) : Out :=
  s.through port fun s => ((match aget s.launches launch with
    | some r =>
      if r.away.any fun a => a.1 == team && a.2.2 == port then
        s.updLaunch launch fun r => { r with away := r.away.filter (·.1 != team), ended := r.ended + 1 }
      else s
    | none => s).say port (.ack seq))
/-- BEACON (R322): from the package linked to a port, kept by the port's die. -/
def execBeacon (src : Nat) (b : BeaconMsg) (s : State) : Out :=
  s.through src fun s => (s.updDie (src / 4) fun d => { d with beacons := aset d.beacons (4 + src) b })
/-- UNKNOWN_MESSAGE (R389): dropped and counted. -/
def execUnknownMessage (port code : Nat) (s : State) : Out :=
  s.through port fun s => (if 1 ≤ code && code ≤ 8 then s else s.updPort port fun p => { p with unknown := p.unknown + 1 })
/-- SEND_ACK_TIMEOUT (R333). -/
def execSendAckTimeout (port seq : Nat) (s : State) : Out :=
  .next (match s.xfer port seq with
    | some (c, o, x) =>
      if x.got.isNone && x.err.isNone && !x.posted && decide (x.start + 100000000 ≤ s.time.toNat) then
        s.setXfer c o.id fun x => { x with err := some (0x0E, 0, 0) }
      else s
    | none => s)
/-- A port goes down (R333, R388): its transfers fault; teams not yet acknowledged come back. -/
def State.portDown (s : State) (port : Nat) : State :=
  let s := s.updPort port fun p => { p with up := false, retries := 0 }
  let s := (s.port port).outstanding.foldl (fun s e => match s.xfer port e.1 with
    | some (c, o, x) => if x.got.isNone && x.err.isNone then s.setXfer c o.id fun x => { x with err := some (0x0E, 0, 0) } else s
    | none => s) s
  (s.port port).sentTeams.foldl (fun s e => s.takeBack port e.1) s
/-- PORT_DOWN (R388): its link has failed a training. -/
def execPortDown (port : Nat) (s : State) : Out := .next (s.portDown port)
/-- PORT_RETRAIN (R388): a port that is down comes up again, of itself, at a time the spec does not give. -/
def execPortRetrain (port : Nat) (s : State) : Out := .next (s.updPort port fun p => { p with up := true })
/-- FLIT_RESEND (R388): a flit with a bad CRC, and those after it, sent again in order; with more than 16 retries in one flit the port
goes down. Retries belong to one flit until something comes through the port (DESIGN CHOICE, log 99). -/
def execFlitResend (port flits : Nat) (s : State) : Out :=
  .next (if !(s.port port).up then s
    else
      let s := s.updPort port fun p => { p with resent := p.resent + flits, retries := p.retries + 1 }
      if 16 < (s.port port).retries then s.portDown port else s)

/-- A die's beacon (R322): free team records, free group slots, free scratchpad bytes. -/
def State.beaconOf (s : State) (x : Nat) : BeaconMsg :=
  let recs := (s.teams.filter fun t => t.2.st == .resident && t.2.die == x).length
  let mine := s.cores.filter fun c => dieOf c.1 == x
  { teams := 16 * Config.teamsPerCluster - recs
    slots := 64 * Config.slotsPerCore - (mine.map fun c => c.2.slots.length).foldl (· + ·) 0
    scratch := 16384 * (64 * 32 - (mine.flatMap fun c => c.2.runs.map fun r => r.2.2).foldl (· + ·) 0) }
/-- Whether a suspended team may go to another package (R322): it holds no class-B twin; and nothing for which a packed team has no
part (R323, log 74): reservations, engine commands, items owed, a halt, a flag in the error state, more than one template. -/
def State.movable (s : State) (t : Nat) : Bool :=
  let m := s.team t
  let ts := (m.saves.map (·.tmpl) ++ m.savedBins.map (·.tmpl) ++ m.blocks.map fun b => some b.2.2).eraseDups
  m.st == .suspended && m.savedResv.isEmpty && m.savedOps.isEmpty && m.owed.isEmpty && !m.halted && m.rerun.isNone
    && m.saves.all (fun g => g.flags.all (·.errs.isEmpty)) && decide (ts.length ≤ 1)
    && s.dies.all fun d => d.2.twins.all fun w => w.2.team != t || w.2.cls != .b
/-- What this package gives a receiver that fetches for one of its launches (R298, R323): the descriptor, and a template as its master
die has it. -/
def State.fetchOf (s : State) (l : Nat) (t : Option Nat) : Fetched :=
  { desc := (s.launchRec l).raw
    tmpl := t.bind fun t => (aget s.tmpls t).map fun e => {
      id := t, die := e.fdie, area := e.image.area, ranges := e.image.ranges, bytes := e.image.bytes, fe := e.image.fe, xreg := e.xreg
      xbase := e.xbase, xstride := e.xstride, xu := e.xu, lanes := e.lanes, depth := e.depth, dropped := e.dropped } }
/-- A suspended team packed behind its header (R323, R377, R378). -/
def State.packed (s : State) (m : Team) (h : TeamMsg) : TeamMsg :=
  let ts := m.saves.filterMap (·.tmpl) ++ m.savedBins.filterMap (·.tmpl) ++ m.blocks.map (·.2.2)
  let flags (l : List Bool) : Nat := bitsOf l.length fun i => l.getD i false
  let h : TeamMsg := { h with
    tmpl := ts.head?.bind fun t => (aget s.tmpls t).map fun e => (t, e.fdie)
    rings := m.rings.map fun r => [r.n, r.p, r.qr, r.q, r.c, r.d, flags r.filled, flags r.phase]
    barriers := m.barriers.map fun b => [b.e, b.a, b.gen] ++ b.arrived.map (·.1)
    bins := m.savedBins.map fun b => { entry := b.entry, tmpl := b.tmpl.isSome, n := b.n, threads := b.threads }
    groups := m.saves.map fun g => g.saveBytes 1 0 (fun _ => true) (fun _ => true) false fun _ => false
    scratch := m.scratch, fe := m.fe, blocks := m.blocks.map fun b => (b.1, b.2.1) }
  { h with lens := teamLengths h }
/-- The entry of a beacon table with the most free team records, the first of equals (R322). -/
def bestBeacon (bs : List (Nat × BeaconMsg)) : Option (Nat × BeaconMsg) :=
  bs.foldl (fun m b => match m with | none => some b | some a => if a.2.teams < b.2.teams then some b else some a) none
/-- The team of a launch that may be sent: the next that is not admitted, or a suspended one (R322). -/
def State.mayGo (s : State) (r : Launch) : Option NextTeam :=
  let fresh : Option NextTeam := match r.prologue with | .running => none | .failed => none | _ => r.todo.head?.map fun p => .team p.1 p.2
  fresh.orElse fun _ => (r.suspended.find? s.movable).map .restore
/-- A team sent to another die of its package, which admits it at once or refuses it (R318, R322): refused, it stands at the front of its
launch record. Its message over the die link is delivered in the same act (DESIGN CHOICE, log 100). -/
def State.sendNear (s : State) (l : Nat) (n : NextTeam) (y : Nat) : State :=
  match s.coresOn l n [y], n with
  | some cs, .restore t => ((s.restoreTeam t cs).updTeam t fun m => { m with auditOk := false }).sweep
  | some cs, n => (s.newTeam l n cs).updTeam s.serial fun m => { m with auditOk := false }
  | none, .restore t => s.updLaunch l fun r => { r with suspended := t :: r.suspended.filter (· != t) }
  | none, _ => s
/-- A team sent through a port to another package (R322, R323). -/
def State.sendFar (s : State) (x l : Nat) (n : NextTeam) (port : Nat) : State :=
  let r := s.launchRec l
  let (seq, s) := s.fresh
  let h : TeamMsg := { seq, pkg := Config.package, die := x, queue := r.queue, launch := l, index := 0
                       tmpl := match r.prologue with | .frozen t => (aget s.tmpls t).map fun e => (t, e.fdie) | _ => none }
  let gone (i rank : Nat) (m : TeamMsg) (s : State) : State :=
    (s.updLaunch l fun r => { r with away := r.away ++ [(i, rank, port)] }).updPort port fun p => { p with
      outstanding := p.outstanding ++ [(seq, 0, 0)], sentTeams := p.sentTeams ++ [(seq, l, i)], out := p.out ++ [.team m] }
  match n with
  | .team rank i => gone i rank { h with index := i } (s.updLaunch l fun r => { r.came (1, i) with todo := r.todo.drop 1 })
  | .restore t =>
    let m := s.team t
    gone m.index m.rank (s.packed m { h with index := m.index })
      ((s.updTeam t fun m => { m with st := .sent }).updLaunch l fun r => { r.came (2, t) with suspended := r.suspended.filter (· != t) })
  | _ => s
/-- A team of die x sent to the die with the most free team records in the latest beacon table, when the die's backlog asks for it: a die
of its own package, if one of them has any, else another package, where MIGR permits it (R322). -/
def State.sendAway (s : State) (x : Nat) : State :=
  let mine := s.launches.filter fun l => l.2.queue / 256 == x && l.2.foreign.isNone
  let backlog := (mine.map fun l => l.2.todo.length + l.2.suspended.length).foldl (· + ·) 0
  let bs := (s.die x).beacons.filter fun b => b.2.teams != 0
  let near := bestBeacon (bs.filter fun b => decide (b.1 < 4))
  let far := bestBeacon (bs.filter fun b => 4 ≤ b.1 && (s.port (b.1 - 4)).up
    && decide ((s.port (b.1 - 4)).outstanding.length < Config.portEntries))
  let pick (k : Nat) : Option (Nat × NextTeam) :=
    (mine.filter fun l => !l.2.desc.det && k ≤ l.2.desc.migr).findSome? fun l => (s.mayGo l.2).map fun n => (l.1, n)
  if backlog ≤ (s.beaconOf x).teams then s
  else match near, far with
    | some y, _ => (match pick 1 with | some (l, n) => s.sendNear l n y.1 | none => s)
    | none, some b => (match pick 2 with | some (l, n) => s.sendFar x l n (b.1 - 4) | none => s)
    | none, none => s
/-- BEACON_TIMER (R322): every 100 ticks. -/
def execBeaconTimer (s : State) : Out :=
  .next (if s.time.toNat % 100 != 0 then s
    else
      let xs := [0, 1, 2, 3]
      let infos := xs.map fun x => (x, s.beaconOf x)
      let s := xs.foldl (fun s x => s.updDie x fun d => { d with
        beacons := (infos.filter (·.1 != x)).foldl (fun l b => aset l b.1 b.2) d.beacons }) s
      let s := (List.range 16).foldl (fun s p => if (s.port p).up then s.say p (.beacon (s.beaconOf (p / 4))) else s) s
      xs.foldl State.sendAway s)

end Sys2Proof.Machine
end

