-- ==== Sys2Proof/Machine/Float.lean ====
section
/-! DEFINITION. The floating-point, special-function, packed, conversion and dot-product instructions (R153 to R168). -/
namespace Sys2Proof.Machine

/-- The FP format of an FP32 instruction (R155). -/
def fmtF (f19 : Bool) : Fmt := if f19 then .f19 else .f32
/-- An immediate: imm17 × 2^15 (R154). -/
def immF (i : BitVec 17) : W32 := i ++ 0#15
/-- A floating result per lane from one, two or three sources (R153). -/
def State.fl1 (s : State) (c : Ctl) (d a : Opnd) (lat : Lat) (f : W32 → W32) : State := s.vec c d [a] lat fun l => f (s.rd a l)
def State.fl2 (s : State) (c : Ctl) (d a b : Opnd) (f : W32 → W32 → W32) : State :=
  s.vec c d [a, b] .f fun l => f (s.rd a l) (s.rd b l)
def State.fl3 (s : State) (c : Ctl) (d a b e : Opnd) (f : W32 → W32 → W32 → W32) : State :=
  s.vec c d [a, b, e] .f fun l => f (s.rd a l) (s.rd b l) (s.rd e l)
/-- A comparison of two patterns (R158). -/
def cmpCode (f : Fmt) (k : FCmp) (x y : Nat) : Bool := cmpVal k (val x f) (val y f)
/-- Packed minimum, maximum and comparison (R162). -/
def hmin2 (f : Fmt) : W32 → W32 → W32 := packed2 fun x y => BitVec.ofNat 32 (fminCode f x.toNat y.toNat)
def hmax2 (f : Fmt) : W32 → W32 → W32 := packed2 fun x y => BitVec.ofNat 32 (fmaxCode f x.toNat y.toNat)
def hset2 (f : Fmt) (k : FCmp) : W32 → W32 → W32 := packed2 fun x y => if cmpCode f k x.toNat y.toNat then 0xFFFF else 0
/-- The predicate of FSET in the active lanes (R158). -/
def State.fset (s : State) (c : Ctl) (p : BitVec 3) (cmp : FCmp) (comb : Comb) (x y : Nat → W32) : State :=
  s.wp p (s.active c) (fun l => combine comb (s.g.pred p l) (cmpCode .f32 cmp (x l).toNat (y l).toNat)) .f
/-- The word traps CVTOVF when some active lane overflows under .trap, and writes no lane (R100); else it goes on. -/
def State.orOverflow (s : State) (i : Instr) (act : W32) (ovf : Nat → Bool) (k : State) : Out :=
  let bad := maskOf fun l => act.getLsbD l && ovf l
  if bad == 0 then k.done i else .next (s.trapW 0x0B bad 0 s.cur.word.toNat 0)

/-- FADD of registers (R156). -/
def execFaddRegisters (c : Ctl) (d a b : Opnd) (rm : Rm) (f19 : Bool) (s : State) : Out :=
  (s.fl2 c d a b (faddCode (fmtF f19) rm)).done (.faddRegisters c d a b rm f19)
/-- FADD of an immediate (R154). -/
def execFaddImmediate (c : Ctl) (d a : Opnd) (imm : BitVec 17) (rm : Rm) (f19 : Bool) (s : State) : Out :=
  (s.fl1 c d a .f fun x => faddCode (fmtF f19) rm x (immF imm)).done (.faddImmediate c d a imm rm f19)
/-- FSUB. -/
def execFsub (c : Ctl) (d a b : Opnd) (rm : Rm) (f19 : Bool) (s : State) : Out :=
  (s.fl2 c d a b (fsubCode (fmtF f19) rm)).done (.fsub c d a b rm f19)
/-- FMUL of registers. -/
def execFmulRegisters (c : Ctl) (d a b : Opnd) (rm : Rm) (f19 : Bool) (s : State) : Out :=
  (s.fl2 c d a b (fmulCode (fmtF f19) rm)).done (.fmulRegisters c d a b rm f19)
/-- FMUL of an immediate. -/
def execFmulImmediate (c : Ctl) (d a : Opnd) (imm : BitVec 17) (rm : Rm) (f19 : Bool) (s : State) : Out :=
  (s.fl1 c d a .f fun x => fmulCode (fmtF f19) rm x (immF imm)).done (.fmulImmediate c d a imm rm f19)
/-- FFMA, rounded once. -/
def execFfma (c : Ctl) (d a b e : Opnd) (rm : Rm) (f19 np nc : Bool) (s : State) : Out :=
  (s.fl3 c d a b e (ffmaCode (fmtF f19) rm np nc)).done (.ffma c d a b e rm f19 np nc)
/-- FMIN (R157). -/
def execFmin (c : Ctl) (d a b : Opnd) (s : State) : Out := (s.fl2 c d a b fmin32).done (.fmin c d a b)
/-- FMAX (R157). -/
def execFmax (c : Ctl) (d a b : Opnd) (s : State) : Out := (s.fl2 c d a b fmax32).done (.fmax c d a b)
/-- FSET of registers (R158). -/
def execFsetRegisters (c : Ctl) (p : BitVec 3) (a b : Opnd) (cmp : FCmp) (comb : Comb) (s : State) : Out :=
  (s.fset c p cmp comb (s.rd a) (s.rd b)).done (.fsetRegisters c p a b cmp comb)
/-- FSET of an immediate (R154). -/
def execFsetImmediate (c : Ctl) (p : BitVec 3) (a : Opnd) (imm : BitVec 17) (cmp : FCmp) (comb : Comb) (s : State) : Out :=
  (s.fset c p cmp comb (s.rd a) fun _ => immF imm).done (.fsetImmediate c p a imm cmp comb)
/-- FCLASS (R159). -/
def execFclass (c : Ctl) (d a : Opnd) (fmt : ClassFmt) (s : State) : Out :=
  let f : Fmt := match fmt with | .f32 => .f32 | .f16 => .f16 | .b16 => .b16
  (s.fl1 c d a .f fun x => classMask f (x.toNat % 2 ^ f.width)).done (.fclass c d a fmt)
/-- FRND (R160). -/
def execFrnd (c : Ctl) (d a : Opnd) (rm : Rm) (s : State) : Out := (s.fl1 c d a .f (frnd32 rm)).done (.frnd c d a rm)
/-- FSCALE (R160). -/
def execFscale (c : Ctl) (d a b : Opnd) (rm : Rm) (s : State) : Out :=
  (s.fl2 c d a b (fscale32 rm)).done (.fscale c d a b rm)
/-- FRCP (R161). -/
def execFrcp (c : Ctl) (d a : Opnd) (rm : Rm) (s : State) : Out := (s.fl1 c d a .sf (sf32 recipVal rm)).done (.frcp c d a rm)
/-- FRSQ. -/
def execFrsq (c : Ctl) (d a : Opnd) (s : State) : Out := (s.fl1 c d a .sf (sf32 rsqrtVal .rn)).done (.frsq c d a)
/-- FSQRT. -/
def execFsqrt (c : Ctl) (d a : Opnd) (rm : Rm) (s : State) : Out := (s.fl1 c d a .sf (sf32 sqrtVal rm)).done (.fsqrt c d a rm)
/-- FEXP2. -/
def execFexp2 (c : Ctl) (d a : Opnd) (s : State) : Out := (s.fl1 c d a .sf (sf32 fexp2Val .rn)).done (.fexp2 c d a)
/-- FLOG2. -/
def execFlog2 (c : Ctl) (d a : Opnd) (s : State) : Out := (s.fl1 c d a .sf (sf32 flog2Val .rn)).done (.flog2 c d a)
/-- FSIN. -/
def execFsin (c : Ctl) (d a : Opnd) (s : State) : Out := (s.fl1 c d a .sf (sf32 fsinVal .rn)).done (.fsin c d a)
/-- FCOS. -/
def execFcos (c : Ctl) (d a : Opnd) (s : State) : Out := (s.fl1 c d a .sf (sf32 fcosVal .rn)).done (.fcos c d a)
/-- FTANH. -/
def execFtanh (c : Ctl) (d a : Opnd) (s : State) : Out := (s.fl1 c d a .sf (sf32 ftanhVal .rn)).done (.ftanh c d a)
/-- HADD2 (R162). -/
def execHadd2 (c : Ctl) (d a b : Opnd) (rm : Rm) (b16 : Bool) (s : State) : Out :=
  (s.fl2 c d a b (packed2 (faddCode (fmt16 b16) rm))).done (.hadd2 c d a b rm b16)
/-- HSUB2. -/
def execHsub2 (c : Ctl) (d a b : Opnd) (rm : Rm) (b16 : Bool) (s : State) : Out :=
  (s.fl2 c d a b (packed2 (fsubCode (fmt16 b16) rm))).done (.hsub2 c d a b rm b16)
/-- HMUL2. -/
def execHmul2 (c : Ctl) (d a b : Opnd) (rm : Rm) (b16 : Bool) (s : State) : Out :=
  (s.fl2 c d a b (packed2 (fmulCode (fmt16 b16) rm))).done (.hmul2 c d a b rm b16)
/-- HFMA2. -/
def execHfma2 (c : Ctl) (d a b e : Opnd) (rm : Rm) (b16 : Bool) (s : State) : Out :=
  (s.fl3 c d a b e (packed3 (ffmaCode (fmt16 b16) rm false false))).done (.hfma2 c d a b e rm b16)
/-- HMIN2. -/
def execHmin2 (c : Ctl) (d a b : Opnd) (b16 : Bool) (s : State) : Out :=
  (s.fl2 c d a b (hmin2 (fmt16 b16))).done (.hmin2 c d a b b16)
/-- HMAX2. -/
def execHmax2 (c : Ctl) (d a b : Opnd) (b16 : Bool) (s : State) : Out :=
  (s.fl2 c d a b (hmax2 (fmt16 b16))).done (.hmax2 c d a b b16)
/-- HSET2. -/
def execHset2 (c : Ctl) (d a b : Opnd) (cmp : FCmp) (b16 : Bool) (s : State) : Out :=
  (s.fl2 c d a b (hset2 (fmt16 b16) cmp)).done (.hset2 c d a b cmp b16)

/-- The code CVT writes, if it does not trap (R164). -/
def cvtCode (dt sty : CvtTy) (rm : Rm) (pol : Pol) (x : W64) : Option Nat := convert (cvtSrc sty x) dt rm pol
/-- CVT (R164). -/
def execCvt (c : Ctl) (d a : Opnd) (dt sty : CvtTy) (rm : Rm) (pol : Pol) (s : State) : Out :=
  let src (l : Nat) : W64 := if sty.wide then s.rd64 a l else (s.rd a l).setWidth 64
  let y (l : Nat) : Option Nat := cvtCode dt sty rm pol (src l)
  let u := if sty.wide then s.isUw a else s.isU a
  s.orOverflow (.cvt c d a dt sty rm pol) (s.active c) (fun l => (y l).isNone)
    (if dt.wide then s.vec64 c d u .f fun l => BitVec.ofNat 64 ((y l).getD 0)
      else s.wv d (s.active c) (fun l => BitVec.ofNat 32 ((y l).getD 0))
        (if u then some (.u (BitVec.ofNat 32 ((y 0).getD 0))) else none) .f)
/-- PACK (R165). With a 16-bit format, c is not read. -/
def execPack (c : Ctl) (d a b e : Opnd) (fmt : Fmt) (rm : Rm) (pol : Pol) (s : State) : Out :=
  let y (l : Nat) : Option W32 := pack32 fmt rm pol (s.rd a l) (s.rd b l) (if fmt.width == 16 then 0 else s.rd e l)
  s.orOverflow (.pack c d a b e fmt rm pol) (s.active c) (fun l => (y l).isNone)
    (s.vec c d (if fmt.width == 16 then [a, b] else [a, b, e]) .f fun l => (y l).getD 0)
/-- UNPACK (R166). -/
def execUnpack (c : Ctl) (d a b : Opnd) (fmt : Fmt) (int : Bool) (s : State) : Out :=
  (s.fl2 c d a b (unpack32 fmt int)).done (.unpack c d a b fmt int)
/-- DP2H (R168). -/
def execDp2h (c : Ctl) (d a b e : Opnd) (fa fb : Fmt) (rm : Rm) (s : State) : Out :=
  (s.fl3 c d a b e (dotProduct 2 fa fb rm)).done (.dp2h c d a b e fa fb rm)
/-- DP4. -/
def execDp4 (c : Ctl) (d a b e : Opnd) (fa fb : Fmt) (rm : Rm) (s : State) : Out :=
  (s.fl3 c d a b e (dotProduct 4 fa fb rm)).done (.dp4 c d a b e fa fb rm)
/-- DP8. -/
def execDp8 (c : Ctl) (d a b e : Opnd) (fa fb : Fmt) (rm : Rm) (s : State) : Out :=
  (s.fl3 c d a b e (dotProduct 8 fa fb rm)).done (.dp8 c d a b e fa fb rm)
/-- DP16. -/
def execDp16 (c : Ctl) (d a b e : Opnd) (fa fb : Fmt) (rm : Rm) (s : State) : Out :=
  (s.fl3 c d a b e (dotProduct 16 fa fb rm)).done (.dp16 c d a b e fa fb rm)

end Sys2Proof.Machine
end

