-- ==== Sys2Proof/Machine/Halves.lean ====
section
/-! DEFINITION. The pair halves (R62 to R66). A half sets its result on its way; the step that issues the pair ends lives
and moves the threads on, once for both halves. -/
namespace Sys2Proof.Machine

/-- The lanes in which a half's guard holds (R65). -/
def State.hactive (s : State) (h : Half) : W32 :=
  maskOf fun l => s.cur.mask.getLsbD l && (s.g.pred h.pg l != h.pn)
/-- A half's result: DA := f(DA, SB) in its own lanes (R65), with the A result R75 gives, if any. -/
def State.half2 (s : State) (h : Half) (lat : Lat) (f : W32 → W32 → W32) (aff : Option Shaped := none) : State :=
  s.wv h.da (s.hactive h) (fun l => f (s.rd h.da l) (s.rd h.sb l))
    (if s.isU h.da && s.isU h.sb then some (.u (f (s.rd h.da 0) (s.rd h.sb 0))) else aff) lat

/-- No operation (R64, R66). -/
def execHalfNopLow (_h : Half) (s : State) : Out := .next s
/-- DA := DA + SB (R66). -/
def execHalfIadd (h : Half) (s : State) : Out := .next (s.half2 h .i (fun x y => x + y) (affAdd false (s.shape h.da) (s.shape h.sb)))
/-- DA := DA − SB (R66). -/
def execHalfIsub (h : Half) (s : State) : Out := .next (s.half2 h .i (fun x y => x - y) (affAdd true (s.shape h.da) (s.shape h.sb)))
/-- The low half of the product (R66). -/
def execHalfImul (h : Half) (s : State) : Out := .next (s.half2 h .i (fun x y => x * y) (affMul (s.shape h.da) (s.shape h.sb)))
/-- Signed minimum (R66). -/
def execHalfIminI32 (h : Half) (s : State) : Out := .next (s.half2 h .i (fun x y => minT .i x y))
/-- Signed maximum (R66). -/
def execHalfImaxI32 (h : Half) (s : State) : Out := .next (s.half2 h .i (fun x y => maxT .i x y))
/-- Natural minimum (R66). -/
def execHalfIminN32 (h : Half) (s : State) : Out := .next (s.half2 h .i (fun x y => minT .n x y))
/-- Natural maximum (R66). -/
def execHalfImaxN32 (h : Half) (s : State) : Out := .next (s.half2 h .i (fun x y => maxT .n x y))
/-- Left shift (R66). -/
def execHalfShl (h : Half) (s : State) : Out := .next (s.half2 h .i (fun x y => shl32 x (cnt5 y)) (affShl (s.shape h.da) (s.shape h.sb)))
/-- Logical right shift (R66). -/
def execHalfShr (h : Half) (s : State) : Out := .next (s.half2 h .i (fun x y => shr32 x (cnt5 y)))
/-- Arithmetic right shift (R66). -/
def execHalfSra (h : Half) (s : State) : Out := .next (s.half2 h .i (fun x y => sra32 x (cnt5 y)))
/-- AND (R66). -/
def execHalfAnd (h : Half) (s : State) : Out := .next (s.half2 h .i (fun x y => x &&& y))
/-- OR (R66). -/
def execHalfOr (h : Half) (s : State) : Out := .next (s.half2 h .i (fun x y => x ||| y))
/-- XOR (R66). -/
def execHalfXor (h : Half) (s : State) : Out := .next (s.half2 h .i (fun x y => x ^^^ y))
/-- DA := SB (R66). -/
def execHalfMov (h : Half) (s : State) : Out :=
  .next (s.wv h.da (s.hactive h) (s.rd h.sb) (if s.isU h.sb then some (.u (s.rd h.sb 0)) else affSame (s.shape h.sb)) .i)
/-- No operation (R64, R66). -/
def execHalfNopHigh (_h : Half) (s : State) : Out := .next s
/-- FP32 sum (R66). -/
def execHalfFadd (h : Half) (s : State) : Out := .next (s.half2 h .f (fun x y => faddCode .f32 .rn x y))
/-- FP32 difference (R66). -/
def execHalfFsub (h : Half) (s : State) : Out := .next (s.half2 h .f (fun x y => fsubCode .f32 .rn x y))
/-- FP32 product (R66). -/
def execHalfFmul (h : Half) (s : State) : Out := .next (s.half2 h .f (fun x y => fmulCode .f32 .rn x y))
/-- minimumNumber (R66). -/
def execHalfFmin (h : Half) (s : State) : Out := .next (s.half2 h .f (fun x y => fmin32 x y))
/-- maximumNumber (R66). -/
def execHalfFmax (h : Half) (s : State) : Out := .next (s.half2 h .f (fun x y => fmax32 x y))
/-- HADD2.f16 (R66). -/
def execHalfHadd2F16 (h : Half) (s : State) : Out := .next (s.half2 h .f (fun x y => packed2 (faddCode .f16 .rn) x y))
/-- HSUB2.f16 (R66). -/
def execHalfHsub2F16 (h : Half) (s : State) : Out := .next (s.half2 h .f (fun x y => packed2 (fsubCode .f16 .rn) x y))
/-- HMUL2.f16 (R66). -/
def execHalfHmul2F16 (h : Half) (s : State) : Out := .next (s.half2 h .f (fun x y => packed2 (fmulCode .f16 .rn) x y))
/-- HMIN2.f16 (R66). -/
def execHalfHmin2F16 (h : Half) (s : State) : Out := .next (s.half2 h .f (fun x y => hmin2 .f16 x y))
/-- HMAX2.f16 (R66). -/
def execHalfHmax2F16 (h : Half) (s : State) : Out := .next (s.half2 h .f (fun x y => hmax2 .f16 x y))
/-- HADD2.b16 (R66). -/
def execHalfHadd2B16 (h : Half) (s : State) : Out := .next (s.half2 h .f (fun x y => packed2 (faddCode .b16 .rn) x y))
/-- HSUB2.b16 (R66). -/
def execHalfHsub2B16 (h : Half) (s : State) : Out := .next (s.half2 h .f (fun x y => packed2 (fsubCode .b16 .rn) x y))
/-- HMUL2.b16 (R66). -/
def execHalfHmul2B16 (h : Half) (s : State) : Out := .next (s.half2 h .f (fun x y => packed2 (fmulCode .b16 .rn) x y))
/-- HMIN2.b16 (R66). -/
def execHalfHmin2B16 (h : Half) (s : State) : Out := .next (s.half2 h .f (fun x y => hmin2 .b16 x y))
/-- HMAX2.b16 (R66). -/
def execHalfHmax2B16 (h : Half) (s : State) : Out := .next (s.half2 h .f (fun x y => hmax2 .b16 x y))

end Sys2Proof.Machine
end

