-- ==== Sys2Proof/Machine/Lanes.lean ====
section
/-! DEFINITION. The cross-lane instructions (R126 to R131). A value taken from another lane is taken whatever that lane's
thread does; a census, reduction or match is over the active lanes alone. -/
namespace Sys2Proof.Machine

/-- The lane SHFL reads for lane l, in segments of w lanes (R127). -/
def shflLane (mode : ShflMode) (w l n : Nat) : Nat :=
  let base := l - l % w
  match mode with
  | .idx => base + n % w
  | .up => if l - base < n then l else l - n
  | .down => if base + w ≤ l + n then l else l + n
  | .xor => l ^^^ (n % w)
/-- Lanes of a segment (R109). -/
def segLanes : ShflSeg → Nat | .seg32 => 32 | .seg16 => 16 | .seg8 => 8 | .seg4 => 4 | .seg2 => 2
/-- The tree of GRED: pairs of neighbours, five times (R129). -/
def treeStep (f : W32 → W32 → W32) : List W32 → List W32
  | x :: y :: r => f x y :: treeStep f r
  | l => l
def treeReduce (f : W32 → W32 → W32) (l : List W32) : W32 :=
  (treeStep f (treeStep f (treeStep f (treeStep f (treeStep f l))))).headD 0
/-- The identity of a reduction (R129). -/
def gredUnit (op : GredOp) (ty : GredTy) : W32 :=
  match op, ty with
  | .add, .f32 => 0x80000000 | .min, .f32 => 0x7FC00000 | .max, .f32 => 0x7FC00000
  | .add, _ => 0 | .min, .i32 => 0x7FFFFFFF | .max, .i32 => 0x80000000 | .min, .n32 => 0xFFFFFFFF | .max, .n32 => 0
  | .and, _ => 0xFFFFFFFF | .or, _ => 0 | .xor, _ => 0
/-- The operation of a reduction (R129). -/
def gredOp (op : GredOp) (ty : GredTy) : W32 → W32 → W32 :=
  match op, ty with
  | .add, .f32 => faddCode .f32 .rn | .min, .f32 => fmin32 | .max, .f32 => fmax32
  | .add, _ => (· + ·) | .min, .i32 => minT .i | .max, .i32 => maxT .i | .min, .n32 => minT .n | .max, .n32 => maxT .n
  | .and, _ => (· &&& ·) | .or, _ => (· ||| ·) | .xor, _ => (· ^^^ ·)

/-- SHFL: always G (R127). -/
def execShfl (c : Ctl) (d a b : Opnd) (mode : ShflMode) (seg : ShflSeg) (s : State) : Out :=
  (s.wv d (s.active c) (fun l => s.rd a (shflLane mode (segLanes seg) l (s.rd b l).toNat)) none .i).done
    (.shfl c d a b mode seg)
/-- CENSUS (R128). -/
def execCensus (c : Ctl) (d : PDst) (mode : CensusMode) (q : BitVec 3) (neg : Bool) (s : State) : Out :=
  let act := s.active c
  let yes := maskOf fun l => act.getLsbD l && (s.g.pred q l != neg)
  let any := yes != 0
  let all := yes == act
  (match d with
    | .pred p => s.wp p act (fun _ => match mode with | .any => any | .all => all | _ => all || !any) .i
    | .reg o => s.wvs o act (if mode == CensusMode.mask then yes else BitVec.ofNat 32 (laneCount yes)) .i).done
    (.census c d mode q neg)
/-- GRED (R129): inactive lanes contribute the identity. -/
def execGred (c : Ctl) (d a : Opnd) (op : GredOp) (ty : GredTy) (s : State) : Out :=
  let act := s.active c
  let r := treeReduce (gredOp op ty) (allLanes.map fun l => if act.getLsbD l then s.rd a l else gredUnit op ty)
  (s.wvs d act r .sf).done (.gred c d a op ty)
/-- MATCH (R130). -/
def execMatchLanes (c : Ctl) (d : PDst) (a : Opnd) (w : Bool) (s : State) : Out :=
  let act := s.active c
  let v (l : Nat) : W64 := if w then s.rd64 a l else (s.rd a l).setWidth 64
  (match d with
    | .pred p => s.wp p act (fun _ => (lanesOf act).all fun l => v l == v (firstLane act)) .sf
    | .reg o => s.wv o act (fun l => maskOf fun k => act.getLsbD k && v k == v l) none .sf).done (.matchLanes c d a w)
/-- VBCAST writes all 32 lanes, and the result is U (R131). -/
def execVbcast (c : Ctl) (d a b : Opnd) (s : State) : Out :=
  let act := s.active c
  let v := s.rd a (cnt5 (s.rd b (firstLane act)))
  (if act == 0 then s else s.wv d allOnes32 (fun _ => v) (some (.u v)) .i).done (.vbcast c d a b)
/-- VLANE writes one lane, active or not (R131). -/
def execVlane (c : Ctl) (d a b : Opnd) (s : State) : Out :=
  let act := s.active c
  let f := firstLane act
  let k := cnt5 (s.rd b f)
  (if act == 0 then s else s.wv d (maskOf (· == k)) (fun _ => s.rd a f) none .i).done (.vlane c d a b)

end Sys2Proof.Machine
end

