-- ==== Sys2Proof/Machine/Manage.lean ====
section
/-! DEFINITION. Audits and suspicion (R350 to R352), cluster substitution (R286), memory errors and bank repair (R188, R287,
R380), fatal errors (R381), power, bring-up and resets (R391 to R393), and the management subsystem's services (R394 to R397).
Codes the spec does not give (sources and codes of the event log, causes of a fatal stop, SPDM codes) are the model's (log 11). -/
namespace Sys2Proof.Machine

/-- A record of the event log, a ring of 65,536 (R394). -/
def State.logEvent (s : State) (source code : Nat) (detail : List Nat) : State :=
  let l := s.mgmt.log ++ [{ time := s.time, source, code, detail }]
  { s with mgmt := { s.mgmt with log := l.drop (l.length - 65536) } }
/-- A physical core's score raised (R351), logged when it passes 1,024; quarantine at 2,048. -/
def State.suspect (s : State) (p n cause : Nat) : State :=
  let old := (s.pcore p).suspicion
  let new := min 65535 (old + n)
  let q := (s.pcore p).quarantined
  let s := s.updPcore p fun c => { c with suspicion := new, quarantined := q || decide (2048 ≤ new) }
  let s := if old < 1024 && 1024 ≤ new then s.logEvent 1 1 [p, new, cause] else s
  if !q && 2048 ≤ new then s.logEvent 1 2 [p, new, cause] else s
/-- The audit of which a team is a run, by its number (R350). -/
def State.auditOf (s : State) (m : Team) : Option (Nat × Audit) :=
  (s.audits.zipIdx.find? fun a => a.1.launch == m.launch && a.1.index == m.index).map fun a => (a.2, a.1)
/-- A run of an audit gone: its record, and what it held. -/
def State.runOver (s : State) (t : Nat) : State := (s.freeTeam t).sweep
/-- Whether the record `team` is a run that has ended on a physical core for the audit of a launch's team (R350). -/
def State.runEnded (s : State) (launch index core team : Nat) : Bool :=
  let m := s.team team
  m.launch == launch && m.index == index && s.physOf m.first == core && s.teamOver team
/-- AUDIT_REEXECUTION (R350): the digest-only run of a sampled team has ended on a core of another cluster; a trap counts as a
mismatch. `team` is the run's record. -/
def execAuditReexecution (launch index core team : Nat) (s : State) : Out :=
  let m := s.team team
  .next (match m.rerun, s.auditOf m with
    | some r, some (k, a) =>
      if r.writes || a.second.isSome || !s.runEnded launch index core team then s
      else
        let s := s.runOver team
        if !r.trapped && m.digest == a.digest then ({ s with audits := s.audits.eraseIdx k } : State).foreignEnd a.launch
        else
          let s := ((s.countDev 0x122).suspect a.core 64 2).suspect core 64 2
          ({ s with audits := lset s.audits k fun a => { a with second := some (core, if r.trapped then none else some m.digest) } } : State).updLaunch
            a.launch (·.waits (3, a.index) s.time.toNat)
    | _, _ => s)
/-- The bytes that some stores wrote and some others did not, by address. -/
def onlyIn (l others : List (Nat × Nat)) : List Nat :=
  ((l.flatMap fun x => (List.range x.2).map (x.1 + ·)).filter fun a => !(others.any fun o => o.1 ≤ a && a < o.1 + o.2)).eraseDups
/-- Bytes that a losing original alone wrote: undefined from now on (R350, log 2). -/
def State.unwrite (s : State) (a : Audit) (by_ : List (Nat × Nat)) : State :=
  let r := s.launchRec a.launch
  let w : Who := { die := a.core / 66, ctx := r.ctx, own := true, team := if r.desc.det then s.findTeam a.launch a.index else none }
  (onlyIn a.wrote by_).foldl (fun s va => (s.drew.writeVa w va [(s.freeW va).setWidth 8]).1) s
/-- AUDIT_THIRD_RUN (R350): the run in writing mode of a third cluster has ended. Its stores stand as it made them; where the
original loses, the bytes that it alone wrote are undefined. -/
def execAuditThirdRun (launch index core team : Nat) (s : State) : Out :=
  let m := s.team team
  .next (match m.rerun, s.auditOf m with
    | some r, some (k, a) =>
      match a.second with
      | none => s
      | some (p2, d2) =>
        if !r.writes || !s.runEnded launch index core team then s
        else
          let s := s.runOver team
          let s := ({ s with audits := s.audits.eraseIdx k } : State).logEvent 2 1 [a.launch, a.index]
          let lose (s : State) (bad good : Nat) : State :=
            ((s.suspect bad 512 2).updPcore good fun c => { c with refund := c.refund + 64 }).foreignEnd a.launch
          if !r.trapped && m.digest == a.digest then lose s p2 a.core
          else if !r.trapped && d2 == some m.digest then lose (s.unwrite a m.wrote) a.core p2
          else
            let l := s.launchRec a.launch
            let rec_ := recordBytes s.time (s.pcore a.core).seq 0x0F 0 ((s.coreOf a.core).getD 0) (a.core % 66) 0 0 0 l.queue 0
              a.index l.ctx 1 0
            let s := s.updPcore a.core fun c => { c with seq := c.seq + 1 }
            (s.postRecord (a.core / 66) l.ctx a.launch rec_).teardownLaunch a.launch 6 0x0F
    | _, _ => s)
/-- The end of a tick for the scores (R351): refunds, after the tick's increments. -/
def State.refunds (s : State) : State :=
  { s with pcores := s.pcores.map fun p => (p.1, { p.2 with suspicion := p.2.suspicion - p.2.refund, refund := 0 }) }
/-- SUSPICION_HALVING (R351): last in a tick whose %time is a multiple of 2^20, once. -/
def execSuspicionHalving (s : State) : Out :=
  .next (if s.time.toNat % 1048576 != 0 || s.mgmt.halved then s
    else { s.refunds with
      pcores := s.refunds.pcores.map fun p => (p.1, { p.2 with suspicion := p.2.suspicion / 2 }), mgmt := { s.mgmt with halved := true } })
/-- Whether no team is resident on a die's cluster. -/
def State.idleCluster (s : State) (x k : Nat) : Bool :=
  s.teams.all fun t => t.2.st != .resident || t.2.cores.all fun c => c / 4 != 16 * x + k
/-- CLUSTER_SUBSTITUTION (R286): a spare takes a quarantined core's place, with caches, counters and clock of its own; with no
spare left the cluster is withdrawn. -/
def execClusterSubstitution (die lcore : Nat) (s : State) : Out :=
  let core := 64 * die + lcore
  .next (if 64 ≤ lcore || !(s.pcore (s.physOf core)).quarantined || !s.idleCluster die (lcore / 4) || (s.die die).withdrawn.contains (lcore / 4) then s
    else match s.spare die with
      | some p =>
        (s.updDie die fun d => { d with clmap := lset d.clmap lcore fun _ => p }).updCore core fun c => { c with
          l1 := [], l1i := [], l0i := [[], [], [], []], tlb := [], wtlb := [], counters := [] }
      | none => s.updDie die fun d => { d with withdrawn := (lcore / 4) :: d.withdrawn })

/-- What a bank has shown (R380): uncorrectable errors, and the corrected ones of the last 2^20 ticks. -/
def Stack.bank (k : Stack) (b : Nat) : Nat × List Nat := ((k.errs.find? (·.1 == b)).map (·.2)).getD (0, [])
/-- The bank that holds an offset of a stack (R287): below the boundary by the hash of the generation that is being made, above it
by the current one's, each over the banks that are left to it. -/
def Stack.bankAt (k : Stack) (off : Nat) : Nat :=
  let below := k.moving && decide (off < k.boundary)
  let gone := if below || !k.moving then k.dropped else k.dropped.take (k.dropped.length - k.newly)
  let left := (List.range 4096).filter fun b => !gone.contains b
  left.getD (Config.bankHash gone (if below then k.gen + 1 else k.gen) off % left.length) 0
/-- SCRUB (R188, R346): a corrected error is written back; an uncorrectable one poisons its 32-byte sector. -/
def execScrub (pa : Nat) (uncorrectable : Bool) (s : State) : Out :=
  .next (if !s.visible pa then s
    else
      let x := pa / Config.stackBytes
      let b := (s.stack x).bankAt (pa % Config.stackBytes)
      let s := s.updStack x fun k =>
        let e := k.bank b
        let e := if uncorrectable then (e.1 + 1, e.2) else (e.1, (e.2.filter fun t => decide (s.time.toNat < t + 1048576)) ++ [s.time.toNat])
        { k with errs := (b, e) :: k.errs.filter (·.1 != b) }
      let s := s.countDie (homeOf pa) (if uncorrectable then 0x111 else 0x110)
      let sec := pa - pa % 32
      if uncorrectable && !s.poison.contains sec then { s with poison := sec :: s.poison } else s)
/-- Whether a bank is to be dropped (R380). -/
def Stack.failing (k : Stack) (b now : Nat) : Bool :=
  let e := k.bank b
  !k.dropped.contains b && !k.pendingDrop.contains b
    && (decide (2 ≤ e.1) || decide (1000 ≤ (e.2.filter fun t => decide (now < t + 1048576)).length))
/-- An interrupt to the host die (R380, R381). -/
def State.signalHost (s : State) (cause : Nat) (detail : List Nat) : State :=
  { s with mgmt := { s.mgmt with irqs := s.mgmt.irqs ++ [(cause, detail)] } }
/-- BANK_DROP (R287, R380): the 13th drop needs the driver's acknowledgement, for which the firmware asks
through the event log and the host interrupt; visible capacity then shrinks. -/
def execBankDrop (stack bank : Nat) (ack : Bool) (s : State) : Out :=
  let k := s.stack stack
  let n := k.dropped.length + k.pendingDrop.length
  .next (if !k.failing bank s.time.toNat || 16 ≤ n then s
    else if n == 12 && !ack then (s.logEvent 3 1 [stack, bank]).signalHost 1 [stack, bank]
    else
      let s := (s.logEvent 3 2 [stack, bank]).updStack stack fun k => { k with shrunk := k.shrunk || decide (12 ≤ n) }
      if k.moving then s.updStack stack fun k => { k with pendingDrop := k.pendingDrop ++ [bank] }
      else s.updStack stack fun k => { k with dropped := k.dropped ++ [bank], newly := 1, moving := true, boundary := 0 })
/-- RESTRIPE_REGION (R287): the region at the boundary is done; after the last one the new generation is current, and a failure
found meanwhile begins the next. -/
def execRestripeRegion (stack : Nat) (s : State) : Out :=
  .next (if !(s.stack stack).moving then s
    else s.updStack stack fun k =>
      if k.boundary + 0x10000000 < Config.stackBytes then { k with boundary := k.boundary + 0x10000000 }
      else { k with boundary := 0, gen := k.gen + 1, moving := !k.pendingDrop.isEmpty, dropped := k.dropped ++ k.pendingDrop, newly := k.pendingDrop.length, pendingDrop := [] })

/-- The records of a context's trap queue that the host has not consumed. -/
def State.unconsumed (s : State) (ctx : Nat) : List (List Byte) :=
  let c := s.ctx ctx
  (List.range (c.tqprod - c.tqcons).toNat).filterMap fun i =>
    (s.readVa { die := 0, ctx } (c.word 2 + 64 * ((c.tqcons.toNat + i) % 4096)) 64).2
/-- A fatal error (R381): admission and issue stop, the dump is written, its header also to flash, and the host die is signalled; only a
reset is accepted. -/
def State.fatal (s : State) (cause unit : Nat) : State :=
  if s.mgmt.stopped then s
  else
    let s := s.logEvent 4 cause [unit]
    let save (c : Nat) (g : Group) : List Byte :=
      g.whole.saveBytes 1 0 (fun _ => true) (fun _ => true) true fun l => s.headerWaits c g (g.thread l)
    let d : Fatal := {
      cause, unit, time := s.time
      saves := s.cores.flatMap fun c => c.2.slots.map fun p => save c.1 p.2
      records := (s.ctxs.filter (·.2.inUse)).flatMap fun c => s.unconsumed c.1
      log := s.mgmt.log }
    ({ s with mgmt := { s.mgmt with stopped := true, dump := some d, header := some { d with saves := [], records := [], log := [] } } } : State).signalHost
      2 [cause, unit]
/-- FATAL_ERROR (R381). -/
def execFatalError (cause unit : Nat) (s : State) : Out := .next (s.fatal cause unit)
/-- DIE_LINK_LOSS (R381, R387): a link of which three retrainings have failed in succession. -/
def execDieLinkLoss (link : Nat) (s : State) : Out := .next (if 3 ≤ (aget s.mgmt.linkFails link).getD 0 then s.fatal 2 link else s)
/-- Temperature limits, in °C: where throttling begins, and the thermal trip (R393). -/
def hotAt : Nat := 95
def tripAt : Nat := 110
/-- A die's sensors: of the 64, sixteen each in order (DESIGN CHOICE, log 101). -/
def dieTemps (temps : List Nat) (x : Nat) : List Nat := (temps.drop (16 * x)).take 16
/-- POWER_WINDOW (R393, R394): the readings of the package's power, of the 64 temperature sensors and of the monitors. At a thermal trip
the package stops, whenever it is read; every 100 ticks each die's clock takes a step. -/
def execPowerWindow (watts : Nat) (temps : List Nat) (monitors : Monitors) (s : State) : Out :=
  .next (if temps.length != 64 then s
    else
      let s : State := { s with mgmt := { s.mgmt with temps, monitors } }
      if temps.any fun t => decide (tripAt ≤ t) then s.fatal 4 0
      else if s.time.toNat % 100 != 0 then s
      else [0, 1, 2, 3].foldl (fun s x => s.updDie x fun d =>
        let slow := (dieTemps temps x).any (fun t => decide (hotAt ≤ t)) || decide (s.mgmt.capW < watts)
        { d with mhz := if slow then max 550 (d.mhz - 50) else min 1100 (d.mhz + 50) }) s)

/-- A die as bring-up leaves it (R286): its logical cores on its healthy physical cores, in increasing order. -/
def State.mappedDie (s : State) (x : Nat) : Die :=
  { clmap := ((List.range 66).filter fun p => !(s.pcore (66 * x + p)).dead).take 64 }
/-- The slot from which the management processor boots: the marked one, or the other if that one's signature fails or its version is
lower than the fused one; none if both fail (R395). -/
def Mgmt.bootSlot (m : Mgmt) : Option Nat :=
  [m.marked, 1 - m.marked].find? fun i => m.slotSigned.getD i false && decide (m.fused ≤ m.slotVersions.getD i 0)
/-- The package when some steps of bring-up have been done (R391): what outlives a reset is kept, and everything else that loses its power or
is reset is as it is after reset; the first step chooses the firmware image, whose version is then fused (R395), the second maps the
clusters (R286), the fifth zeroes the visible memory (R179), the last trains the ports and enables the window. -/
def State.brought (s : State) (steps : Nat) (dump : Option Fatal) (run : Nat) : State :=
  let m := s.mgmt
  { State.reset with
    inbox := s.inbox, upsets := s.upsets, freeCtr := s.freeCtr, serial := s.serial
    mem := if 5 ≤ steps then [] else s.mem
    poison := if 5 ≤ steps then [] else s.poison
    dies := if 2 ≤ steps then ([0, 1, 2, 3].map fun x => (x, s.mappedDie x)).filter fun d => d.2 != {} else []
    pcores := (s.pcores.filter (·.2.dead)).map fun p => (p.1, { dead := true })
    hbm := (s.hbm.map fun k => (k.1, k.2.dropped ++ k.2.pendingDrop)).map fun k =>
      (k.1, { (default : Stack) with dropped := k.2, shrunk := decide (12 < k.2.length) })
    ports := if 6 ≤ steps then [] else (List.range 16).map fun p => (p, { up := false })
    mgmt := { State.reset.mgmt with
      log := m.log, slotVersions := m.slotVersions, slotSigned := m.slotSigned, marked := m.marked, running := run
      fused := if 1 ≤ steps then max m.fused (m.slotVersions.getD run 0) else m.fused
      temps := m.temps, monitors := m.monitors, dump, header := m.header } }
/-- A step of bring-up that has failed stops it; it is logged and reported on the I3C port, and the window stays unavailable (R391). -/
def State.stuckAt (s : State) (n : Nat) : State :=
  let s := s.logEvent 5 n []
  { s with mgmt := { s.mgmt with ready := false, failedStep := some n, i3c := s.mgmt.i3c ++ [(0x200 + n, [])] } }
/-- BRING_UP (R391): after power good; the step, 1 to 6, that fails, if one does. Without an image that may be run the first fails. -/
def execBringUp (failed : Option Nat) (s : State) : Out :=
  .next (if s.mgmt.powered || failed.any fun n => n == 0 || decide (6 < n) then s
    else match s.mgmt.bootSlot, failed with
      | none, _ => (s.brought 0 none s.mgmt.running).stuckAt 1
      | some i, none => s.brought 6 none i
      | some i, some n => (s.brought (n - 1) none (if n == 1 then s.mgmt.running else i)).stuckAt n)
/-- WARM_RESET (R392): asked for through the mailbox; steps 2 to 6 again. Whether one of them fails, and which, is the part's: a value that
is free (log 2). -/
def execWarmReset (s : State) : Out :=
  let n := Config.resetFails s.freeCtr
  .next (if s.mgmt.pending.isNone then s
    else
      let s := s.drew
      if 2 ≤ n && n ≤ 6 then (s.brought (n - 1) s.mgmt.dump s.mgmt.running).stuckAt n else s.brought 6 s.mgmt.dump s.mgmt.running)
/-- MAIN_POWER_LOSS (R381, R391, R397): the package stops, and the fatal dump is no longer readable. -/
def execMainPowerLoss (s : State) : Out :=
  .next { s with mgmt := { s.mgmt with powered := false, ready := false, dump := none } }

/-- An answer of the management subsystem (R394, R397): to the I3C port under a code, or to the mailbox. -/
def State.answer (s : State) (viaI3c : Bool) (code : Nat) (bs : List Byte) : State :=
  let m := { s.mgmt with requests := s.mgmt.requests + 1 }
  { s with mgmt := if viaI3c then { m with i3c := m.i3c ++ [(code, bs)] }
      else { m with mbox := bs.take 4032, mboxDone := true, pending := none } }
/-- The bytes of an answer that the spec leaves to the subsystem (log 11). -/
def State.freeAnswer (s : State) (viaI3c : Bool) (code : Nat) : State := s.answer viaI3c code (Config.reply s.mgmt.requests)
/-- What the four measurements are taken of, as bytes (R396; their layout is the model's, PRESUMED, log 102). -/
def State.measured (s : State) (index : Nat) : List Byte :=
  let v := s.mgmt.slotVersions.getD s.mgmt.running 0
  match index with
  | 1 => Config.firmware 1 v
  | 2 => Config.firmware 2 v
  | 3 => leBytes 4 s.mgmt.fused ++ ((List.range 264).filter fun p => (s.pcore p).dead).flatMap (leBytes 2)
      ++ [0, 1, 2, 3].flatMap fun x => (s.die x).clmap.flatMap (leBytes 1)
  | _ => (List.range 8).flatMap fun k => leBytes 1 (s.stack k).dropped.length ++ (s.stack k).dropped.flatMap (leBytes 2)
/-- A measurement's block: its index, its length, its digest. -/
def State.measurement (s : State) (index : Nat) : List Byte :=
  let d := Config.sha256 (s.measured index)
  [BitVec.ofNat 8 index, 1] ++ leBytes 2 d.length ++ d
/-- The requests of SPDM 1.3 that are answered (R396), by their codes, which are the standard's (log 11). -/
def spdmCodes : List Nat := [0x84, 0xE1, 0xE3, 0x81, 0x82, 0x83, 0xE0]
/-- ERROR UnsupportedRequest (R396). -/
def unsupported (code : Nat) : List Byte := [0x13, 0x7F, 0x07, BitVec.ofNat 8 code]
/-- The answer to an SPDM request (R396): the version, the algorithms RSASSA-PSS 3072 and SHA-256, the chain and its digest, the nonce
signed, the measurements; any other request is in error. The layouts are SPDM's in outline (PRESUMED, log 102). -/
def State.spdm (s : State) (code index : Nat) (nonce : BitVec 256) : List Byte :=
  let proof := Config.sha256 Config.chain ++ leBytes 32 nonce.toNat
  match code with
  | 0x84 => [0x10, 0x04, 0, 0, 0, 1, 0x00, 0x13]
  | 0xE1 => [0x13, 0x61, 0, 0] ++ Config.reply s.mgmt.requests
  | 0xE3 => [0x13, 0x63, 0, 0] ++ leBytes 4 8 ++ leBytes 4 1
  | 0x81 => [0x13, 0x01, 0, 1] ++ Config.sha256 Config.chain
  | 0x82 => [0x13, 0x02, 0, 0] ++ Config.chain
  | 0x83 => [0x13, 0x03, 0, 1] ++ proof ++ Config.sign s.mgmt.requests proof
  | 0xE0 =>
    if index == 0 then [0x13, 0x60, 4, 0]
    else if index == 255 then [0x13, 0x60, 0, 0] ++ [1, 2, 3, 4].flatMap s.measurement
    else if index ≤ 4 then [0x13, 0x60, 0, 0] ++ s.measurement index
    else [0x13, 0x7F, 0x01, 0]
  | _ => unsupported code
/-- The request in the mailbox, if one waits (R394). -/
def Mgmt.request (m : Mgmt) : Option (List Byte) := m.pending.map fun n => m.mbox.take n ++ List.replicate (n - m.mbox.length) 0
/-- The code of a request that is an SPDM message, by its first two bytes. -/
def spdmCode (q : List Byte) : Option Nat :=
  match q with | v :: c :: _ => if v == 0x13 || v == 0x10 then some c.toNat else none | _ => none
/-- Whether an SPDM request has come: over the I3C port, or as the one that waits in the mailbox (R394, R396). -/
def State.hasCome (s : State) (viaI3c : Bool) (code : Nat) : Bool := viaI3c || (s.mgmt.request.bind spdmCode) == some code
/-- An SPDM request answered, once it has come. -/
def State.spdmAnswer (s : State) (viaI3c : Bool) (code index : Nat) (nonce : BitVec 256) : State :=
  if s.hasCome viaI3c code then s.answer viaI3c code (s.spdm code index nonce) else s
/-- MAILBOX_REQUEST (R394): the answer to the request whose length was written. An SPDM request is read (R396); to another, whose form the
spec does not give, the event brings the answer (log 46). -/
def execMailboxRequest (len : Nat) (reply : List Byte) (s : State) : Out :=
  .next (if s.mgmt.pending != some len then s
    else
      let q := s.mgmt.request.getD []
      match spdmCode q with
      | some c => s.answer false 0 (s.spdm c (q.getD 3 0).toNat (BitVec.ofNat 256 (leNat ((q.drop 4).take 32))))
      | none => s.answer false 0 reply)
/-- POWER_CAP (R393, R397): a request through the mailbox or on the I3C port, answered; a cap out of range changes nothing. -/
def execPowerCap (req : CapReq) (s : State) : Out :=
  let cap (w : Nat) (s : State) : State := if 1200 ≤ w && w ≤ 2600 then { s with mgmt := { s.mgmt with capW := w } } else s
  .next (match req with
    | .mailbox w => if s.mgmt.pending.isNone then s else cap w (s.freeAnswer false 0)
    | .i3c w => cap w (s.freeAnswer true 0x300))
/-- FIRMWARE_UPDATE (R395): the slot not in use is written, and marked when its signature and version hold. -/
def execFirmwareUpdate (version : Nat) (signed : Bool) (s : State) : Out :=
  let m := s.mgmt
  let other := 1 - m.running
  .next { s with mgmt := { m with
    slotVersions := lset m.slotVersions other fun _ => version
    slotSigned := lset m.slotSigned other fun _ => signed
    marked := if signed && m.fused ≤ version then other else m.running } }
/-- GET_VERSION (R396). -/
def execGetVersion (viaI3c : Bool) (s : State) : Out := .next (s.spdmAnswer viaI3c 0x84 0 0)
/-- GET_CAPABILITIES (R396). -/
def execGetCapabilities (viaI3c : Bool) (s : State) : Out := .next (s.spdmAnswer viaI3c 0xE1 0 0)
/-- NEGOTIATE_ALGORITHMS (R396). -/
def execNegotiateAlgorithms (viaI3c : Bool) (s : State) : Out := .next (s.spdmAnswer viaI3c 0xE3 0 0)
/-- GET_DIGESTS (R396). -/
def execGetDigests (viaI3c : Bool) (s : State) : Out := .next (s.spdmAnswer viaI3c 0x81 0 0)
/-- GET_CERTIFICATE (R396). -/
def execGetCertificate (viaI3c : Bool) (s : State) : Out := .next (s.spdmAnswer viaI3c 0x82 0 0)
/-- CHALLENGE (R396). -/
def execChallenge (viaI3c : Bool) (nonce : BitVec 256) (s : State) : Out := .next (s.spdmAnswer viaI3c 0x83 0 nonce)
/-- GET_MEASUREMENTS (R396). -/
def execGetMeasurements (viaI3c : Bool) (index : Nat) (s : State) : Out := .next (s.spdmAnswer viaI3c 0xE0 index 0)
/-- Any other request: ERROR UnsupportedRequest (R396). -/
def execUnsupportedRequest (viaI3c : Bool) (code : Nat) (s : State) : Out :=
  .next (if spdmCodes.contains code || 256 ≤ code then s else s.spdmAnswer viaI3c code 0 0)
/-- A record of the event log in 32 bytes (R394). -/
def LogRec.bytes (r : LogRec) : List Byte :=
  leBytes 8 r.time.toNat ++ leBytes 4 r.source ++ leBytes 4 r.code ++ (leBytes 16 (leNat (r.detail.flatMap (leBytes 4))))
/-- What the sensors and monitors show: the 64 temperatures, then the rails, then the process monitors (R394; the order is the model's, PRESUMED, log
102). -/
def Mgmt.readings (m : Mgmt) : List Nat := m.temps ++ m.monitors.rails ++ m.monitors.process
/-- I3C_SENSOR_READ (R394, R397): a sensor or monitor, or the event log. -/
def execI3cSensorRead (sensor : Nat) (log : Bool) (s : State) : Out :=
  .next (if log then s.answer true 0x1FF (s.mgmt.log.flatMap LogRec.bytes)
    else match s.mgmt.readings[sensor]? with
    | some v => s.answer true (0x1000 + sensor) (leBytes 4 v)
    | none => s)
/-- LINK_LEVEL_RETRY (R387): the flit is sent again; a retraining replaces the lanes that fail at it from the spare lanes, and fails when
there are too few. -/
def execLinkLevelRetry (link : Nat) (outcome : LinkOutcome) (s : State) : Out :=
  let m := s.mgmt
  let m := { m with linkRetries := aset m.linkRetries link ((aget m.linkRetries link).getD 0 + 1) }
  let fails : Mgmt := { m with linkFails := aset m.linkFails link ((aget m.linkFails link).getD 0 + 1) }
  .next { s with mgmt := match outcome with
    | .retry => m
    | .failed => fails
    | .trained bad =>
      let new := (bad.eraseDups.filter fun n => !m.repaired.contains (link, n)).map fun n => (link, n)
      if Config.spareLanes < ((m.repaired.filter (·.1 == link)) ++ new).length then fails
      else { m with repaired := m.repaired ++ new, linkFails := aset m.linkFails link 0 } }

end Sys2Proof.Machine
end

