-- ==== Sys2Proof/Machine/Scalar.lean ====
section
/-! DEFINITION. The scalar instructions: one pass, once for the group, when the guard holds in at least one thread of the
issue (R132 to R135). SRD and SWR stand in Machine/System.lean. -/
namespace Sys2Proof.Machine

/-- A scalar result, written when some lane is active (R132). -/
def State.sca (s : State) (c : Ctl) (d : SReg) (v : W64) : State := if s.active c == 0 then s else s.ws d v .s
/-- A count of six bits (R133). -/
def cnt6 (b : W64) : Nat := b.toNat % 64

/-- SADD of registers (R133). -/
def execSaddRegisters (c : Ctl) (d a b : SReg) (s : State) : Out :=
  (s.sca c d (s.srd a + s.srd b)).done (.saddRegisters c d a b)
/-- SADD of an immediate, sign-extended (R108). -/
def execSaddImmediate (c : Ctl) (d a : SReg) (imm : BitVec 17) (s : State) : Out :=
  (s.sca c d (s.srd a + immS imm)).done (.saddImmediate c d a imm)
/-- SSUB. -/
def execSsub (c : Ctl) (d a b : SReg) (s : State) : Out := (s.sca c d (s.srd a - s.srd b)).done (.ssub c d a b)
/-- SMUL. -/
def execSmul (c : Ctl) (d a b : SReg) (s : State) : Out := (s.sca c d (s.srd a * s.srd b)).done (.smul c d a b)
/-- SMULH. -/
def execSmulh (c : Ctl) (d a b : SReg) (t : IntTy) (s : State) : Out :=
  (s.sca c d (mulh t (s.srd a) (s.srd b))).done (.smulh c d a b t)
/-- SAND. -/
def execSandRegisters (c : Ctl) (d a b : SReg) (s : State) : Out :=
  (s.sca c d (s.srd a &&& s.srd b)).done (.sandRegisters c d a b)
/-- SAND of an immediate, zero-extended. -/
def execSandImmediate (c : Ctl) (d a : SReg) (imm : BitVec 17) (s : State) : Out :=
  (s.sca c d (s.srd a &&& immZ imm)).done (.sandImmediate c d a imm)
/-- SOR. -/
def execSor (c : Ctl) (d a b : SReg) (s : State) : Out := (s.sca c d (s.srd a ||| s.srd b)).done (.sor c d a b)
/-- SXOR. -/
def execSxor (c : Ctl) (d a b : SReg) (s : State) : Out := (s.sca c d (s.srd a ^^^ s.srd b)).done (.sxor c d a b)
/-- SSHL by a register. -/
def execSshlRegisters (c : Ctl) (d a b : SReg) (s : State) : Out :=
  (s.sca c d (s.srd a <<< cnt6 (s.srd b))).done (.sshlRegisters c d a b)
/-- SSHL by an immediate. -/
def execSshlImmediate (c : Ctl) (d a : SReg) (n : BitVec 6) (s : State) : Out :=
  (s.sca c d (s.srd a <<< n.toNat)).done (.sshlImmediate c d a n)
/-- SSHR by a register. -/
def execSshrRegisters (c : Ctl) (d a b : SReg) (s : State) : Out :=
  (s.sca c d (s.srd a >>> cnt6 (s.srd b))).done (.sshrRegisters c d a b)
/-- SSHR by an immediate. -/
def execSshrImmediate (c : Ctl) (d a : SReg) (n : BitVec 6) (s : State) : Out :=
  (s.sca c d (s.srd a >>> n.toNat)).done (.sshrImmediate c d a n)
/-- SSRA. -/
def execSsra (c : Ctl) (d a b : SReg) (s : State) : Out :=
  (s.sca c d ((s.srd a).sshiftRight (cnt6 (s.srd b)))).done (.ssra c d a b)
/-- SMIN. -/
def execSmin (c : Ctl) (d a b : SReg) (t : IntTy) (s : State) : Out :=
  (s.sca c d (minT t (s.srd a) (s.srd b))).done (.smin c d a b t)
/-- SMAX. -/
def execSmax (c : Ctl) (d a b : SReg) (t : IntTy) (s : State) : Out :=
  (s.sca c d (maxT t (s.srd a) (s.srd b))).done (.smax c d a b t)
/-- SSET (R134). -/
def execSset (c : Ctl) (d a b : SReg) (cmp : Cmp) (t : IntTy) (s : State) : Out :=
  (s.sca c d (if cmpInt cmp (num (s.srd a) t) (num (s.srd b) t) then 1 else 0)).done (.sset c d a b cmp t)
/-- SSEL executes at every issue; a when the guard holds in one thread of the issue, or in every one with ALL (R134). -/
def execSsel (c : Ctl) (d a b : SReg) (all : Bool) (s : State) : Out :=
  let holds := if all then s.active c == s.cur.mask else s.active c != 0
  (s.ws d (if holds then s.srd a else s.srd b) .s).done (.ssel c d a b all)
/-- SMOV. -/
def execSmov (c : Ctl) (d a : SReg) (s : State) : Out := (s.sca c d (s.srd a)).done (.smov c d a)
/-- SMOVI (R135). -/
def execSmovi (c : Ctl) (d : SReg) (m : SmoviMode) (s : State) : Out :=
  (s.sca c d (match m with
    | .const imm => imm.signExtend 64
    | .ins a imm => (s.srd a <<< 16) ||| imm.setWidth 64)).done (.smovi c d m)
/-- SLEA (R135). -/
def execSlea (c : Ctl) (d a b e : SReg) (n : BitVec 6) (s : State) : Out :=
  (s.sca c d ((s.srd a <<< n.toNat) + s.srd b + s.srd e)).done (.slea c d a b e n)

end Sys2Proof.Machine
end

