-- ==== Sys2Proof/Machine/Dispatch.lean ====
section
/-! DEFINITION. The meaning of every instruction and event, by one match. -/
namespace Sys2Proof.Machine

def exec (i : Instr) (s : State) : Host.Outcome State Fault Refusal :=
  match i with
  | .nop x0 => Sys2Proof.Machine.execNop x0 s
  | .iaddRegisters x0 x1 x2 x3 x4 x5 x6 => Sys2Proof.Machine.execIaddRegisters x0 x1 x2 x3 x4 x5 x6 s
  | .iaddImmediate x0 x1 x2 x3 x4 x5 x6 => Sys2Proof.Machine.execIaddImmediate x0 x1 x2 x3 x4 x5 x6 s
  | .isub x0 x1 x2 x3 x4 x5 x6 => Sys2Proof.Machine.execIsub x0 x1 x2 x3 x4 x5 x6 s
  | .imulRegisters x0 x1 x2 x3 => Sys2Proof.Machine.execImulRegisters x0 x1 x2 x3 s
  | .imulImmediate x0 x1 x2 x3 => Sys2Proof.Machine.execImulImmediate x0 x1 x2 x3 s
  | .imulh x0 x1 x2 x3 x4 => Sys2Proof.Machine.execImulh x0 x1 x2 x3 x4 s
  | .imad x0 x1 x2 x3 x4 => Sys2Proof.Machine.execImad x0 x1 x2 x3 x4 s
  | .imadw x0 x1 x2 x3 x4 x5 => Sys2Proof.Machine.execImadw x0 x1 x2 x3 x4 x5 s
  | .idiv x0 x1 x2 x3 x4 => Sys2Proof.Machine.execIdiv x0 x1 x2 x3 x4 s
  | .irem x0 x1 x2 x3 x4 => Sys2Proof.Machine.execIrem x0 x1 x2 x3 x4 s
  | .imin x0 x1 x2 x3 x4 => Sys2Proof.Machine.execImin x0 x1 x2 x3 x4 s
  | .imax x0 x1 x2 x3 x4 => Sys2Proof.Machine.execImax x0 x1 x2 x3 x4 s
  | .iabs x0 x1 x2 x3 => Sys2Proof.Machine.execIabs x0 x1 x2 x3 s
  | .isad x0 x1 x2 x3 x4 x5 => Sys2Proof.Machine.execIsad x0 x1 x2 x3 x4 x5 s
  | .shlRegisters x0 x1 x2 x3 => Sys2Proof.Machine.execShlRegisters x0 x1 x2 x3 s
  | .shlImmediate x0 x1 x2 x3 => Sys2Proof.Machine.execShlImmediate x0 x1 x2 x3 s
  | .shrRegisters x0 x1 x2 x3 => Sys2Proof.Machine.execShrRegisters x0 x1 x2 x3 s
  | .shrImmediate x0 x1 x2 x3 => Sys2Proof.Machine.execShrImmediate x0 x1 x2 x3 s
  | .sraRegisters x0 x1 x2 x3 => Sys2Proof.Machine.execSraRegisters x0 x1 x2 x3 s
  | .sraImmediate x0 x1 x2 x3 => Sys2Proof.Machine.execSraImmediate x0 x1 x2 x3 s
  | .shf x0 x1 x2 x3 x4 x5 => Sys2Proof.Machine.execShf x0 x1 x2 x3 x4 x5 s
  | .rot x0 x1 x2 x3 x4 => Sys2Proof.Machine.execRot x0 x1 x2 x3 x4 s
  | .andRegisters x0 x1 x2 x3 => Sys2Proof.Machine.execAndRegisters x0 x1 x2 x3 s
  | .andImmediate x0 x1 x2 x3 => Sys2Proof.Machine.execAndImmediate x0 x1 x2 x3 s
  | .orRegisters x0 x1 x2 x3 => Sys2Proof.Machine.execOrRegisters x0 x1 x2 x3 s
  | .orImmediate x0 x1 x2 x3 => Sys2Proof.Machine.execOrImmediate x0 x1 x2 x3 s
  | .xorRegisters x0 x1 x2 x3 => Sys2Proof.Machine.execXorRegisters x0 x1 x2 x3 s
  | .xorImmediate x0 x1 x2 x3 => Sys2Proof.Machine.execXorImmediate x0 x1 x2 x3 s
  | .bool3 x0 x1 x2 x3 x4 x5 x6 => Sys2Proof.Machine.execBool3 x0 x1 x2 x3 x4 x5 x6 s
  | .popc x0 x1 x2 => Sys2Proof.Machine.execPopc x0 x1 x2 s
  | .clz x0 x1 x2 => Sys2Proof.Machine.execClz x0 x1 x2 s
  | .ctz x0 x1 x2 => Sys2Proof.Machine.execCtz x0 x1 x2 s
  | .brev x0 x1 x2 => Sys2Proof.Machine.execBrev x0 x1 x2 s
  | .bfx x0 x1 x2 x3 x4 x5 => Sys2Proof.Machine.execBfx x0 x1 x2 x3 x4 x5 s
  | .bfi x0 x1 x2 x3 x4 => Sys2Proof.Machine.execBfi x0 x1 x2 x3 x4 s
  | .bshuf x0 x1 x2 x3 x4 => Sys2Proof.Machine.execBshuf x0 x1 x2 x3 x4 s
  | .leaRegisters x0 x1 x2 x3 x4 x5 => Sys2Proof.Machine.execLeaRegisters x0 x1 x2 x3 x4 x5 s
  | .leaImmediate x0 x1 x2 x3 x4 => Sys2Proof.Machine.execLeaImmediate x0 x1 x2 x3 x4 s
  | .mov x0 x1 x2 x3 => Sys2Proof.Machine.execMov x0 x1 x2 x3 s
  | .movi x0 x1 x2 => Sys2Proof.Machine.execMovi x0 x1 x2 s
  | .sel x0 x1 x2 x3 x4 x5 x6 => Sys2Proof.Machine.execSel x0 x1 x2 x3 x4 x5 x6 s
  | .saddRegisters x0 x1 x2 x3 => Sys2Proof.Machine.execSaddRegisters x0 x1 x2 x3 s
  | .saddImmediate x0 x1 x2 x3 => Sys2Proof.Machine.execSaddImmediate x0 x1 x2 x3 s
  | .ssub x0 x1 x2 x3 => Sys2Proof.Machine.execSsub x0 x1 x2 x3 s
  | .smul x0 x1 x2 x3 => Sys2Proof.Machine.execSmul x0 x1 x2 x3 s
  | .smulh x0 x1 x2 x3 x4 => Sys2Proof.Machine.execSmulh x0 x1 x2 x3 x4 s
  | .sandRegisters x0 x1 x2 x3 => Sys2Proof.Machine.execSandRegisters x0 x1 x2 x3 s
  | .sandImmediate x0 x1 x2 x3 => Sys2Proof.Machine.execSandImmediate x0 x1 x2 x3 s
  | .sor x0 x1 x2 x3 => Sys2Proof.Machine.execSor x0 x1 x2 x3 s
  | .sxor x0 x1 x2 x3 => Sys2Proof.Machine.execSxor x0 x1 x2 x3 s
  | .sshlRegisters x0 x1 x2 x3 => Sys2Proof.Machine.execSshlRegisters x0 x1 x2 x3 s
  | .sshlImmediate x0 x1 x2 x3 => Sys2Proof.Machine.execSshlImmediate x0 x1 x2 x3 s
  | .sshrRegisters x0 x1 x2 x3 => Sys2Proof.Machine.execSshrRegisters x0 x1 x2 x3 s
  | .sshrImmediate x0 x1 x2 x3 => Sys2Proof.Machine.execSshrImmediate x0 x1 x2 x3 s
  | .ssra x0 x1 x2 x3 => Sys2Proof.Machine.execSsra x0 x1 x2 x3 s
  | .smin x0 x1 x2 x3 x4 => Sys2Proof.Machine.execSmin x0 x1 x2 x3 x4 s
  | .smax x0 x1 x2 x3 x4 => Sys2Proof.Machine.execSmax x0 x1 x2 x3 x4 s
  | .sset x0 x1 x2 x3 x4 x5 => Sys2Proof.Machine.execSset x0 x1 x2 x3 x4 x5 s
  | .ssel x0 x1 x2 x3 x4 => Sys2Proof.Machine.execSsel x0 x1 x2 x3 x4 s
  | .smov x0 x1 x2 => Sys2Proof.Machine.execSmov x0 x1 x2 s
  | .smovi x0 x1 x2 => Sys2Proof.Machine.execSmovi x0 x1 x2 s
  | .slea x0 x1 x2 x3 x4 x5 => Sys2Proof.Machine.execSlea x0 x1 x2 x3 x4 x5 s
  | .isetRegisters x0 x1 x2 x3 x4 x5 x6 => Sys2Proof.Machine.execIsetRegisters x0 x1 x2 x3 x4 x5 x6 s
  | .isetImmediate x0 x1 x2 x3 x4 x5 x6 => Sys2Proof.Machine.execIsetImmediate x0 x1 x2 x3 x4 x5 x6 s
  | .plop x0 x1 x2 x3 x4 => Sys2Proof.Machine.execPlop x0 x1 x2 x3 x4 s
  | .p2v x0 x1 => Sys2Proof.Machine.execP2v x0 x1 s
  | .v2p x0 x1 x2 => Sys2Proof.Machine.execV2p x0 x1 x2 s
  | .vshape x0 x1 x2 => Sys2Proof.Machine.execVshape x0 x1 x2 s
  | .vwiden x0 x1 x2 => Sys2Proof.Machine.execVwiden x0 x1 x2 s
  | .shfl x0 x1 x2 x3 x4 x5 => Sys2Proof.Machine.execShfl x0 x1 x2 x3 x4 x5 s
  | .census x0 x1 x2 x3 x4 => Sys2Proof.Machine.execCensus x0 x1 x2 x3 x4 s
  | .gred x0 x1 x2 x3 x4 => Sys2Proof.Machine.execGred x0 x1 x2 x3 x4 s
  | .matchLanes x0 x1 x2 x3 => Sys2Proof.Machine.execMatchLanes x0 x1 x2 x3 s
  | .vbcast x0 x1 x2 x3 => Sys2Proof.Machine.execVbcast x0 x1 x2 x3 s
  | .vlane x0 x1 x2 x3 => Sys2Proof.Machine.execVlane x0 x1 x2 x3 s
  | .bra x0 x1 => Sys2Proof.Machine.execBra x0 x1 s
  | .brx x0 x1 => Sys2Proof.Machine.execBrx x0 x1 s
  | .call x0 x1 x2 => Sys2Proof.Machine.execCall x0 x1 x2 s
  | .callx x0 x1 x2 => Sys2Proof.Machine.execCallx x0 x1 x2 s
  | .ret x0 x1 => Sys2Proof.Machine.execRet x0 x1 s
  | .exit x0 => Sys2Proof.Machine.execExit x0 s
  | .jset x0 x1 x2 => Sys2Proof.Machine.execJset x0 x1 x2 s
  | .jarr x0 x1 => Sys2Proof.Machine.execJarr x0 x1 s
  | .jdrop x0 x1 => Sys2Proof.Machine.execJdrop x0 x1 s
  | .jread x0 x1 x2 => Sys2Proof.Machine.execJread x0 x1 x2 s
  | .waitf x0 x1 => Sys2Proof.Machine.execWaitf x0 x1 s
  | .sleep x0 x1 => Sys2Proof.Machine.execSleep x0 x1 s
  | .faddRegisters x0 x1 x2 x3 x4 x5 => Sys2Proof.Machine.execFaddRegisters x0 x1 x2 x3 x4 x5 s
  | .faddImmediate x0 x1 x2 x3 x4 x5 => Sys2Proof.Machine.execFaddImmediate x0 x1 x2 x3 x4 x5 s
  | .fsub x0 x1 x2 x3 x4 x5 => Sys2Proof.Machine.execFsub x0 x1 x2 x3 x4 x5 s
  | .fmulRegisters x0 x1 x2 x3 x4 x5 => Sys2Proof.Machine.execFmulRegisters x0 x1 x2 x3 x4 x5 s
  | .fmulImmediate x0 x1 x2 x3 x4 x5 => Sys2Proof.Machine.execFmulImmediate x0 x1 x2 x3 x4 x5 s
  | .ffma x0 x1 x2 x3 x4 x5 x6 x7 x8 => Sys2Proof.Machine.execFfma x0 x1 x2 x3 x4 x5 x6 x7 x8 s
  | .fmin x0 x1 x2 x3 => Sys2Proof.Machine.execFmin x0 x1 x2 x3 s
  | .fmax x0 x1 x2 x3 => Sys2Proof.Machine.execFmax x0 x1 x2 x3 s
  | .fsetRegisters x0 x1 x2 x3 x4 x5 => Sys2Proof.Machine.execFsetRegisters x0 x1 x2 x3 x4 x5 s
  | .fsetImmediate x0 x1 x2 x3 x4 x5 => Sys2Proof.Machine.execFsetImmediate x0 x1 x2 x3 x4 x5 s
  | .fclass x0 x1 x2 x3 => Sys2Proof.Machine.execFclass x0 x1 x2 x3 s
  | .frnd x0 x1 x2 x3 => Sys2Proof.Machine.execFrnd x0 x1 x2 x3 s
  | .fscale x0 x1 x2 x3 x4 => Sys2Proof.Machine.execFscale x0 x1 x2 x3 x4 s
  | .frcp x0 x1 x2 x3 => Sys2Proof.Machine.execFrcp x0 x1 x2 x3 s
  | .frsq x0 x1 x2 => Sys2Proof.Machine.execFrsq x0 x1 x2 s
  | .fsqrt x0 x1 x2 x3 => Sys2Proof.Machine.execFsqrt x0 x1 x2 x3 s
  | .fexp2 x0 x1 x2 => Sys2Proof.Machine.execFexp2 x0 x1 x2 s
  | .flog2 x0 x1 x2 => Sys2Proof.Machine.execFlog2 x0 x1 x2 s
  | .fsin x0 x1 x2 => Sys2Proof.Machine.execFsin x0 x1 x2 s
  | .fcos x0 x1 x2 => Sys2Proof.Machine.execFcos x0 x1 x2 s
  | .ftanh x0 x1 x2 => Sys2Proof.Machine.execFtanh x0 x1 x2 s
  | .hadd2 x0 x1 x2 x3 x4 x5 => Sys2Proof.Machine.execHadd2 x0 x1 x2 x3 x4 x5 s
  | .hsub2 x0 x1 x2 x3 x4 x5 => Sys2Proof.Machine.execHsub2 x0 x1 x2 x3 x4 x5 s
  | .hmul2 x0 x1 x2 x3 x4 x5 => Sys2Proof.Machine.execHmul2 x0 x1 x2 x3 x4 x5 s
  | .hfma2 x0 x1 x2 x3 x4 x5 x6 => Sys2Proof.Machine.execHfma2 x0 x1 x2 x3 x4 x5 x6 s
  | .hmin2 x0 x1 x2 x3 x4 => Sys2Proof.Machine.execHmin2 x0 x1 x2 x3 x4 s
  | .hmax2 x0 x1 x2 x3 x4 => Sys2Proof.Machine.execHmax2 x0 x1 x2 x3 x4 s
  | .hset2 x0 x1 x2 x3 x4 x5 => Sys2Proof.Machine.execHset2 x0 x1 x2 x3 x4 x5 s
  | .cvt x0 x1 x2 x3 x4 x5 x6 => Sys2Proof.Machine.execCvt x0 x1 x2 x3 x4 x5 x6 s
  | .pack x0 x1 x2 x3 x4 x5 x6 x7 => Sys2Proof.Machine.execPack x0 x1 x2 x3 x4 x5 x6 x7 s
  | .unpack x0 x1 x2 x3 x4 x5 => Sys2Proof.Machine.execUnpack x0 x1 x2 x3 x4 x5 s
  | .dp2h x0 x1 x2 x3 x4 x5 x6 x7 => Sys2Proof.Machine.execDp2h x0 x1 x2 x3 x4 x5 x6 x7 s
  | .dp4 x0 x1 x2 x3 x4 x5 x6 x7 => Sys2Proof.Machine.execDp4 x0 x1 x2 x3 x4 x5 x6 x7 s
  | .dp8 x0 x1 x2 x3 x4 x5 x6 x7 => Sys2Proof.Machine.execDp8 x0 x1 x2 x3 x4 x5 x6 x7 s
  | .dp16 x0 x1 x2 x3 x4 x5 x6 x7 => Sys2Proof.Machine.execDp16 x0 x1 x2 x3 x4 x5 x6 x7 s
  | .ld x0 x1 x2 x3 x4 x5 x6 x7 => Sys2Proof.Machine.execLd x0 x1 x2 x3 x4 x5 x6 x7 s
  | .st x0 x1 x2 x3 x4 x5 x6 => Sys2Proof.Machine.execSt x0 x1 x2 x3 x4 x5 x6 s
  | .lda x0 x1 x2 x3 x4 x5 x6 => Sys2Proof.Machine.execLda x0 x1 x2 x3 x4 x5 x6 s
  | .strel x0 x1 x2 x3 x4 x5 x6 x7 => Sys2Proof.Machine.execStrel x0 x1 x2 x3 x4 x5 x6 x7 s
  | .lds x0 x1 x2 x3 x4 x5 x6 => Sys2Proof.Machine.execLds x0 x1 x2 x3 x4 x5 x6 s
  | .sts x0 x1 x2 x3 x4 x5 => Sys2Proof.Machine.execSts x0 x1 x2 x3 x4 x5 s
  | .sld x0 x1 x2 x3 x4 x5 x6 => Sys2Proof.Machine.execSld x0 x1 x2 x3 x4 x5 x6 s
  | .sst x0 x1 x2 x3 x4 x5 => Sys2Proof.Machine.execSst x0 x1 x2 x3 x4 x5 s
  | .atom x0 x1 x2 x3 x4 x5 x6 x7 => Sys2Proof.Machine.execAtom x0 x1 x2 x3 x4 x5 x6 x7 s
  | .atoms x0 x1 x2 x3 x4 x5 x6 x7 => Sys2Proof.Machine.execAtoms x0 x1 x2 x3 x4 x5 x6 x7 s
  | .red x0 x1 x2 x3 x4 x5 x6 => Sys2Proof.Machine.execRed x0 x1 x2 x3 x4 x5 x6 s
  | .fence x0 x1 x2 => Sys2Proof.Machine.execFence x0 x1 x2 s
  | .publish x0 x1 x2 x3 x4 => Sys2Proof.Machine.execPublish x0 x1 x2 x3 x4 s
  | .pref x0 x1 x2 x3 x4 x5 x6 => Sys2Proof.Machine.execPref x0 x1 x2 x3 x4 x5 x6 s
  | .clean x0 x1 x2 x3 x4 => Sys2Proof.Machine.execClean x0 x1 x2 x3 x4 s
  | .inval x0 x1 x2 x3 x4 => Sys2Proof.Machine.execInval x0 x1 x2 x3 x4 s
  | .feset x0 x1 x2 x3 => Sys2Proof.Machine.execFeset x0 x1 x2 x3 s
  | .feclr x0 x1 x2 x3 => Sys2Proof.Machine.execFeclr x0 x1 x2 x3 s
  | .fewait x0 x1 x2 x3 x4 => Sys2Proof.Machine.execFewait x0 x1 x2 x3 x4 s
  | .tsrset x0 x1 x2 x3 => Sys2Proof.Machine.execTsrset x0 x1 x2 x3 s
  | .cpyin x0 x1 x2 x3 => Sys2Proof.Machine.execCpyin x0 x1 x2 x3 s
  | .cpyout x0 x1 x2 x3 => Sys2Proof.Machine.execCpyout x0 x1 x2 x3 s
  | .cpyobG x0 x1 x2 x3 => Sys2Proof.Machine.execCpyobG x0 x1 x2 x3 s
  | .cpyobS x0 x1 x2 x3 => Sys2Proof.Machine.execCpyobS x0 x1 x2 x3 s
  | .cpyobO x0 x1 x2 x3 => Sys2Proof.Machine.execCpyobO x0 x1 x2 x3 s
  | .cpyred x0 x1 x2 x3 x4 => Sys2Proof.Machine.execCpyred x0 x1 x2 x3 x4 s
  | .cpypf x0 x1 x2 x3 => Sys2Proof.Machine.execCpypf x0 x1 x2 x3 s
  | .cpycan x0 x1 => Sys2Proof.Machine.execCpycan x0 x1 s
  | .obres x0 x1 x2 => Sys2Proof.Machine.execObres x0 x1 x2 s
  | .obrel x0 x1 => Sys2Proof.Machine.execObrel x0 x1 s
  | .obput x0 x1 x2 x3 x4 => Sys2Proof.Machine.execObput x0 x1 x2 x3 x4 s
  | .obget x0 x1 x2 x3 x4 => Sys2Proof.Machine.execObget x0 x1 x2 x3 x4 s
  | .mzero x0 x1 x2 => Sys2Proof.Machine.execMzero x0 x1 x2 s
  | .mready x0 x1 x2 => Sys2Proof.Machine.execMready x0 x1 x2 s
  | .mloop x0 x1 x2 => Sys2Proof.Machine.execMloop x0 x1 x2 s
  | .freeze x0 x1 x2 x3 => Sys2Proof.Machine.execFreeze x0 x1 x2 x3 s
  | .stamp x0 x1 x2 x3 => Sys2Proof.Machine.execStamp x0 x1 x2 x3 s
  | .spawn x0 x1 x2 x3 x4 => Sys2Proof.Machine.execSpawn x0 x1 x2 x3 x4 s
  | .tdrop x0 x1 => Sys2Proof.Machine.execTdrop x0 x1 s
  | .tinfo x0 x1 x2 x3 => Sys2Proof.Machine.execTinfo x0 x1 x2 x3 s
  | .barArv x0 x1 => Sys2Proof.Machine.execBarArv x0 x1 s
  | .barArr x0 x1 => Sys2Proof.Machine.execBarArr x0 x1 s
  | .barExp x0 x1 x2 x3 => Sys2Proof.Machine.execBarExp x0 x1 x2 x3 s
  | .racq x0 x1 x2 => Sys2Proof.Machine.execRacq x0 x1 x2 s
  | .rpub x0 x1 => Sys2Proof.Machine.execRpub x0 x1 s
  | .rtake x0 x1 x2 => Sys2Proof.Machine.execRtake x0 x1 x2 s
  | .rdone x0 x1 => Sys2Proof.Machine.execRdone x0 x1 s
  | .send x0 x1 x2 x3 x4 x5 => Sys2Proof.Machine.execSend x0 x1 x2 x3 x4 x5 s
  | .fget x0 x1 x2 x3 x4 => Sys2Proof.Machine.execFget x0 x1 x2 x3 x4 s
  | .dalloc x0 x1 x2 => Sys2Proof.Machine.execDalloc x0 x1 x2 s
  | .dfree x0 x1 x2 => Sys2Proof.Machine.execDfree x0 x1 x2 s
  | .live x0 x1 => Sys2Proof.Machine.execLive x0 x1 s
  | .trap x0 x1 => Sys2Proof.Machine.execTrap x0 x1 s
  | .bkpt x0 x1 => Sys2Proof.Machine.execBkpt x0 x1 s
  | .hcall x0 x1 x2 => Sys2Proof.Machine.execHcall x0 x1 x2 s
  | .qsig x0 x1 x2 x3 => Sys2Proof.Machine.execQsig x0 x1 x2 x3 s
  | .srd x0 x1 x2 => Sys2Proof.Machine.execSrd x0 x1 x2 s
  | .swr x0 x1 x2 => Sys2Proof.Machine.execSwr x0 x1 x2 s
  | .ipf x0 x1 x2 x3 => Sys2Proof.Machine.execIpf x0 x1 x2 x3 s
  | .ipin x0 x1 x2 x3 => Sys2Proof.Machine.execIpin x0 x1 x2 x3 s
  | .iunpin x0 x1 x2 x3 => Sys2Proof.Machine.execIunpin x0 x1 x2 x3 s
  | .halfNopLow x0 => Sys2Proof.Machine.execHalfNopLow x0 s
  | .halfIadd x0 => Sys2Proof.Machine.execHalfIadd x0 s
  | .halfIsub x0 => Sys2Proof.Machine.execHalfIsub x0 s
  | .halfImul x0 => Sys2Proof.Machine.execHalfImul x0 s
  | .halfIminI32 x0 => Sys2Proof.Machine.execHalfIminI32 x0 s
  | .halfImaxI32 x0 => Sys2Proof.Machine.execHalfImaxI32 x0 s
  | .halfIminN32 x0 => Sys2Proof.Machine.execHalfIminN32 x0 s
  | .halfImaxN32 x0 => Sys2Proof.Machine.execHalfImaxN32 x0 s
  | .halfShl x0 => Sys2Proof.Machine.execHalfShl x0 s
  | .halfShr x0 => Sys2Proof.Machine.execHalfShr x0 s
  | .halfSra x0 => Sys2Proof.Machine.execHalfSra x0 s
  | .halfAnd x0 => Sys2Proof.Machine.execHalfAnd x0 s
  | .halfOr x0 => Sys2Proof.Machine.execHalfOr x0 s
  | .halfXor x0 => Sys2Proof.Machine.execHalfXor x0 s
  | .halfMov x0 => Sys2Proof.Machine.execHalfMov x0 s
  | .halfNopHigh x0 => Sys2Proof.Machine.execHalfNopHigh x0 s
  | .halfFadd x0 => Sys2Proof.Machine.execHalfFadd x0 s
  | .halfFsub x0 => Sys2Proof.Machine.execHalfFsub x0 s
  | .halfFmul x0 => Sys2Proof.Machine.execHalfFmul x0 s
  | .halfFmin x0 => Sys2Proof.Machine.execHalfFmin x0 s
  | .halfFmax x0 => Sys2Proof.Machine.execHalfFmax x0 s
  | .halfHadd2F16 x0 => Sys2Proof.Machine.execHalfHadd2F16 x0 s
  | .halfHsub2F16 x0 => Sys2Proof.Machine.execHalfHsub2F16 x0 s
  | .halfHmul2F16 x0 => Sys2Proof.Machine.execHalfHmul2F16 x0 s
  | .halfHmin2F16 x0 => Sys2Proof.Machine.execHalfHmin2F16 x0 s
  | .halfHmax2F16 x0 => Sys2Proof.Machine.execHalfHmax2F16 x0 s
  | .halfHadd2B16 x0 => Sys2Proof.Machine.execHalfHadd2B16 x0 s
  | .halfHsub2B16 x0 => Sys2Proof.Machine.execHalfHsub2B16 x0 s
  | .halfHmul2B16 x0 => Sys2Proof.Machine.execHalfHmul2B16 x0 s
  | .halfHmin2B16 x0 => Sys2Proof.Machine.execHalfHmin2B16 x0 s
  | .halfHmax2B16 x0 => Sys2Proof.Machine.execHalfHmax2B16 x0 s
  | .clauseHeader x0 x1 x2 x3 => Sys2Proof.Machine.execClauseHeader x0 x1 x2 x3 s
  | .classLCompletion x0 x1 => Sys2Proof.Machine.execClassLCompletion x0 x1 s
  | .sleepEnd x0 x1 x2 => Sys2Proof.Machine.execSleepEnd x0 x1 x2 s
  | .registerSpill x0 => Sys2Proof.Machine.execRegisterSpill x0 s
  | .feGrant x0 x1 => Sys2Proof.Machine.execFeGrant x0 x1 s
  | .operandLogReplay x0 x1 => Sys2Proof.Machine.execOperandLogReplay x0 x1 s
  | .differenceRecord x0 => Sys2Proof.Machine.execDifferenceRecord x0 s
  | .forcedPublication x0 x1 => Sys2Proof.Machine.execForcedPublication x0 x1 s
  | .hostWrite x0 x1 => Sys2Proof.Machine.execHostWrite x0 x1 s
  | .doorbell x0 x1 => Sys2Proof.Machine.execDoorbell x0 x1 s
  | .queueEnable x0 x1 => Sys2Proof.Machine.execQueueEnable x0 x1 s
  | .queueDrain x0 => Sys2Proof.Machine.execQueueDrain x0 s
  | .drainComplete x0 => Sys2Proof.Machine.execDrainComplete x0 s
  | .teardown x0 => Sys2Proof.Machine.execTeardown x0 s
  | .reset x0 => Sys2Proof.Machine.execReset x0 s
  | .registerWrite x0 x1 x2 => Sys2Proof.Machine.execRegisterWrite x0 x1 x2 s
  | .launch x0 => Sys2Proof.Machine.execLaunch x0 s
  | .signal x0 => Sys2Proof.Machine.execSignal x0 s
  | .waitv x0 => Sys2Proof.Machine.execWaitv x0 s
  | .waitvPoll x0 => Sys2Proof.Machine.execWaitvPoll x0 s
  | .waittime x0 => Sys2Proof.Machine.execWaittime x0 s
  | .order x0 => Sys2Proof.Machine.execOrder x0 s
  | .stampts x0 => Sys2Proof.Machine.execStampts x0 s
  | .qnop x0 => Sys2Proof.Machine.execQnop x0 s
  | .teamAdmission x0 => Sys2Proof.Machine.execTeamAdmission x0 s
  | .preemptionRequest x0 => Sys2Proof.Machine.execPreemptionRequest x0 s
  | .preemptionDeadline x0 => Sys2Proof.Machine.execPreemptionDeadline x0 s
  | .teamRestore x0 => Sys2Proof.Machine.execTeamRestore x0 s
  | .teamEnd x0 => Sys2Proof.Machine.execTeamEnd x0 s
  | .teamRetirement x0 => Sys2Proof.Machine.execTeamRetirement x0 s
  | .completionSignal x0 => Sys2Proof.Machine.execCompletionSignal x0 s
  | .itemCreation x0 => Sys2Proof.Machine.execItemCreation x0 s
  | .scratchpadCopyFault x0 x1 x2 => Sys2Proof.Machine.execScratchpadCopyFault x0 x1 x2 s
  | .binTimerExpiry x0 x1 => Sys2Proof.Machine.execBinTimerExpiry x0 x1 s
  | .binLaunch x0 x1 => Sys2Proof.Machine.execBinLaunch x0 x1 s
  | .copyCompletion x0 x1 => Sys2Proof.Machine.execCopyCompletion x0 x1 s
  | .copyFault x0 x1 => Sys2Proof.Machine.execCopyFault x0 x1 s
  | .matrixCommandStart x0 x1 => Sys2Proof.Machine.execMatrixCommandStart x0 x1 s
  | .matrixCommandCompletion x0 x1 => Sys2Proof.Machine.execMatrixCommandCompletion x0 x1 s
  | .matrixFault x0 x1 => Sys2Proof.Machine.execMatrixFault x0 x1 s
  | .reservationFree x0 x1 => Sys2Proof.Machine.execReservationFree x0 x1 s
  | .ringGrant x0 x1 => Sys2Proof.Machine.execRingGrant x0 x1 s
  | .barrierWatchdog x0 x1 => Sys2Proof.Machine.execBarrierWatchdog x0 x1 s
  | .ringWatchdog x0 x1 => Sys2Proof.Machine.execRingWatchdog x0 x1 s
  | .feWatchdog x0 x1 => Sys2Proof.Machine.execFeWatchdog x0 x1 s
  | .halt x0 => Sys2Proof.Machine.execHalt x0 s
  | .resume x0 => Sys2Proof.Machine.execResume x0 s
  | .capsel x0 => Sys2Proof.Machine.execCapsel x0 s
  | .contextTeardown x0 x1 => Sys2Proof.Machine.execContextTeardown x0 x1 s
  | .contextTeardownDone x0 => Sys2Proof.Machine.execContextTeardownDone x0 s
  | .contextValidate x0 x1 => Sys2Proof.Machine.execContextValidate x0 x1 s
  | .shootdown x0 => Sys2Proof.Machine.execShootdown x0 s
  | .shootdownDone => Sys2Proof.Machine.execShootdownDone s
  | .migrationWindowReset => Sys2Proof.Machine.execMigrationWindowReset s
  | .pageMigration x0 => Sys2Proof.Machine.execPageMigration x0 s
  | .beaconTimer => Sys2Proof.Machine.execBeaconTimer s
  | .put x0 x1 => Sys2Proof.Machine.execPut x0 x1 s
  | .getreq x0 x1 => Sys2Proof.Machine.execGetreq x0 x1 s
  | .getdata x0 x1 x2 => Sys2Proof.Machine.execGetdata x0 x1 x2 s
  | .ack x0 x1 => Sys2Proof.Machine.execAck x0 x1 s
  | .nack x0 x1 x2 x3 => Sys2Proof.Machine.execNack x0 x1 x2 x3 s
  | .team x0 x1 => Sys2Proof.Machine.execTeam x0 x1 s
  | .teamend x0 x1 x2 x3 => Sys2Proof.Machine.execTeamend x0 x1 x2 x3 s
  | .beacon x0 x1 => Sys2Proof.Machine.execBeacon x0 x1 s
  | .unknownMessage x0 x1 => Sys2Proof.Machine.execUnknownMessage x0 x1 s
  | .sendAckTimeout x0 x1 => Sys2Proof.Machine.execSendAckTimeout x0 x1 s
  | .portDown x0 => Sys2Proof.Machine.execPortDown x0 s
  | .dieLinkLoss x0 => Sys2Proof.Machine.execDieLinkLoss x0 s
  | .pcieWindowRequest x0 x1 => Sys2Proof.Machine.execPcieWindowRequest x0 x1 s
  | .auditReexecution x0 x1 x2 x3 => Sys2Proof.Machine.execAuditReexecution x0 x1 x2 x3 s
  | .auditThirdRun x0 x1 x2 x3 => Sys2Proof.Machine.execAuditThirdRun x0 x1 x2 x3 s
  | .suspicionHalving => Sys2Proof.Machine.execSuspicionHalving s
  | .clusterSubstitution x0 x1 => Sys2Proof.Machine.execClusterSubstitution x0 x1 s
  | .scrub x0 x1 => Sys2Proof.Machine.execScrub x0 x1 s
  | .bankDrop x0 x1 x2 => Sys2Proof.Machine.execBankDrop x0 x1 x2 s
  | .restripeRegion x0 => Sys2Proof.Machine.execRestripeRegion x0 s
  | .powerWindow x0 x1 x2 => Sys2Proof.Machine.execPowerWindow x0 x1 x2 s
  | .fatalError x0 x1 => Sys2Proof.Machine.execFatalError x0 x1 s
  | .bringUp x0 => Sys2Proof.Machine.execBringUp x0 s
  | .warmReset => Sys2Proof.Machine.execWarmReset s
  | .mailboxRequest x0 x1 => Sys2Proof.Machine.execMailboxRequest x0 x1 s
  | .powerCap x0 => Sys2Proof.Machine.execPowerCap x0 s
  | .firmwareUpdate x0 x1 => Sys2Proof.Machine.execFirmwareUpdate x0 x1 s
  | .getVersion x0 => Sys2Proof.Machine.execGetVersion x0 s
  | .getCapabilities x0 => Sys2Proof.Machine.execGetCapabilities x0 s
  | .negotiateAlgorithms x0 => Sys2Proof.Machine.execNegotiateAlgorithms x0 s
  | .getDigests x0 => Sys2Proof.Machine.execGetDigests x0 s
  | .getCertificate x0 => Sys2Proof.Machine.execGetCertificate x0 s
  | .challenge x0 x1 => Sys2Proof.Machine.execChallenge x0 x1 s
  | .getMeasurements x0 x1 => Sys2Proof.Machine.execGetMeasurements x0 x1 s
  | .unsupportedRequest x0 x1 => Sys2Proof.Machine.execUnsupportedRequest x0 x1 s
  | .i3cSensorRead x0 x1 => Sys2Proof.Machine.execI3cSensorRead x0 x1 s
  | .hostPreemption x0 => Sys2Proof.Machine.execHostPreemption x0 s
  | .mainPowerLoss => Sys2Proof.Machine.execMainPowerLoss s
  | .linkLevelRetry x0 x1 => Sys2Proof.Machine.execLinkLevelRetry x0 x1 s
  | .flitResend x0 x1 => Sys2Proof.Machine.execFlitResend x0 x1 s
  | .portRetrain x0 => Sys2Proof.Machine.execPortRetrain x0 s
  | .spilledRegisterFetch x0 x1 x2 => Sys2Proof.Machine.execSpilledRegisterFetch x0 x1 x2 s

end Sys2Proof.Machine
end

