-- ==== Sys2Proof/Machine/Issue.lean ====
section
/-! DEFINITION. Choosing and issuing a word (R18, R54, R55, R142, R319): where a thread would issue next (R58, R60), the checks
of R69 in their order, the registers and storage a word needs (R80, R81, R86, R363), its passes, copy faults (R295), soft
errors (R284, R365, R372), and what an issue leaves behind. -/
namespace Sys2Proof.Machine

/-- The state an outcome answers. -/
def took (o : Out) (s : State) : State := match o with | .next t => t | _ => s

/-- Whether a role may issue an opcode (R68). -/
def roleOk (op role : Nat) : Bool :=
  role == 3 || !((0xC0 ≤ op && op ≤ 0xC6 && role != 0) || (0xD0 ≤ op && op ≤ 0xD6 && role != 1))
/-- The checks of orders 2 to 4 and 6 on a word in a clause (R53, R59, R64, R68, R69): the cause of the trap, or the
instruction, or the two halves, with YLD and GAP. -/
def wordCheck (role budget left : Nat) (w : W64) : Except Nat (List Instr × Bool × Nat) :=
  let op := (fld w 55 8).toNat
  let excess (t : OpTab) : Bool := (t.vnames ++ t.vwrites).any fun r => decide (budget ≤ r)
  if !w.msb && (op == 0xFF || (0x50 ≤ op && op ≤ 0x55 && left != 1)) then .error 3
  else match decode w with
  | .bad .illclause => .error 3
  | .bad .illpair => .error 2
  | .bad .illop => .error 1
  | .one i =>
    match i.tab with
    | none => .error 1
    | some t => if excess t then .error 1 else if !roleOk op role then .error 5 else .ok ([i], t.ctl.yld, t.ctl.gap.toNat)
  | .pair lo hi y =>
    if (lo.tab.map excess).getD false || (hi.tab.map excess).getD false then .error 1 else .ok ([lo, hi], y, 0)

/-- A half as written. -/
def halfArg (i : Instr) : Option Half := i.half.map (·.2)
/-- The lanes an instruction of the issue runs in: the threads whose guard holds. -/
def State.lanesFor (s : State) (i : Instr) : W32 :=
  match halfArg i with
  | some h => s.hactive h
  | none => match i.tab with | some t => s.active t.ctl | none => 0
/-- Class-L words that make no access, which issue past a fence (R231). -/
def noAccess (i : Instr) : Bool :=
  match i with
  | .fence .. | .pref .. | .cpycan .. | .obres .. | .obrel .. | .mzero .. | .mready .. | .freeze .. | .stamp .. | .spawn .. | .tdrop ..
  | .tinfo .. | .barArv .. | .barArr .. | .barExp .. | .racq .. | .rtake .. | .rpub .. | .rdone .. | .ipf .. | .ipin .. | .iunpin .. => true
  | _ => false
/-- Words that are a release by themselves (R190): what their threads have written before is performed first (R200, R231). -/
def releases (i : Instr) : Bool :=
  match i with
  | .fence _ o _ => relOrd o | .barArv .. => true | .barArr .. => true | .barExp .. => true | .rpub .. => true | .rdone .. => true
  | _ => false
/-- The first byte and the length of what a lane of a load reads of global memory; a scratchpad load, nothing. -/
def State.readsAt (s : State) (i : Instr) (l : Nat) : Option (Nat × Nat) :=
  match i with
  | .ld _ _ a b sz _ _ is => some (s.vaddr a b is l, Size.bytes sz)
  | .lda _ _ a b w _ is => some (s.vaddr a b is l, if w then 8 else 4)
  | .lds .. => some (0, 0)
  | _ => none
/-- Whether a word's lanes only load, and nothing that a STREL under way has yet to write in the same lane: it may be performed before
that write (R190, R192, R402). Places in a page are compared, so that no other address of the same bytes is missed (DEDUCED, log 14). -/
def State.passes (s : State) (i : Instr) (act : W32) (ws : List RelWrite) : Bool :=
  (lanesOf act).all fun l => match s.readsAt i l with
    | none => false
    | some (va, n) => ws.all fun w => w.lane != l || decide (va % 4096 + n ≤ w.va % 4096) || decide (w.va % 4096 + w.bytes.length ≤ va % 4096)
/-- Whether what a group has outstanding lets a word issue in some lanes (R86, R190, R231, R363): its registers are there, no word
of the group is logged if it is of class L, and no release of its threads is under way if it makes an access, unless it is a load of
other bytes and the release a STREL; one whose write is not performed yet is waited for by a word that releases, too (log 14). -/
def State.ready (s : State) (core slot : Nat) (g : Group) (i : Instr) : Bool :=
  match i.tab with
  | none => false
  | some t =>
    let k := s.core core
    let vs := t.vreads ++ t.vwrites ++ t.killed
    let ss := t.sreads ++ t.swrites
    let ov := k.owedV slot
    let os := k.owedS slot
    let act := s.lanesFor i
    vs.all (fun r => !ov.contains r) && ss.all (fun r => !os.contains r)
      && (t.lat != .l || ((k.logOf slot).isEmpty
        && (k.opsOf slot).all fun o => (match o.kind with
          | .release ws .. => o.lanes &&& act == 0 || noAccess i && (ws.isEmpty || !releases i) || !ws.isEmpty && s.passes i act ws
          | _ => true)))
/-- The pools in which some spilled registers of a group want room to come back (R81). -/
def State.fetchLacks (s : State) (core : Nat) (g : Group) (rs : List Nat) : Bool × Bool :=
  (rs.filterMap (aget g.spilled)).foldl (fun m v => eachOf m (s.lacks core [v.code])) (false, false)
/-- The lanes of its destinations that a word writes: a broadcast and the engine write every lane, a lane insert one (R131, R247,
R268, R295). -/
def lanesWritten (i : Instr) (act : W32) : W32 :=
  match i with | .vbcast .. => allOnes32 | .mloop .. => allOnes32 | .mzero .. => allOnes32 | .vlane .. => 1 | _ => act
/-- Registers an instruction will write that its group still shares with a template, and whether some lane keeps its value (R295). -/
def State.copyFaults (s : State) (g : Group) (i : Instr) : List (Nat × Bool) :=
  let act := s.lanesFor i
  if act == 0 then []
  else match i.tab with
    | some t => (t.vwrites.filter g.shared.contains).map fun r => (r, lanesWritten i act != allOnes32)
    | none => []
/-- The quadrant cycles and the passes of a word with n active lanes (R18, R54): scalar words run in one pass, a special-function
pass takes a cycle for each four lanes. A scalar word without an active lane, SSEL's included, takes its cycle and runs no pass of
the datapath (R18, R132; DESIGN CHOICE, log 83). -/
def wordCycles (lat : Lat) (scalar : Bool) (n : Nat) : Nat × Nat :=
  if scalar then (1, min n 1)
  else if lat == .sf then (max 1 (n / 16 * 4 + (n % 16 + 3) / 4), (n + 15) / 16)
  else (max 1 ((n + 15) / 16), (n + 15) / 16)
/-- The scalar class: one pass (R52, R84). -/
def scalarWord (i : Instr) : Bool :=
  match i with
  | .sld .. | .sst .. => true
  | i => match i.tab with | some t => t.lat == .s | none => false
/-- Whether a word takes no storage as it issues: what the matrix engine writes is the engine's to find (R247, R250). -/
def lateStore (i : Instr) : Bool := match i with | .mloop .. => true | .mzero .. => true | .mready .. => true | _ => false

/-- A line gone from a core's instruction caches and its L1 data cache, to be filled again (R188); a pinned code line is filled
again where it is pinned (R178). -/
def Core.refill (k : Core) (line : Nat) : Core :=
  let stays (x : ICLine) : Bool := x.va != line || x.pin
  { k with l1 := adel k.l1 line, l1i := k.l1i.filter stays, l0i := k.l0i.map fun l => l.filter (·.va != line) }
/-- Eight bytes of a memory that have become uncorrectable, listed once (R188). -/
def hurtAt (l : List Nat) (a : Nat) : List Nat := let u := a - a % 8; if l.contains u then l else u :: l
/-- What a soft error makes of an issue (R188, R346, R365, R372): `before` as the word issued, `after` as it would end. -/
def State.upset (before after : State) (u : Upset) : State :=
  let c := before.cur
  match u with
  | .none => after
  | .soft => after
  | .own _ => after
  | .retried => after.countCore c.core 0x109
  | .mismatch scalar mask =>
    let s := before.suspect (before.physOf c.core) 256 1
    s.trapW 0x0F c.mask 0 (if scalar then 2 else 0) mask.toNat
  | .uce place => (before.countDie (dieOf c.core) 0x111).trapW 0x0E c.mask 0 place 0
  | .corrected die => after.countDie die 0x110
  | .refill core line => (after.updCore core (·.refill line)).countDie (dieOf core) 0x111
  | .scratch team off =>
    if (aget after.teams team).isNone then after
    else (after.updTeam team fun t => { t with scPoison := hurtAt t.scPoison off }).countDie (after.team team).die 0x111
  | .operand core off => (after.updCore core fun k => { k with obPoison := hurtAt k.obPoison off }).countDie (dieOf core) 0x111
  | .l2 die pa => (after.updDie die fun d => { d with l2Poison := hurtAt d.l2Poison pa }).countDie die 0x111
  | .twin die pa =>
    match aget (after.die die).twins (lineOf pa) with
    | none => after
    | some w => (after.updDie die fun d => { d with twins := aset d.twins (lineOf pa) { w with hurt := hurtAt w.hurt (pa % 128) } }).countDie die 0x111
  | .engine core op tile reg =>
    match after.op? core op with
    | some o =>
      (match o.kind with
      | .matrix m => (after.updOp core op fun o => { o with kind := .matrix { m with hurt := (tile, reg) :: m.hurt } }).countDie (dieOf core) 0x111
      | _ => after)
    | none => after
  | .log => after
/-- The next soft error struck at an issue (log 30). One of an access, of an ownership entry, or of a logged word's entry waits for the
word that makes such an access, or for the replay (R284, R362, R365). -/
def State.struck (before after : State) : State :=
  match before.upsets with
  | [] => after
  | .soft :: _ => if after.cur.soft then after else after.tookUpset
  | .log :: _ => after
  | .own _ :: _ =>
    let g := before.g
    let o : POp := { id := 0, slot := 0, tag := 0, pc := 0, lanes := 0, team := g.team, launch := before.tm.launch, kind := .ready }
    (match before.ownMiss o after with | some line => before.ownUpset line | none => after)
  | u :: _ => State.upset before.tookUpset after.tookUpset u

/-- The end of an issue (R54, R55, R319, R346): its counts, when its quadrant is free and its group may issue again. Where no word
has issued, its fetch, its header or its decoding having trapped, only the turn is over (log 75). The groups of its quadrant that a
YLD kept back for this choice are behind no longer (R55). Templates that the word has left without references are freed (R299). -/
def State.issued (s : State) (core slot quad words last passes gap : Nat) (yld : Bool) : State :=
  let s := if words == 0 then s else (s.countCore core 0x106 words).countCore core 0x107 passes
  let free (p : Nat × Group) : Nat × Group := if p.2.quad == quad && p.2.behind then (p.1, { p.2 with behind := false }) else p
  let s := s.updCore core fun k => { k with busy := lset k.busy quad fun _ => last + 1, slots := k.slots.map free }
  let s := s.updGroup core slot fun g => { g with lastIssue := last, yielded := yld, behind := yld, nextIssue := last + 1 + gap }
  { s.sweep with cur := {} }

/-- That a word cannot issue, whatever storage is free. -/
def notNow : Except (Bool × Bool) (Bool × State) := .error (false, false)
/-- The word at a PC of a slot's group issued. An error names the pools of the register store that are wanting, and no other thing is; none,
when it cannot issue. The flag of an answer is false where the group has only paid for its register copies (R295). What the halves of
a pair kill goes with the guard of each half: one that runs in no lane kills nothing (R65, R79; DESIGN CHOICE, log 81). -/
def State.tryWord (s : State) (core slot pc left : Nat) : Except (Bool × Bool) (Bool × State) :=
  let g := s.group core slot
  let now := s.now core
  let mask := maskOf fun l => s.position core g (g.thread l) == some (pc, left)
  match s.fetch core g.quad (s.team g.team).ctx pc with
  | (_, .error none) => notNow
  | (s', r) =>
    let w : W64 := match r with | .ok w => w | .error _ => 0
    let cur : Cur := { active := true, core, slot, pc, mask, first := now, last := now, word := w }
    let s1 : State := { s' with cur }
    let trapped (t : State) : Except (Bool × Bool) (Bool × State) := .ok (true, t.issued core slot g.quad 0 now 0 0 false)
    match r with
    | .error (some (c, x0, x1)) => trapped (s1.trapW c mask (sext57 pc).toNat x0 x1)
    | _ =>
      if left == 0 then
        match isHeader w with
        | some (.clauseHeader a b c d) => trapped (took (execClauseHeader a b c d s1) s1)
        | _ => trapped (s1.trapW 3 mask 0 w.toNat 0)
      else
        let atHeader := maskOf fun l => mask.getLsbD l && (g.thread l).left == 0
        let hpc := (pc + 0x200000000000000 - 8) % 0x200000000000000
        let s2 : State := if atHeader == 0 then s1
          else match s1.fetch core g.quad (s.team g.team).ctx hpc with
          | (t, .ok h) =>
            (match isHeader h with
            | some (.clauseHeader a b c d) =>
              let t : State := { t with cur := { cur with pc := hpc, mask := atHeader } }
              { took (execClauseHeader a b c d t) t with cur }
            | _ => s1)
          | _ => s1
        match wordCheck g.role g.budget left w with
        | .error c => trapped (s2.trapW c mask 0 w.toNat 0)
        | .ok (is, yld, gap) =>
          let away := (is.flatMap (s2.spillNeeds g)).filter fun r => (aget g.spilled r).isSome
          if !(is.all (s2.ready core slot g)) then notNow
          else if !away.isEmpty then .error (s2.fetchLacks core g away)
          else
            let faults := is.flatMap (s2.copyFaults g)
            if !faults.isEmpty then
              let t := (s.countCore core 0x101 faults.length).updGroup core slot fun g => { g with
                shared := g.shared.filter fun r => !(faults.any (·.1 == r))
                nextIssue := now + (if faults.any (·.2) then 2 else 1) }
              let short := s.lacks core (s.taken t core slot)
              if either short then .error short else .ok (false, t.sweep)
            else
              let act := is.foldl (fun m i => m ||| s2.lanesFor i) 0
              let lat := match is with | [i] => (i.tab.map (·.lat)).getD .i | _ => .i
              let (cycles, passes) := wordCycles lat (match is with | [i] => scalarWord i | _ => false) (laneCount act)
              let last := now + cycles - 1
              let s3 : State := { s2 with cur := { cur with last, soft := s.upsets.head? == some .soft } }
              let t := is.foldl (fun t i => took (exec i t) t) s3
              if t.cur.stall then notNow
              else if t.cur.hold then .ok (false, { t.updGroup core slot fun h => { h with threads := g.threads } with cur := {} })
              else
                let t := match is with
                  | [lo, hi] => t.updGroup core slot fun g =>
                    let ks := ([lo, hi].flatMap fun i => if s3.lanesFor i == 0 then [] else (i.tab.map OpTab.killed).getD [])
                    let ds := [lo, hi].flatMap fun (i : Instr) => (i.tab.map OpTab.vwrites).getD []
                    ((ks.filter fun r => !ds.contains r).foldl Group.kill g).updThreads mask Thread.past
                  | _ => t
                let short := if is.any lateStore then (false, false) else s.lacks core (s.taken t core slot)
                if either short then .error short
                else
                  let dests := is.flatMap fun (i : Instr) => if s3.lanesFor i == 0 then [] else (i.tab.map OpTab.vwrites).getD []
                  let t : State := { s3.struck t with cur := {} }
                  let t := t.updGroup core slot fun h =>
                    if h.alloc == g.alloc then { h with recent := (dests :: g.recent).take 8, stop := none } else h
                  .ok (true, t.issued core slot g.quad 1 last passes gap yld)

/-- Whether a group has trapped on the way from one state to the next: its core has recorded it, or the run of an audit has stopped (R345,
R350). -/
def State.trapsIn (s t : State) (core slot : Nat) : Bool :=
  let team := (s.group core slot).team
  (t.pcore (s.physOf core)).seq != (s.pcore (s.physOf core)).seq
    || (s.team team).rerun.any (!·.trapped) && (t.team team).rerun.any (·.trapped)
/-- The group of a slot issues at a PC. A word that traps waits until no earlier word of the group is logged, whose replay may find a trap
that comes before it (R365). -/
def State.tryIssue (s : State) (core slot pc left : Nat) : Except (Bool × Bool) (Bool × State) :=
  match s.tryWord core slot pc left with
  | .ok (b, t) => if !((s.core core).logOf slot).isEmpty && s.trapsIn t core slot then notNow else .ok (b, t)
  | e => e

/-- The positions of a slot's runnable threads; that alone at which a full operand log has stopped the group (R364). -/
def State.positions (s : State) (core slot : Nat) : List (Nat × Nat) :=
  let g := s.group core slot
  let ps := (g.threads.filterMap (s.position core g)).eraseDups
  match g.stop with | some p => if ps.contains p then [p] else ps | none => ps
/-- Whether a slot's group may issue at all: resident, not halted (R369), not being saved, past its GAP. -/
def State.mayIssue (s : State) (core slot : Nat) : Bool :=
  match s.group? core slot with
  | none => false
  | some g =>
    let t := s.team g.team
    t.st == .resident && !t.halted && !g.saved && g.saveRec.isNone
/-- An issue that leaves to what is older the storage it waits for (R80). -/
def State.tryBehind (s : State) (core slot : Nat) (older : Bool × Bool) (p : Nat × Nat) : Except (Bool × Bool) (Bool × State) :=
  match s.tryIssue core slot p.1 p.2 with
  | .ok (b, t) =>
    let mine := if either older then bothOf older (s.asks core (s.taken t core slot)) else (false, false)
    if either mine then .error mine else .ok (b, t)
  | e => e
/-- The slots of a core whose groups wait on allocation, oldest first, with the pools they wait for: some PC lacks storage alone, for
its word or for a spilled register that it reads, and none can issue. Free storage is granted to groups and matrix commands oldest
first (R80, R81, R247). -/
def State.waiters (s : State) (core : Nat) : List (Nat × Bool × Bool) :=
  (sortBy (fun (a b : Nat × Group) => a.2.alloc ≤ b.2.alloc) (s.core core).slots).foldl (fun l p =>
    let older := (l.map (·.2)).foldl eachOf (s.matWants core p.2.alloc, false)
    let rs := (s.positions core p.1).map (s.tryBehind core p.1 older)
    let none_ := rs.all fun r => match r with | .ok _ => false | .error _ => true
    let short := rs.foldl (fun m r => match r with | .error e => eachOf m e | .ok _ => m) (false, false)
    if s.mayIssue core p.1 && none_ && either short then l ++ [(p.1, short)] else l) []
/-- Whether a store is all but full: no word needs more than four entries. -/
def State.tight (s : State) (core : Nat) : Bool :=
  let u := s.storeUse core
  decide (Config.generalEntries < u.1 + 4) || decide (Config.compactEntries < u.2 + 4)
/-- The pools for which something older than a group of the core waits (R80). -/
def State.olderWaits (s : State) (core slot : Nat) : Bool × Bool :=
  let al := (s.group core slot).alloc
  let ws := if s.tight core then (s.waiters core).filter fun k => decide ((s.group core k.1).alloc < al) else []
  (ws.map (·.2)).foldl eachOf (s.matWants core al, false)
/-- An issue that also leaves storage to older groups (R80). -/
def State.tryTurn (s : State) (core slot : Nat) (p : Nat × Nat) : Except (Bool × Bool) (Bool × State) := s.tryBehind core slot (s.olderWaits core slot) p
/-- Turns waited, by the threads at a position. -/
def Group.ageAt (g : Group) (s : State) (core : Nat) (p : Nat × Nat) : Nat :=
  g.threads.foldl (fun m t => if s.position core g t == some p then max m t.age else m) 0
/-- The threads at a position. -/
def Group.countAt (g : Group) (s : State) (core : Nat) (p : Nat × Nat) : Nat :=
  (g.threads.filter fun t => s.position core g t == some p).length
/-- Whether position a is preferred to b (R18): those that have waited 256 turns first, by PC; then the most threads, then the
lowest PC. PCs whose waits reached 256 in different turns and stand together are taken by PC too (DESIGN CHOICE, log 61). -/
def Group.prefers (g : Group) (s : State) (core : Nat) (a b : Nat × Nat) : Bool :=
  let old (p : Nat × Nat) : Bool := decide (256 ≤ g.ageAt s core p)
  let n (p : Nat × Nat) : Nat := g.countAt s core p
  if old a && old b then a.1 ≤ b.1
  else if old a || old b then old a
  else n b < n a || (n a == n b && a.1 ≤ b.1)
/-- A turn taken: where, whether the word issued or its group only paid for register copies, and what it leaves. -/
structure Pick where
  core : Nat
  slot : Nat
  at_ : Nat × Nat
  issued : Bool
  after : State
/-- The positions of a group in the order in which it prefers them (R18). -/
def State.ranked (s : State) (core slot : Nat) : List (Nat × Nat) :=
  sortBy ((s.group core slot).prefers s core) (s.positions core slot)
/-- The turn of a slot's group: the preferred PC whose word can issue (R18, R142). -/
def State.groupPick (s : State) (core slot : Nat) : Option Pick :=
  if !s.mayIssue core slot || decide (s.now core < (s.group core slot).nextIssue) then none
  else (s.ranked core slot).findSome? fun p => match s.tryTurn core slot p with
    | .ok (b, t) => some { core, slot, at_ := p, issued := b, after := t }
    | .error _ => none
/-- A quadrant's choice: the ready group whose last issue is oldest, one that yielded last among the equally old, then the lower
slot; a group whose YLD the quadrant has made no choice since comes behind every other (R55, R319). -/
def State.quadPick (s : State) (core q : Nat) : Option Pick :=
  let k := s.core core
  if s.now core < k.busy.getD q 0 then none
  else
    let before (a b : Nat × Group) : Bool :=
      if a.2.behind != b.2.behind then b.2.behind
      else decide (a.2.lastIssue < b.2.lastIssue) || (a.2.lastIssue == b.2.lastIssue
        && ((!a.2.yielded && b.2.yielded) || (a.2.yielded == b.2.yielded && decide (a.1 ≤ b.1))))
    let gs := sortBy before
      (k.slots.filter (·.2.quad == q))
    gs.findSome? fun p => s.groupPick core p.1
/-- The next issue of this cycle, cores and quadrants taken in order (log 19). -/
def State.nextPick (s : State) : Option Pick :=
  s.cores.findSome? fun c => if c.2.slots.isEmpty then none else [0, 1, 2, 3].findSome? fun q => s.quadPick c.1 q
/-- What an issue leaves: threads at other PCs that could have been chosen grow older, those that issued are young again (R18). -/
def State.aged (s : State) (p : Pick) : State :=
  if !p.issued then p.after
  else
    let g := s.group p.core p.slot
    let others := (s.ranked p.core p.slot).filter fun q => q != p.at_ && (match s.tryTurn p.core p.slot q with | .ok _ => true | .error _ => false)
    let lanes (q : Nat × Nat) : W32 := maskOf fun l => s.position p.core g (g.thread l) == some q
    let age (h : Group) : Group := others.foldl (fun h q => h.updThreads (lanes q) fun t => { t with age := t.age + 1 }) h
    p.after.updGroup p.core p.slot fun h => if h.alloc == g.alloc then
      (age h).updThreads (lanes p.at_) fun t => { t with age := 0 } else h
/-- The next issue and its ages. -/
def State.nextIssue (s : State) : Option State := s.nextPick.map s.aged

end Sys2Proof.Machine
end

