-- ==== Sys2Proof/Machine/Clock.lean ====
section
/-! DEFINITION. What comes next of itself: the acts whose time the spec gives, those whose time it leaves to the part, and the
clocks (R1, R142, R149, R351, R354). A step of the clock is 1/1100 of a microsecond (log 19). -/
namespace Sys2Proof.Machine

/-- Threads that wait at a WAITF whose flags are clear go on; one whose flags hold an error traps (R149), once no earlier word of the group
is logged (R365). -/
def State.waitfEnd (s : State) (core slot : Nat) : State :=
  let g := s.group core slot
  let ms := (g.threads.filterMap fun t => match t.wait with | .waitf m => some m | _ => none).eraseDups
  let lanes (m : Nat) : W32 := maskOf fun l => (g.thread l).wait == .waitf m
  (ms.findSome? fun m =>
    match s.asyncFault core slot (lanes m) m with
    | some t => if ((s.core core).logOf slot).isEmpty then some t else none
    | none =>
      if (List.range 12).any fun f => m.testBit f && (g.flag f).isSet (s.now core) then none
      else some (s.updGroup core slot fun g => g.updThreads (lanes m) fun t => { t with pc := pcMod (t.pc + 8), wait := .run })).getD s
/-- The act of a queue's head command, by its OP (R312). -/
def commandAct (q op : Nat) : State → Out :=
  match op with
  | 1 => execLaunch q | 2 => execSignal q | 3 => execWaitv q | 4 => execOrder q | 5 => execStampts q | _ => execQnop q
/-- What a FEWAIT of a core observes now (R233). -/
def watchActs (core : Nat) (o : POp) : List (State → Out) := match o.kind with | .feWait .. => [execFeGrant core o.id] | _ => []
/-- What a command of a core may be granted now (R173, R329). -/
def grantActs (core : Nat) (o : POp) : List (State → Out) :=
  match o.kind with
  | .fe .. => [execFeGrant core o.id]
  | .ring .. => [execRingGrant core o.id]
  | .copy c => if c.finished then [execRingGrant core o.id] else []
  | _ => []
/-- What a group comes to by time: expired watchdogs (R354), sleeps over (R150), WAITFs over. -/
def groupActs (s : State) (core slot : Nat) (g : Group) : List (State → Out) :=
  let d := (s.team g.team).desc.timeout
  let opOf (f : OpKind → Bool) : Nat := ((((s.core core).opsOf slot).find? fun o => f o.kind).map (·.id)).getD 0
  let bars := (g.threads.filterMap fun t => match t.wait with | .bar n _ => some n | _ => none).eraseDups
  (if d ≤ g.wdBar then bars.map fun n => execBarrierWatchdog g.team n else [])
    ++ (if d ≤ g.wdRing then [execRingWatchdog core (opOf fun k => match k with | .ring .. => true | .copy c => c.finished | _ => false)] else [])
    ++ (if d ≤ g.wdFe then [execFeWatchdog core (opOf fun k => match k with | .fe .. => true | .feWait .. => true | _ => false)] else [])
    ++ (allLanes.filterMap fun l => match (g.thread l).wait with
      | .sleep n => if n ≤ s.now core then some (execSleepEnd core slot l) else none | _ => none)
    ++ (if g.threads.any fun t => (match t.wait with | .waitf _ => true | _ => false) then [fun s => .next (s.waitfEnd core slot)] else [])
/-- What a team comes to of itself: the end of a block's copy (R296), saves and its suspension (R375, R376), its deadline, the items it
owes, its end, or that of the run of an audit (R350). -/
def teamActs (s : State) (t : Nat) (m : Team) : List (State → Out) :=
  (m.copying.map fun c => execScratchpadCopyFault t c.2.1 c.1)
    ++ (match m.preempt with
      | some d => ((s.groupsOf t).map fun g => fun (u : State) => (.next (u.trySave g.1 g.2.1) : Out))
        ++ (if d ≤ s.time.toNat then [execPreemptionDeadline t] else [])
      | none => [])
    ++ (if m.owed.isEmpty then [] else [execItemCreation t])
    ++ (if s.teamOver t then (if m.rerun.isSome then [execAuditReexecution m.launch m.index (s.physOf m.first) t, execAuditThirdRun m.launch m.index (s.physOf m.first) t] else [execTeamEnd t]) else [])
/-- The acts whose time has come, in the order in which they are taken: what FEWAITs observe, then grants, then expiries (R354). -/
def State.dueActs (s : State) : List (State → Out) :=
  let now := s.time.toNat
  (if s.later.isEmpty then [] else [fun (u : State) => (.next u.catchUp : Out)])
    ++ (s.cores.flatMap fun c => c.2.ops.flatMap (watchActs c.1))
    ++ (s.cores.flatMap fun c => c.2.ops.flatMap (grantActs c.1))
    ++ (s.dies.flatMap fun d => d.2.leaving.map fun l => fun (u : State) => (.next (u.evict d.1 l) : Out))
    ++ (s.cores.flatMap fun c => c.2.slots.flatMap fun p => groupActs s c.1 p.1 p.2)
    ++ (s.ports.flatMap fun p => p.2.outstanding.map fun e => execSendAckTimeout p.1 e.1)
    ++ (s.ports.flatMap fun p => if p.2.ends.isEmpty then [] else [fun (u : State) => (.next (u.sendEnd p.1) : Out)])
    ++ (s.mgmt.linkFails.flatMap fun l => if 3 ≤ l.2 then [execDieLinkLoss l.1] else [])
    ++ (s.cores.flatMap fun c => if 64 ≤ c.2.allocWait then [execRegisterSpill c.1] else [])
    ++ (s.cores.flatMap fun c => (c.2.resv.filter fun r => r.2.releasing && r.2.users == 0).map fun r => execReservationFree c.1 r.1)
    ++ (s.teams.flatMap fun t => teamActs s t.1 t.2)
    ++ (s.cores.flatMap fun c => c.2.bins.flatMap fun b => [execBinTimerExpiry c.1 b.1, execBinLaunch c.1 b.1])
    ++ (s.launches.flatMap fun l => if l.2.foreign.isSome then [fun (u : State) => (.next (u.foreignEnd l.1) : Out)] else [])
    ++ (s.launches.flatMap fun l => if l.2.desc.det then [execTeamRetirement l.1] else [])
    ++ (s.launches.flatMap fun l => if s.dropDue l.1 then [fun (u : State) => (.next (u.dropTmpl l.1) : Out)] else [])
    ++ (s.dies.flatMap fun d => if d.2.migRec.isSome then [fun (u : State) => (.next (u.postWaiting d.1) : Out)] else [])
    ++ (s.launches.flatMap fun l => if s.launchOver l.1 then [execCompletionSignal l.1] else [])
    ++ (s.queues.flatMap fun q => if s.drained q.1 then [execDrainComplete q.1] else [])
    ++ (s.queues.flatMap fun q => match q.2.waiting with
      | some c => (if c.late now then [execWaittime q.1] else []) ++ (if c.polled + 10 ≤ now then [execWaitvPoll q.1] else [])
      | none => [])
    ++ ([0, 1, 2, 3].flatMap fun x => match s.nextCommand x with | some (q, op) => [commandAct q op] | none => [])
    ++ (match s.nextAdmission with
      | some (_, .restore t, _) => [execTeamRestore t]
      | some (l, _, _) => [execTeamAdmission l]
      | none => [])
    ++ (s.launches.map fun l => execPreemptionRequest l.1)
    ++ ((s.pcores.filter (·.2.quarantined)).flatMap fun p =>
      let x := p.1 / 66
      ((s.die x).clmap.zipIdx.filter (·.1 == p.1 % 66)).map fun m => execClusterSubstitution x m.2)
/-- What a command of a core may come to at a time the part chooses (R86, R242, R247). -/
def opActs (core : Nat) (o : POp) : List (State → Out) :=
  match o.kind with
  | .copy c => if c.finished then [] else [execCopyCompletion core o.id, execCopyFault core o.id]
  | .matrix m => if m.started then [execMatrixCommandCompletion core o.id, execMatrixFault core o.id] else [execMatrixCommandStart core o.id]
  | .fe .. => [] | .feWait .. => [] | .ring .. => [] | .bar .. => [] | .ready => [] | .obrel _ => []
  | _ => [execClassLCompletion core o.id]
/-- Early publications, which are allowed at any time (R202). -/
def State.earlyActs (s : State) : List (State → Out) :=
  [0, 1, 2, 3].flatMap fun x => ((s.die x).twins.filter (·.2.cls == .c)).map fun w => fun s => .next (s.early x w.1)
/-- The acts whose time the spec leaves to the part. -/
def State.freeActs (s : State) : List (State → Out) :=
  (s.recs.filter s.ripe).map (fun r => execDifferenceRecord r.id)
    ++ (s.cores.flatMap fun c => c.2.ops.flatMap (opActs c.1))
    ++ (s.cores.flatMap fun c => c.2.slots.flatMap fun p => p.2.spilled.map fun r => execSpilledRegisterFetch c.1 p.1 r.1)
    ++ (if s.sdctl.getLsbD 8 then [] else [execShootdownDone])
    ++ (s.ctxs.flatMap fun c => if c.2.closing then [execContextTeardownDone c.1] else [])
    ++ (s.cores.flatMap fun c => ((c.2.opLog.map (·.slot)).eraseDups).map fun k => execOperandLogReplay c.1 k)
    ++ ([0, 1, 2, 3].flatMap fun x => if (s.die x).migq.isEmpty then [] else [execPageMigration x])
    ++ (s.hbm.flatMap fun k => if k.2.moving then [execRestripeRegion k.1] else [])
    ++ ((s.launches.filter fun l => !l.2.dooms.isEmpty).map fun l => fun (u : State) => (.next (u.endDoomed l.1) : Out))
    ++ ((s.ports.filter fun p => !p.2.up).map fun p => execPortRetrain p.1)
    ++ (match s.mgmt.pending with | some n => [execMailboxRequest n (Config.reply s.mgmt.requests)] | none => [])
    ++ s.earlyActs
/-- The first act that changes something. -/
def State.firstAct (s : State) (l : List (State → Out)) : Option State :=
  l.findSome? fun f => let t := took (f s) s; if t = s then none else some t

/-- A group at a new arithmetic cycle: results written (R84), redirections over (R137). -/
def Group.cycle (g : Group) (clk : Nat) : Group :=
  let g := g.settle clk
  { g with threads := g.threads.map fun t => match t.wait with
    | .redir n => if n ≤ clk then { t with wait := .run } else t | _ => t }
/-- A core at a new arithmetic cycle: which of its groups wait on allocation, and how long all of them have (R80, R81). -/
def State.coreCycle (s : State) (core : Nat) : State :=
  let clk := s.now core
  let s := s.updCore core fun c => { c with slots := c.slots.map fun p => (p.1, p.2.cycle clk) }
  let k := s.core core
  let ws := if s.tight core then s.waiters core else []
  let of (slot : Nat) : Bool × Bool := ((ws.find? (·.1 == slot)).map (·.2)).getD (false, false)
  let s := if ws.isEmpty && !k.slots.any (fun p => either p.2.waits) then s
    else s.updCore core fun c => { c with slots := c.slots.map fun p => (p.1, { p.2 with waits := of p.1 }) }
  if !k.slots.isEmpty && ws.length == k.slots.length then s.updCore core fun c => { c with allocWait := c.allocWait + 1 }
  else if k.allocWait == 0 then s else s.updCore core fun c => { c with allocWait := 0 }
/-- A die's clock, which counts an arithmetic cycle when its frequency has made one up (R1, R393). -/
def State.dieCycle (s : State) (x : Nat) : State :=
  let d := s.die x
  let acc := d.acc + d.mhz
  if acc < 1100 then s.updDie x fun d => { d with acc }
  else
    let s := s.updDie x fun d => { d with acc := acc - 1100, clk := d.clk + 1 }
    ((s.cores.filter fun c => dieOf c.1 == x && !c.2.slots.isEmpty).map (·.1)).foldl State.coreCycle s
/-- The watchdog counts of a group at a tick (R345, R354): one rises while a thread of the group waits so, and the end of the wait clears
it. A team halted or a group saved does not count. -/
def State.groupTick (s : State) (core : Nat) (p : Nat × Group) : Nat × Group :=
  let g := p.2
  let t := s.team g.team
  if t.halted || t.st != .resident || g.saved then p
  else
    let bar := g.threads.any fun t => (match t.wait with | .bar _ _ => true | _ => false)
    let ring := s.waitsRing core p.1 || (s.cpyinWaits core g).isSome
    (p.1, { g with wdBar := if bar then g.wdBar + 1 else g.wdBar, wdRing := if ring then g.wdRing + 1 else g.wdRing
                   wdFe := if s.waitsFe core p.1 then g.wdFe + 1 else g.wdFe })
/-- The end of a tick (R351) and the next (R345): %time, watchdogs, and what falls on multiples of it (R277, R322). -/
def State.tick (s : State) : State :=
  let s := took (execSuspicionHalving s.refunds) s.refunds
  let s : State := { s with time := s.time + 1, mgmt := { s.mgmt with halved := false } }
  let s : State := { s with cores := s.cores.map fun c => (c.1, { c.2 with slots := c.2.slots.map (s.groupTick c.1) }) }
  let s := took (execMigrationWindowReset s) s
  if s.mgmt.stopped || !s.mgmt.ready then s else took (execBeaconTimer s) s
/-- A step of the clock: the four dies, and every eleventh time a tick. -/
def State.advance (s : State) : State :=
  let t := if s.mgmt.stopped || !s.mgmt.ready then s else [0, 1, 2, 3].foldl State.dieCycle s
  if s.phase < 10 then { t with phase := s.phase + 1, time := s.time }
  else { ({ t with time := s.time } : State).tick with phase := 0, time := s.time + 1 }

/-- Whether an instruction is an event: it has no word. -/
def isEvent (i : Instr) : Bool := i.tab.isNone && !(match i with | .clauseHeader .. => true | _ => false)
/-- The events of power and resets, and those the management subsystem takes after a fatal stop or a failed bring-up (R381, R391). -/
def isReset (i : Instr) : Bool := match i with | .bringUp _ => true | .warmReset => true | _ => false
def isPower (i : Instr) : Bool := match i with | .bringUp _ => true | _ => false
def isMgmt (i : Instr) : Bool :=
  match i with
  | .bringUp _ => true | .warmReset => true | .mainPowerLoss => true | .mailboxRequest _ _ => true | .getVersion _ => true
  | .getCapabilities _ => true | .negotiateAlgorithms _ => true | .getDigests _ => true | .getCertificate _ => true
  | .challenge _ _ => true | .getMeasurements _ _ => true | .unsupportedRequest _ _ => true | .i3cSensorRead _ _ => true
  | .powerCap _ => true
  | _ => false
/-- Window offsets whose write may make the device write memory at once: QCFG, and the doorbells (R308, R310). -/
def writesMemory (off : Nat) : Bool :=
  let o := off - off % 8
  decide (0x100000 ≤ o && o < 0x110000 && (o % 64 == 0x08 || o % 64 == 0x18)) || decide (0x800000 ≤ o && o < 0xC00000)
/-- Events that wait: messages, and the host's writes that make the device write, while accesses are delayed (R238, R277, R287) or a twin
might find no room (R184); a halving for the end of its tick, which then comes at once (R351). -/
def State.holds (s : State) (i : Instr) : Bool :=
  s.mgmt.halved || (match i with
    | .put _ _ => (s.delays || s.jams) && !s.mgmt.stopped
    | .getreq _ _ => s.delays && !s.mgmt.stopped
    | .getdata _ _ _ => (s.delays || s.jams) && !s.mgmt.stopped
    | .doorbell _ _ => s.delays && !s.mgmt.stopped
    | .queueEnable _ _ => s.delays && !s.mgmt.stopped
    | .registerWrite off _ _ => s.delays && !s.mgmt.stopped && writesMemory off
    | .suspicionHalving => s.time.toNat % 1048576 == 0 && decide (s.phase < 10)
    | _ => false)
/-- An act of the device leaves the clock where it is: %time rises at the tick alone (R345). -/
def State.inTime (s t : State) : State := { t with phase := s.phase, time := s.time }
/-- What the part does of itself: an act that is due, else an issue, else an act whose time is free, or the clock (log 19). -/
def State.onward (s : State) : State :=
  if s.mgmt.stopped || !s.mgmt.ready || s.mgmt.halved then s.advance
  else match s.firstAct s.dueActs with
  | some t => s.inTime t
  | none =>
    match s.nextIssue with
    | some t => s.inTime t
    | none =>
      let l := s.freeActs.filterMap fun f => let t := took (f s) s; if t = s then none else some t
      if l.isEmpty then s.advance
      else match l[Config.choice s.freeCtr % (l.length + 1)]? with
      | some t => s.inTime { t with freeCtr := t.freeCtr + 1 }
      | none => { s.advance with freeCtr := s.freeCtr + 1 }

end Sys2Proof.Machine
end

