-- ==== Sys2Proof/Machine/Step.lean ====
section
/-! DEFINITION. The step of the package, and a state whose next step fetches and runs one given word. -/
namespace Sys2Proof.Machine

/-- One step: the next act of the world outside, if one waits (log 1); else what the part does of itself. With main power absent
only its return is an act. -/
def step (s : State) : Host.Outcome State Fault Refusal :=
  match s.inbox with
  | [] => if s.mgmt.powered then .next s.onward else .fault .noPower
  | i :: r =>
    if !s.mgmt.powered && !isPower i then .fault .noPower
    else if s.holds i then .next s.onward
    else
      let t : State := { s with inbox := r }
      if !isEvent i || ((s.mgmt.stopped || !s.mgmt.ready) && !isMgmt i) then .next t
      else match exec i t with
        | .next u => .next (if isReset i then u else s.inTime u)
        | .fault f => .fault f
        | .refused r => .refused r

/-- The word whose bits are w: 64 bits as they stand, or a half beside a no-operation half (R62, R64). -/
def tableWord (nbits w : Nat) : W64 :=
  if 32 < nbits then .ofNat 64 w
  else
    let h : BitVec 31 := .ofNat 31 w
    let nop (hop : BitVec 6) : BitVec 31 := halfJoin hop { da := .zero, sb := .zero, pg := 7, pn := false, ka := false, kb := false }
    if h.msb then 1#1 ++ h ++ nop 0x01 ++ 0#1 else 1#1 ++ nop 0x21 ++ h ++ 0#1
/-- A state whose next step fetches and runs that word: context 1 in use, with a page table of one leaf at 0x100000; a resident
team of the context, of a launch whose command is outstanding in queue 0; in slot 0 of core 0 a GENERAL group with the widest budget, its threads at the last word of a clause, at
0x1000; the word there. A clause header stands with its threads before it and a NOP after it. -/
def State.withFetchWord (s : State) (nbits w : Nat) : State :=
  let x := tableWord nbits w
  let head := (isHeader x).isSome
  let g := s.group 0 0
  let g : Group := { g with
    team := 1, role := 3, budget := 320, quad := 0, nextIssue := 0, saved := false, saveRec := none
    threads := g.threads.map fun t => { t with pc := 0x1000, left := if head then 0 else 1, wait := .run } }
  let e : List W64 := [0xA000000000000100, 1, 0, 0, 0, 0, 0, 0]
  let s : State := { s with
    inbox := [], cur := {}, mgmt := { s.mgmt with powered := true, ready := true, stopped := false }
    teams := aset s.teams 1 { s.team 1 with ctx := 1, st := .resident, cores := [0], halted := false }
    launches := aset s.launches 0 { ctx := 1, total := 1, dies := [0] }
    queues := aset s.queues 0 { s.queue 0 with
      stat := 0x200000, cfg := 0x80000104, wr := 1, rd := 1, st := .running
      cmds := [{ index := 0, op := 1, tag := 0, words := [1, 0, 0, 0, 0, 0, 0, 0], start := 0, launch := some 0 }] }
    ctxs := aset s.ctxs 1 { s.ctx 1 with entry := e, copy := some e, inUse := true, closing := false } }
  let s := s.updCore 0 fun k => { k with
    slots := aset k.slots 0 g, tlb := [], l1i := [], l0i := [[], [], [], []], busy := [0, 0, 0, 0] }
  let s := s.homeWr 0x100000 (leBytes 8 0xDF)
  (s.homeWr 0x1000 (leBytes 8 x.toNat)).homeWr 0x1008 (leBytes 8 (if head then 0x00F0000000000000 else 0))

end Sys2Proof.Machine
end

