-- ==== Sys2Proof/Safety.lean ====
section
/-! DEFINITION. What claims speak of: a step that answers a state, safe runs, what the registers of a group end with, the frame
of a word, and the invariants of the package. -/
namespace Sys2Proof

/-- The vector registers and the scalar a destination names: none for 448, which discards (R51). -/
def Opnd.vec (d : Opnd) : List Nat := match d with | .v n => [n] | _ => []
def Opnd.pair (d : Opnd) : List Nat := match d with | .v n => [n, n + 1] | _ => []
def Opnd.sca (d : Opnd) : List Nat := match d with | .s n => [n] | _ => []

end Sys2Proof
namespace Sys2Proof.Machine

/-- A step that answers a state. -/
def Goes (s t : State) : Prop := step s = .next t
/-- A run of n steps that neither faults nor is refused. -/
def SafeFor (n : Nat) (s : State) : Prop := ∃ t, core.run n s = .next t
/-- A run that never stops. -/
def Safe (s : State) : Prop := ∀ n, SafeFor n s
/-- The tick counter of the clock is in its range (R1, R345). -/
def ClockInv (s : State) : Prop := s.phase < 11
/-- Main power is present, or its return is the next act. -/
def Powered (s : State) : Prop := s.mgmt.powered = true

/-- The group once every result on its way is written (R84, R85). -/
def Group.final (g : Group) : Group := g.wb.foldl Group.commit { g with wb := [] }
/-- What lane l of register r of the issuing group ends with; a scalar; a lane of a predicate. -/
def State.endV (s : State) (r l : Nat) : W32 := (s.g.final.reg r).lane l
def State.endS (s : State) (r : Nat) : W64 := s.g.final.sreg r
def State.endP (s : State) (p l : Nat) : Bool := (s.g.final.preds.getD p 0).getLsbD l
/-- The group of the issue holds its slot, the word is no replay (R363), and no soft fault of its own comes (R362). -/
def Issuing (s : State) : Prop :=
  (s.group? s.cur.core s.cur.slot).isSome = true ∧ s.cur.replay = false ∧ s.cur.soft = false
/-- The vector registers a word kills (R50, R79). -/
def Instr.kills (i : Instr) : List Nat := (i.tab.map OpTab.killed).getD []

/-- Only the group of the issue differs. -/
structure OnlyGroup (s t : State) : Prop where
  rest : t = { s with cores := t.cores }
  cores : ∀ c, t.core c = { s.core c with slots := (t.core c).slots }
  slots : ∀ c k, (c, k) ≠ (s.cur.core, s.cur.slot) → t.group? c k = s.group? c k
/-- The frame of a word that writes the vector registers vs, the scalars ss and the predicates ps, and reads, computes and
goes on: nothing else in the package changes, no other register of its group but those it kills, and its threads stand at the
next word (R60, R79, R84). -/
structure Frame (i : Instr) (s t : State) (vs ss ps : List Nat) : Prop where
  only : OnlyGroup s t
  group : t.g = { s.g with
    regs := t.g.regs, sregs := t.g.sregs, preds := t.g.preds, wb := t.g.wb, shared := t.g.shared, taint := t.g.taint
    threads := (s.g.updThreads s.cur.mask Thread.past).threads }
  vecs : ∀ r l, l < 32 → r ∉ vs → r ∉ Instr.kills i → t.endV r l = s.endV r l
  scalars : ∀ r, r ∉ ss → t.endS r = s.endS r
  preds : ∀ p l, p < 7 → p ∉ ps → t.endP p l = s.endP p l
/-- A vector register the matrix engine does not hold. One it holds is written with a value the manual leaves open (R260). -/
def State.unheld (s : State) (r : Nat) : Prop := s.g.held.any (·.1 == r) = false
/-- In the lanes of m register r ends with f, in the others as it would have. -/
def EndsV (s t : State) (r : Nat) (m : W32) (f : Nat → W32) : Prop :=
  s.unheld r → ∀ l, l < 32 → t.endV r l = if m.getLsbD l then f l else s.endV r l
/-- The word runs and leaves destination d with f in the lanes of m. -/
def PutsV (i : Instr) (s : State) (d : Opnd) (m : W32) (f : Nat → W32) : Prop :=
  ∃ t, exec i s = .next t ∧ Frame i s t d.vec [] [] ∧ ∀ r, d = .v r → EndsV s t r m f
/-- The same of a pair: low halves in the even register, high halves in the next (R53). -/
def PutsV64 (i : Instr) (s : State) (d : Opnd) (m : W32) (f : Nat → W64) : Prop :=
  ∃ t, exec i s = .next t ∧ Frame i s t d.pair [] [] ∧ ∀ r, d = .v r →
    EndsV s t r m (fun l => (f l).setWidth 32) ∧ EndsV s t (r + 1) m fun l => (f l).extractLsb' 32 32
/-- The word runs and leaves scalar r with v when `on`, and as it would have been otherwise. -/
def PutsS (i : Instr) (s : State) (r : Nat) (on : Bool) (v : W64) : Prop :=
  ∃ t, exec i s = .next t ∧ Frame i s t [] [r] [] ∧ t.endS r = if on then v else s.endS r
/-- The word runs and leaves one value in destination d: in the lanes of m of a vector register, or zero-extended in a
scalar. -/
def PutsVS (i : Instr) (s : State) (d : Opnd) (m : W32) (v : W32) : Prop :=
  ∃ t, exec i s = .next t ∧ Frame i s t d.vec d.sca [] ∧ (∀ r, d = .v r → EndsV s t r m fun _ => v)
    ∧ ∀ r, d = .s r → t.endS r = if m == 0 then s.endS r else v.setWidth 64
/-- The word runs and leaves predicate p with f in the lanes of m, its other lanes as they were. -/
def PutsP (i : Instr) (s : State) (p : BitVec 3) (m : W32) (f : Nat → Bool) : Prop :=
  ∃ t, exec i s = .next t ∧ Frame i s t [] [] [p.toNat] ∧
    ∀ l, l < 32 → t.endP p.toNat l = if m.getLsbD l then f l else s.endP p.toNat l
/-- A half runs and leaves its destination with f in the lanes of its guard; the threads stay, and lives end with the pair
(R65, R66). -/
def PutsHalf (i : Instr) (s : State) (d : Opnd) (m : W32) (f : Nat → W32) : Prop :=
  ∃ t, exec i s = .next t ∧ OnlyGroup s t ∧ t.g = { s.g with wb := t.g.wb }
    ∧ (∀ r l, l < 32 → r ∉ d.vec → t.endV r l = s.endV r l) ∧ (∀ r, t.endS r = s.endS r)
    ∧ (∀ p l, p < 7 → t.endP p l = s.endP p l) ∧ ∀ r, d = .v r → EndsV s t r m f

/-- The same, of a well-formed word that issues. -/
def LaneResult (i : Instr) (s : State) (d : Opnd) (m : W32) (f : Nat → W32) : Prop :=
  Issuing s → i.wf = true → PutsV i s d m f
def PairResult (i : Instr) (s : State) (d : Opnd) (m : W32) (f : Nat → W64) : Prop :=
  Issuing s → i.wf = true → PutsV64 i s d m f
def ScalarResult (i : Instr) (s : State) (r : Nat) (on : Bool) (v : W64) : Prop :=
  Issuing s → i.wf = true → PutsS i s r on v
def OneResult (i : Instr) (s : State) (d : Opnd) (m v : W32) : Prop := Issuing s → i.wf = true → PutsVS i s d m v
def PredResult (i : Instr) (s : State) (p : BitVec 3) (m : W32) (f : Nat → Bool) : Prop :=
  Issuing s → i.wf = true → PutsP i s p m f
def HalfResult (i : Instr) (s : State) (h : Half) (f : Nat → W32) : Prop :=
  Issuing s → i.wf = true → PutsHalf i s h.da (s.hactive h) f

/-- A table of two inputs, bit by bit: bit j of g for the inputs with 2a + b = j (R115). -/
def tableOf (g : BitVec 4) (a b : W32) : W32 :=
  (if g.getLsbD 3 then a &&& b else 0) ||| (if g.getLsbD 2 then a &&& ~~~b else 0)
    ||| (if g.getLsbD 1 then ~~~a &&& b else 0) ||| (if g.getLsbD 0 then ~~~a &&& ~~~b else 0)
/-- w ones from bit p (R117). -/
def fieldOf (p w : Nat) : W32 := BitVec.ofNat 32 ((2 ^ w - 1) * 2 ^ p)

/-- The threads of the issue are runnable and have not exited (R142). -/
def Standing (s : State) : Prop := ∀ l, l < 32 → s.cur.mask.getLsbD l = true → (s.g.thread l).wait = .run
/-- A thread of the issue after its word (R60); one that leaves a JARR whose mask became 0 in cycle c (R143). -/
def Thread.freed (t : Thread) (c : Nat) : Thread := { t with pc := pcMod (t.pc + 8), wait := .redir (c + 1) }
/-- The frame of a word that steers threads: from u, the state its fetches left, only its group changes; lane l's thread becomes
f l of what it was; of the registers only vs, ss and those it kills; masks and flags as `kept` leaves them. -/
structure Steers (i : Instr) (s u t : State) (vs ss : List Nat) (f : Nat → Thread → Thread) (joins : Nat → W32) : Prop where
  same : u.g = s.g
  only : OnlyGroup u t
  group : t.g = { s.g with
    regs := t.g.regs, sregs := t.g.sregs, preds := t.g.preds, wb := t.g.wb, shared := t.g.shared, taint := t.g.taint
    threads := t.g.threads, joins := t.g.joins }
  threads : ∀ l, l < 32 → t.g.thread l = f l (s.g.thread l)
  joins : ∀ n, n < 16 → t.g.join n = joins n
  vecs : ∀ r l, l < 32 → r ∉ vs → r ∉ Instr.kills i → t.endV r l = s.endV r l
  scalars : ∀ r, r ∉ ss → t.endS r = s.endS r
  preds : ∀ p l, p < 7 → t.endP p l = s.endP p l
/-- Threads of m become what f makes of them; the others of the issue stand at the next word; the rest stay. -/
def State.thenAt (s : State) (m : W32) (f : Nat → Thread → Thread) (l : Nat) (t : Thread) : Thread :=
  if m.getLsbD l then f l t else if s.cur.mask.getLsbD l then t.past else t

/-- A class-L word on its way: from u its command enters with work k, and the word is over (R86, R87, R220). -/
def State.sent (u : State) (i : Instr) (act : W32) (k : OpKind) : State := (u.pushOp i act k).finish i
/-- No line is held apart from its home: no copies, no twins, no records in flight or held (R195, R197, R199). -/
def State.plain (s : State) : Prop := s.recs = [] ∧ ∀ x, (s.die x).copies = [] ∧ (s.die x).twins = []
/-- The group, its issue and the clock are as they were; but for spilled registers, which a store into the spill region makes
undefined (R187). -/
structure SameGroup (s v : State) : Prop where
  group : { v.g with spilled := s.g.spilled } = s.g
  cur : v.cur = s.cur
  time : v.time = s.time ∧ v.phase = s.phase
/-- A numbered table lists its numbers in rising order, so that each entry is the one its number finds. -/
def Keyed {α : Type} (l : List (Nat × α)) : Prop := (l.map (·.1)).Pairwise (· < ·)
/-- The tables of cores, and of each core's slots. -/
def KeyedCores (s : State) : Prop := Keyed s.cores ∧ ∀ c, Keyed (s.core c).slots
/-- Every resident group is of a recorded team, and every team of a recorded launch of its queue. -/
structure Housed (s : State) : Prop where
  groups : ∀ c k g, s.group? c k = some g → (aget s.teams g.team).isSome = true
  teams : ∀ n t, aget s.teams n = some t → ∃ l, aget s.launches t.launch = some l ∧ l.queue = t.queue
/-- Outstanding commands of the issue's core carry numbers already drawn. -/
def Drawn (s : State) : Prop := ∀ o ∈ (s.core s.cur.core).ops, o.id < s.serial
/-- The team of the issue is not DETERMINISTIC (R281), nor does it run again for an audit (R350). -/
def Ordinary (s : State) : Prop := s.tm.desc.det = false ∧ s.tm.rerun = none
/-- Accesses performed at their homes, none of them poisoned or uncorrectable: home-only lines, or the die's own (R195, R188). -/
def AtHomes (u : State) (ps : List Spot) (n : Nat) : Prop :=
  ∀ p ∈ ps, u.poisoned p.pa n = false ∧ u.l2Hurt (dieOf u.cur.core) p.cls p.pa n = false
    ∧ (p.cls = 0 ∨ p.cls ≠ 3 ∧ homeOf p.pa = dieOf u.cur.core)
/-- Writes performed at their homes: all home-only, or all twin-coherent on the die's own lines (R195, R197). -/
def WritesHome (u : State) (ps : List Spot) : Prop :=
  (∀ p ∈ ps, p.cls = 0) ∨ ∀ p ∈ ps, p.cls = 1 ∧ homeOf p.pa = dieOf u.cur.core

end Sys2Proof.Machine
end

