-- ==== Sys2Proof/Certificates/Slice0/Obligations.lean ====
section
/-! DEFINITION. The statements about the model. Each cites the rules it comes from. -/
open Sys2Proof Sys2Proof.Machine

/-- R111, R113: sums, differences, products, the lesser and the greater, lane by lane: the exact result, clamped under SAT, then
its low 32 bits; with W, 64 bits with wrap. No other register changes but those the word kills. -/
def Obligations.IntegerArithmeticResults : Prop :=
  ∀ s : State,
    (∀ c d a b t, PairResult (.iaddRegisters c d a b t false true) s d (s.active c) fun l => s.rd64 a l + s.rd64 b l)
    ∧ (∀ c d a imm t, PairResult (.iaddImmediate c d a imm t false true) s d (s.active c) fun l => s.rd64 a l + imm.signExtend 64)
    ∧ (∀ c d a b t, PairResult (.isub c d a b t false true) s d (s.active c) fun l => s.rd64 a l - s.rd64 b l)
    ∧ (∀ c d a b t, LaneResult (.iaddRegisters c d a b t false false) s d (s.active c) fun l => s.rd a l + s.rd b l)
    ∧ (∀ c d a imm t, LaneResult (.iaddImmediate c d a imm t false false) s d (s.active c) fun l => s.rd a l + imm.signExtend 32)
    ∧ (∀ c d a b t, LaneResult (.isub c d a b t false false) s d (s.active c) fun l => s.rd a l - s.rd b l)
    ∧ (∀ c d a b t, LaneResult (.iaddRegisters c d a b t true false) s d (s.active c) fun l =>
        BitVec.ofInt 32 (clampTo 32 t (num (s.rd a l) t + num (s.rd b l) t)))
    ∧ (∀ c d a imm t, LaneResult (.iaddImmediate c d a imm t true false) s d (s.active c) fun l =>
        BitVec.ofInt 32 (clampTo 32 t (num (s.rd a l) t + num (imm.signExtend 32) t)))
    ∧ (∀ c d a b t, LaneResult (.isub c d a b t true false) s d (s.active c) fun l =>
        BitVec.ofInt 32 (clampTo 32 t (num (s.rd a l) t - num (s.rd b l) t)))
    ∧ (∀ c d a b, LaneResult (.imulRegisters c d a b) s d (s.active c) fun l => s.rd a l * s.rd b l)
    ∧ (∀ c d a imm, LaneResult (.imulImmediate c d a imm) s d (s.active c) fun l => s.rd a l * imm.signExtend 32)
    ∧ (∀ c d a b t, LaneResult (.imulh c d a b t) s d (s.active c) fun l =>
        BitVec.ofInt 32 (num (s.rd a l) t * num (s.rd b l) t / 4294967296))
    ∧ (∀ c d a b t, LaneResult (.imin c d a b t) s d (s.active c) fun l =>
        BitVec.ofInt 32 (min (num (s.rd a l) t) (num (s.rd b l) t)))
    ∧ (∀ c d a b t, LaneResult (.imax c d a b t) s d (s.active c) fun l =>
        BitVec.ofInt 32 (max (num (s.rd a l) t) (num (s.rd b l) t)))
    ∧ (∀ c d a b e, LaneResult (.imad c d a b e) s d (s.active c) fun l => s.rd a l * s.rd b l + s.rd e l)
    ∧ (∀ c d a b e, PairResult (.imadw c d a b e .i) s d (s.active c) fun l =>
        (s.rd a l).signExtend 64 * (s.rd b l).signExtend 64 + s.rd64 e l)
    ∧ (∀ c d a b e, PairResult (.imadw c d a b e .n) s d (s.active c) fun l =>
        (s.rd a l).setWidth 64 * (s.rd b l).setWidth 64 + s.rd64 e l)
    ∧ (∀ c d a, LaneResult (.iabs c d a false) s d (s.active c) fun l => if (s.rd a l).msb then -s.rd a l else s.rd a l)
    ∧ (∀ c d a, LaneResult (.iabs c d a true) s d (s.active c) fun l =>
        if s.rd a l = 0x80000000 then 0x7FFFFFFF else if (s.rd a l).msb then -s.rd a l else s.rd a l)
    ∧ ∀ c d a b e t, LaneResult (.isad c d a b e t) s d (s.active c) fun l =>
        BitVec.ofInt 32 (max (num (s.rd a l) t) (num (s.rd b l) t) - min (num (s.rd a l) t) (num (s.rd b l) t)) + s.rd e l

/-- R112: division rounds towards zero and the remainder takes the sign of the dividend; a zero divisor gives all ones and the
dividend; the one signed overflow gives 0x8000_0000 and 0; the operations are 0x0A and 0x0B, of form R2 and class SF. -/
def Obligations.IntegerDivisionResults : Prop :=
  ∀ (s : State) (c : Ctl) (d a b : Opnd),
    LaneResult (.idiv c d a b .n) s d (s.active c) (fun l => if s.rd b l = 0 then 0xFFFFFFFF else s.rd a l / s.rd b l)
    ∧ LaneResult (.idiv c d a b .i) s d (s.active c) (fun l => if s.rd b l = 0 then 0xFFFFFFFF else (s.rd a l).sdiv (s.rd b l))
    ∧ LaneResult (.irem c d a b .n) s d (s.active c) (fun l => if s.rd b l = 0 then s.rd a l else s.rd a l % s.rd b l)
    ∧ LaneResult (.irem c d a b .i) s d (s.active c) (fun l => if s.rd b l = 0 then s.rd a l else (s.rd a l).srem (s.rd b l))
    ∧ ∀ t, (Instr.idiv c d a b t).raw = some (raw3 0x0A c d.code a.code b.code 0 (0#7 ++ t.code))
      ∧ (Instr.irem c d a b t).raw = some (raw3 0x0B c d.code a.code b.code 0 (0#7 ++ t.code))
      ∧ (Instr.idiv c d a b t).tab.map (·.lat) = some .sf ∧ (Instr.irem c d a b t).tab.map (·.lat) = some .sf

/-- R114: shifts and rotates by a count of five bits; SHF shifts the 64 bits of b and a. -/
def Obligations.ShiftResults : Prop :=
  ∀ s : State,
    (∀ c d a b, LaneResult (.shlRegisters c d a b) s d (s.active c) fun l => s.rd a l <<< ((s.rd b l).toNat % 32))
    ∧ (∀ c d a n, LaneResult (.shlImmediate c d a n) s d (s.active c) fun l => s.rd a l <<< n.toNat)
    ∧ (∀ c d a b, LaneResult (.shrRegisters c d a b) s d (s.active c) fun l => s.rd a l >>> ((s.rd b l).toNat % 32))
    ∧ (∀ c d a n, LaneResult (.shrImmediate c d a n) s d (s.active c) fun l => s.rd a l >>> n.toNat)
    ∧ (∀ c d a b, LaneResult (.sraRegisters c d a b) s d (s.active c) fun l =>
        BitVec.ofInt 32 ((s.rd a l).toInt / 2 ^ ((s.rd b l).toNat % 32)))
    ∧ (∀ c d a n, LaneResult (.sraImmediate c d a n) s d (s.active c) fun l => BitVec.ofInt 32 ((s.rd a l).toInt / 2 ^ n.toNat))
    ∧ (∀ c d a b, LaneResult (.rot c d a b false) s d (s.active c) fun l =>
        s.rd a l <<< ((s.rd b l).toNat % 32) ||| s.rd a l >>> (32 - (s.rd b l).toNat % 32))
    ∧ (∀ c d a b, LaneResult (.rot c d a b true) s d (s.active c) fun l =>
        s.rd a l >>> ((s.rd b l).toNat % 32) ||| s.rd a l <<< (32 - (s.rd b l).toNat % 32))
    ∧ (∀ c d a b e, LaneResult (.shf c d a b e false) s d (s.active c) fun l =>
        s.rd b l <<< ((s.rd e l).toNat % 32) ||| s.rd a l >>> (32 - (s.rd e l).toNat % 32))
    ∧ ∀ c d a b e, LaneResult (.shf c d a b e true) s d (s.active c) fun l =>
        s.rd a l >>> ((s.rd e l).toNat % 32) ||| s.rd b l <<< (32 - (s.rd e l).toNat % 32)

/-- R115 to R118: logic bit by bit, tables of three inputs, counts of bits, bit fields, chosen bytes. -/
def Obligations.BitLogicResults : Prop :=
  ∀ s : State,
    (∀ c d a b, LaneResult (.andRegisters c d a b) s d (s.active c) fun l => s.rd a l &&& s.rd b l)
    ∧ (∀ c d a imm, LaneResult (.andImmediate c d a imm) s d (s.active c) fun l => s.rd a l &&& imm.setWidth 32)
    ∧ (∀ c d a b, LaneResult (.orRegisters c d a b) s d (s.active c) fun l => s.rd a l ||| s.rd b l)
    ∧ (∀ c d a imm, LaneResult (.orImmediate c d a imm) s d (s.active c) fun l => s.rd a l ||| imm.setWidth 32)
    ∧ (∀ c d a b, LaneResult (.xorRegisters c d a b) s d (s.active c) fun l => s.rd a l ^^^ s.rd b l)
    ∧ (∀ c d a imm, LaneResult (.xorImmediate c d a imm) s d (s.active c) fun l => s.rd a l ^^^ imm.setWidth 32)
    ∧ (∀ c d a b e g0 g1, LaneResult (.bool3 c d a b e g0 g1) s d (s.active c) fun l =>
        (~~~s.rd e l &&& tableOf g0 (s.rd a l) (s.rd b l)) ||| (s.rd e l &&& tableOf g1 (s.rd a l) (s.rd b l)))
    ∧ (∀ c d a, LaneResult (.popc c d a) s d (s.active c) fun l =>
        BitVec.ofNat 32 ((List.range 32).countP fun i => (s.rd a l).getLsbD i))
    ∧ (∀ c d a, LaneResult (.clz c d a) s d (s.active c) fun l =>
        if s.rd a l = 0 then 32 else BitVec.ofNat 32 (31 - Nat.log2 (s.rd a l).toNat))
    ∧ (∀ c d a, LaneResult (.ctz c d a) s d (s.active c) fun l =>
        if s.rd a l = 0 then 32 else BitVec.ofNat 32 (31 - Nat.log2 (s.rd a l).reverse.toNat))
    ∧ (∀ c d a, LaneResult (.brev c d a) s d (s.active c) fun l => (s.rd a l).reverse)
    ∧ (∀ c d a b e, LaneResult (.bfx c d a b e .n) s d (s.active c) fun l =>
        let p := (s.rd b l).toNat % 32
        s.rd a l >>> p &&& fieldOf 0 (min ((s.rd e l).toNat % 64) (32 - p)))
    ∧ (∀ c d a b e, LaneResult (.bfx c d a b e .i) s d (s.active c) fun l =>
        let p := (s.rd b l).toNat % 32
        let w := min ((s.rd e l).toNat % 64) (32 - p)
        (s.rd a l <<< (32 - p - w)).sshiftRight (32 - w) &&& (if w = 0 then 0 else 0xFFFFFFFF))
    ∧ (∀ c d a b e, LaneResult (.bfi c d a b e) s d (s.active c) fun l =>
        let p := (s.rd e l).toNat % 32
        let f := fieldOf p (min ((s.rd e l).toNat / 256 % 64) (32 - p))
        (s.rd a l &&& ~~~f) ||| (s.rd b l <<< p &&& f))
    ∧ ∀ c d a b e, LaneResult (.bshuf c d a b e) s d (s.active c) fun l =>
        let sel (k : Nat) : Nat := (s.rd e l).toNat / 256 ^ k % 256
        let g (k : Nat) : BitVec 8 := (s.rd b l ++ s.rd a l).extractLsb' (8 * (sel k % 8)) 8
        let r (k : Nat) : BitVec 8 := match sel k / 8 % 4 with
          | 0 => g k | 1 => 0 | 2 => (if (g k).getLsbD 7 then 0xFF else 0) | _ => 0xFF
        r 3 ++ r 2 ++ r 1 ++ r 0

/-- R119 to R121, R124, R125: moves, constants, the choice by a predicate, addresses, the predicates of a lane as a word, a
register's shape code, a register made general. -/
def Obligations.MoveResults : Prop :=
  ∀ s : State,
    (∀ c d a, LaneResult (.mov c d a false) s d (s.active c) fun l => s.rd a l)
    ∧ (∀ c d a, PairResult (.mov c d a true) s d (s.active c) fun l => s.rd64 a l)
    ∧ (∀ c d imm, LaneResult (.movi c d (.const imm)) s d (s.active c) fun _ => imm.signExtend 32)
    ∧ (∀ c d a imm, LaneResult (.movi c d (.ins a imm)) s d (s.active c) fun l => (s.rd a l).setWidth 16 ++ imm)
    ∧ (∀ c d a b p neg, LaneResult (.sel c d a b p neg false) s d (s.active c) fun l =>
        if s.g.pred p l != neg then s.rd a l else s.rd b l)
    ∧ (∀ c d a b p neg, PairResult (.sel c d a b p neg true) s d (s.active c) fun l =>
        if s.g.pred p l != neg then s.rd64 a l else s.rd64 b l)
    ∧ (∀ c d a b e n, LaneResult (.leaRegisters c d a b e n) s d (s.active c) fun l =>
        s.rd a l * 2 ^ n.toNat + s.rd b l + s.rd e l)
    ∧ (∀ c d a imm n, LaneResult (.leaImmediate c d a imm n) s d (s.active c) fun l =>
        s.rd a l * 2 ^ n.toNat + imm.signExtend 32)
    ∧ (∀ c d, LaneResult (.p2v c d) s d (s.active c) fun l =>
        BitVec.ofNat 32 (((List.range 7).map fun i => if (s.g.preds.getD i 0).getLsbD l then 2 ^ i else 0).sum))
    ∧ (∀ c d a, LaneResult (.vwiden c d a) s d (s.active c) fun l => s.rd a l)
    ∧ ∀ c d a, OneResult (.vshape c d a) s d (s.active c) (BitVec.ofNat 32 (s.code a))

/-- R122 to R124, R158: comparisons and tables write one predicate in the active lanes, V2P each predicate its mask names. -/
def Obligations.PredicateResults : Prop :=
  ∀ s : State,
    (∀ c p a b k t j, PredResult (.isetRegisters c p a b k t j) s p (s.active c) fun l =>
        combine j (s.g.pred p l) (cmpInt k (num (s.rd a l) t) (num (s.rd b l) t)))
    ∧ (∀ c p a imm k j, PredResult (.isetImmediate c p a imm k .i j) s p (s.active c) fun l =>
        combine j (s.g.pred p l) (cmpInt k (s.rd a l).toInt imm.toInt))
    ∧ (∀ c p a imm k j, PredResult (.isetImmediate c p a imm k .n j) s p (s.active c) fun l =>
        combine j (s.g.pred p l) (cmpInt k (s.rd a l).toNat imm.toNat))
    ∧ (∀ c p a b lut, PredResult (.plop c p a b lut) s p (s.active c) fun l =>
        lut.getLsbD (2 * (s.g.pred a l).toNat + (s.g.pred b l).toNat))
    ∧ (∀ c p a b k j, PredResult (.fsetRegisters c p a b k j) s p (s.active c) fun l =>
        combine j (s.g.pred p l) (cmpVal k (val (s.rd a l).toNat .f32) (val (s.rd b l).toNat .f32)))
    ∧ (∀ c p a imm k j, PredResult (.fsetImmediate c p a imm k j) s p (s.active c) fun l =>
        combine j (s.g.pred p l) (cmpVal k (val (s.rd a l).toNat .f32) (val (imm.toNat * 32768) .f32)))
    ∧ ∀ c a mask, Issuing s → (Instr.v2p c a mask).wf = true →
        ∃ t, exec (.v2p c a mask) s = .next t ∧ Frame (.v2p c a mask) s t [] [] ((List.range 7).filter mask.getLsbD)
          ∧ ∀ i l, i < 7 → l < 32 → t.endP i l =
              if mask.getLsbD i && (s.active c).getLsbD l then (s.rd a l).getLsbD i else s.endP i l

/-- R132, R133, R135: scalar arithmetic is 64 bits wide with wrap, runs once for the group, and writes when the guard holds in
some thread of the issue. -/
def Obligations.ScalarResults : Prop :=
  ∀ s : State,
    let on (c : Ctl) : Bool := s.active c != 0
    (∀ c d a b, ScalarResult (.saddRegisters c d a b) s d (on c) (s.srd a + s.srd b))
    ∧ (∀ c d a imm, ScalarResult (.saddImmediate c d a imm) s d (on c) (s.srd a + imm.signExtend 64))
    ∧ (∀ c d a b, ScalarResult (.ssub c d a b) s d (on c) (s.srd a - s.srd b))
    ∧ (∀ c d a b, ScalarResult (.smul c d a b) s d (on c) (s.srd a * s.srd b))
    ∧ (∀ c d a b t, ScalarResult (.smulh c d a b t) s d (on c)
        (BitVec.ofInt 64 (num (s.srd a) t * num (s.srd b) t / 18446744073709551616)))
    ∧ (∀ c d a b, ScalarResult (.sandRegisters c d a b) s d (on c) (s.srd a &&& s.srd b))
    ∧ (∀ c d a imm, ScalarResult (.sandImmediate c d a imm) s d (on c) (s.srd a &&& imm.setWidth 64))
    ∧ (∀ c d a b, ScalarResult (.sor c d a b) s d (on c) (s.srd a ||| s.srd b))
    ∧ (∀ c d a b, ScalarResult (.sxor c d a b) s d (on c) (s.srd a ^^^ s.srd b))
    ∧ (∀ c d a b, ScalarResult (.sshlRegisters c d a b) s d (on c) (s.srd a * 2 ^ ((s.srd b).toNat % 64)))
    ∧ (∀ c d a n, ScalarResult (.sshlImmediate c d a n) s d (on c) (s.srd a * 2 ^ n.toNat))
    ∧ (∀ c d a b, ScalarResult (.sshrRegisters c d a b) s d (on c) (BitVec.ofNat 64 ((s.srd a).toNat / 2 ^ ((s.srd b).toNat % 64))))
    ∧ (∀ c d a n, ScalarResult (.sshrImmediate c d a n) s d (on c) (BitVec.ofNat 64 ((s.srd a).toNat / 2 ^ n.toNat)))
    ∧ (∀ c d a b, ScalarResult (.ssra c d a b) s d (on c) (BitVec.ofInt 64 ((s.srd a).toInt / 2 ^ ((s.srd b).toNat % 64))))
    ∧ (∀ c d a b t, ScalarResult (.smin c d a b t) s d (on c) (BitVec.ofInt 64 (min (num (s.srd a) t) (num (s.srd b) t))))
    ∧ (∀ c d a b t, ScalarResult (.smax c d a b t) s d (on c) (BitVec.ofInt 64 (max (num (s.srd a) t) (num (s.srd b) t))))
    ∧ (∀ c d a, ScalarResult (.smov c d a) s d (on c) (s.srd a))
    ∧ (∀ c d imm, ScalarResult (.smovi c d (.const imm)) s d (on c) (imm.signExtend 64))
    ∧ (∀ c d a imm, ScalarResult (.smovi c d (.ins a imm)) s d (on c) ((s.srd a).setWidth 48 ++ imm))
    ∧ ∀ c d a b e n, ScalarResult (.slea c d a b e n) s d (on c) (s.srd a * 2 ^ n.toNat + s.srd b + s.srd e)

/-- R134: SSET gives 1 or 0; SSEL executes at every issue, and takes a when the guard holds in a thread of the issue, or in
every one under ALL, and b otherwise; the operations are 0x3B and 0x3C, of form R2. -/
def Obligations.ScalarChoiceResults : Prop :=
  ∀ s : State,
    (∀ c d a b k t, ScalarResult (.sset c d a b k t) s d (s.active c != 0)
      (match k with
        | .eq => if num (s.srd a) t = num (s.srd b) t then 1 else 0
        | .ne => if num (s.srd a) t = num (s.srd b) t then 0 else 1
        | .lt => if num (s.srd a) t < num (s.srd b) t then 1 else 0
        | .le => if num (s.srd a) t ≤ num (s.srd b) t then 1 else 0
        | .gt => if num (s.srd b) t < num (s.srd a) t then 1 else 0
        | .ge => if num (s.srd b) t ≤ num (s.srd a) t then 1 else 0))
    ∧ (∀ c d a b, ScalarResult (.ssel c d a b false) s d true
        (if (List.range 32).any fun l => s.cur.mask.getLsbD l && s.g.pred c.pg l != c.pn then s.srd a else s.srd b))
    ∧ (∀ c d a b, ScalarResult (.ssel c d a b true) s d true
        (if (List.range 32).all fun l => !s.cur.mask.getLsbD l || s.g.pred c.pg l != c.pn then s.srd a else s.srd b))
    ∧ ∀ c d a b k t all,
      (Instr.sset c d a b k t).raw = some (raw3 0x3B c (.ofNat 9 d) (.ofNat 9 a) (.ofNat 9 b) 0 (0#4 ++ t.code ++ k.code))
      ∧ (Instr.ssel c d a b all).raw = some (raw3 0x3C c (.ofNat 9 d) (.ofNat 9 a) (.ofNat 9 b) 0 (0#7 ++ bit all))

/-- R126 to R131: a value taken from another lane is taken whatever that lane does; a vote or a count, a reduction or a match is over
the active lanes alone; VBCAST writes every lane and VLANE one, active or not. Integer reductions are stated as folds, for their
operations do not depend on order; FP32 ones by the tree of R129. -/
def Obligations.LaneExchangeResults : Prop :=
  ∀ s : State,
    (∀ c d a b seg, LaneResult (.shfl c d a b .idx seg) s d (s.active c) fun l =>
        s.rd a (l / segLanes seg * segLanes seg + (s.rd b l).toNat % segLanes seg))
    ∧ (∀ c d a b seg, LaneResult (.shfl c d a b .up seg) s d (s.active c) fun l =>
        if (s.rd b l).toNat ≤ l % segLanes seg then s.rd a (l - (s.rd b l).toNat) else s.rd a l)
    ∧ (∀ c d a b seg, LaneResult (.shfl c d a b .down seg) s d (s.active c) fun l =>
        if l % segLanes seg + (s.rd b l).toNat < segLanes seg then s.rd a (l + (s.rd b l).toNat) else s.rd a l)
    ∧ (∀ c d a b seg, LaneResult (.shfl c d a b .xor seg) s d (s.active c) fun l =>
        s.rd a (l ^^^ ((s.rd b l).toNat % segLanes seg)))
    ∧ (∀ c d a b, LaneResult (.vbcast c d a b) s d (if s.active c = 0 then 0 else allOnes32) fun _ =>
        s.rd a ((s.rd b (firstLane (s.active c))).toNat % 32))
    ∧ (∀ c d a b, LaneResult (.vlane c d a b) s d
        (if s.active c = 0 then 0 else 1 <<< ((s.rd b (firstLane (s.active c))).toNat % 32)) fun _ =>
        s.rd a (firstLane (s.active c)))
    ∧ (∀ c p q neg, PredResult (.census c (.pred p) .any q neg) s p (s.active c) fun _ =>
        (lanesOf (s.active c)).any fun l => s.g.pred q l != neg)
    ∧ (∀ c p q neg, PredResult (.census c (.pred p) .all q neg) s p (s.active c) fun _ =>
        (lanesOf (s.active c)).all fun l => s.g.pred q l != neg)
    ∧ (∀ c p q neg, PredResult (.census c (.pred p) .same q neg) s p (s.active c) fun _ =>
        ((lanesOf (s.active c)).all fun l => s.g.pred q l != neg) || (lanesOf (s.active c)).all fun l => s.g.pred q l == neg)
    ∧ (∀ c d q neg, OneResult (.census c (.reg d) .mask q neg) s d (s.active c)
        (maskOf fun l => (s.active c).getLsbD l && s.g.pred q l != neg))
    ∧ (∀ c d q neg, OneResult (.census c (.reg d) .count q neg) s d (s.active c)
        (BitVec.ofNat 32 ((lanesOf (s.active c)).countP fun l => s.g.pred q l != neg)))
    ∧ (∀ c d a t, t ≠ .f32 → OneResult (.gred c d a .add t) s d (s.active c)
        (BitVec.ofNat 32 ((lanesOf (s.active c)).map fun l => (s.rd a l).toNat).sum))
    ∧ (∀ c d a, OneResult (.gred c d a .min .i32) s d (s.active c)
        (BitVec.ofInt 32 ((lanesOf (s.active c)).foldl (fun m l => min m (s.rd a l).toInt) 2147483647)))
    ∧ (∀ c d a, OneResult (.gred c d a .max .i32) s d (s.active c)
        (BitVec.ofInt 32 ((lanesOf (s.active c)).foldl (fun m l => max m (s.rd a l).toInt) (-2147483648))))
    ∧ (∀ c d a, OneResult (.gred c d a .min .n32) s d (s.active c)
        (BitVec.ofNat 32 ((lanesOf (s.active c)).foldl (fun m l => min m (s.rd a l).toNat) 4294967295)))
    ∧ (∀ c d a, OneResult (.gred c d a .max .n32) s d (s.active c)
        (BitVec.ofNat 32 ((lanesOf (s.active c)).foldl (fun m l => max m (s.rd a l).toNat) 0)))
    ∧ (∀ c d a t, OneResult (.gred c d a .and t) s d (s.active c)
        ((lanesOf (s.active c)).foldl (fun m l => m &&& s.rd a l) 0xFFFFFFFF))
    ∧ (∀ c d a t, OneResult (.gred c d a .or t) s d (s.active c) ((lanesOf (s.active c)).foldl (fun m l => m ||| s.rd a l) 0))
    ∧ (∀ c d a t, OneResult (.gred c d a .xor t) s d (s.active c) ((lanesOf (s.active c)).foldl (fun m l => m ^^^ s.rd a l) 0))
    ∧ (∀ c d a op, op = .add ∨ op = .min ∨ op = .max → OneResult (.gred c d a op .f32) s d (s.active c)
        (treeReduce (gredOp op .f32) ((List.range 32).map fun l => if (s.active c).getLsbD l then s.rd a l else gredUnit op .f32)))
    ∧ (∀ c p a, PredResult (.matchLanes c (.pred p) a false) s p (s.active c) fun _ =>
        (lanesOf (s.active c)).all fun k => (lanesOf (s.active c)).all fun l => s.rd a k == s.rd a l)
    ∧ (∀ c p a, PredResult (.matchLanes c (.pred p) a true) s p (s.active c) fun _ =>
        (lanesOf (s.active c)).all fun k => (lanesOf (s.active c)).all fun l => s.rd64 a k == s.rd64 a l)
    ∧ (∀ c d a, LaneResult (.matchLanes c (.reg d) a false) s d (s.active c) fun l =>
        maskOf fun k => (s.active c).getLsbD k && s.rd a k == s.rd a l)
    ∧ ∀ c d a, LaneResult (.matchLanes c (.reg d) a true) s d (s.active c) fun l =>
        maskOf fun k => (s.active c).getLsbD k && s.rd64 a k == s.rd64 a l

/-- R154 to R161: each lane is the exact result of its sources' values, rounded once to the format; minima and maxima are a
source's own bits; FCLASS names the one class; the special functions round the value of the model's 400-bit
series, where the manual says how near the result must be (the model's choice, log 15).
R98: a NaN source, an infinity less itself, and 0 times an infinity give the canonical NaN, whatever the NaN's bits; a
minimum or a maximum passes over the one NaN. -/
def Obligations.FloatResults : Prop :=
  (
    ∀ s : State,
      let fm (f19 : Bool) : Fmt := if f19 then .f19 else .f32
      let x (f : Fmt) (o : Opnd) (l : Nat) : Val := val (s.rd o l).toNat f
      let im (f : Fmt) (imm : BitVec 17) : Val := val (imm.toNat * 32768) f
      (∀ c d a b rm f, LaneResult (.faddRegisters c d a b rm f) s d (s.active c) fun l =>
          rnd (sumVals rm [x (fm f) a l, x (fm f) b l]) (fm f) rm)
      ∧ (∀ c d a imm rm f, LaneResult (.faddImmediate c d a imm rm f) s d (s.active c) fun l =>
          rnd (sumVals rm [x (fm f) a l, im (fm f) imm]) (fm f) rm)
      ∧ (∀ c d a b rm f, LaneResult (.fsub c d a b rm f) s d (s.active c) fun l =>
          rnd (sumVals rm [x (fm f) a l, (x (fm f) b l).neg]) (fm f) rm)
      ∧ (∀ c d a b rm f, LaneResult (.fmulRegisters c d a b rm f) s d (s.active c) fun l =>
          rnd ((x (fm f) a l).mul (x (fm f) b l)) (fm f) rm)
      ∧ (∀ c d a imm rm f, LaneResult (.fmulImmediate c d a imm rm f) s d (s.active c) fun l =>
          rnd ((x (fm f) a l).mul (im (fm f) imm)) (fm f) rm)
      ∧ (∀ c d a b e rm f np nc, LaneResult (.ffma c d a b e rm f np nc) s d (s.active c) fun l =>
          let p := (x (fm f) a l).mul (x (fm f) b l)
          let z := x (fm f) e l
          rnd (sumVals rm [if np then p.neg else p, if nc then z.neg else z]) (fm f) rm)
      ∧ (∀ c d a b, LaneResult (.fmin c d a b) s d (s.active c) fun l => BitVec.ofNat 32 (fminCode .f32 (s.rd a l).toNat (s.rd b l).toNat))
      ∧ (∀ c d a b, LaneResult (.fmax c d a b) s d (s.active c) fun l => BitVec.ofNat 32 (fmaxCode .f32 (s.rd a l).toNat (s.rd b l).toNat))
      ∧ (∀ c d a, LaneResult (.fclass c d a .f32) s d (s.active c) fun l => classMask .f32 (s.rd a l).toNat)
      ∧ (∀ c d a, LaneResult (.fclass c d a .f16) s d (s.active c) fun l => classMask .f16 ((s.rd a l).toNat % 65536))
      ∧ (∀ c d a, LaneResult (.fclass c d a .b16) s d (s.active c) fun l => classMask .b16 ((s.rd a l).toNat % 65536))
      ∧ (∀ c d a rm, LaneResult (.frnd c d a rm) s d (s.active c) fun l => frnd32 rm (s.rd a l))
      ∧ (∀ c d a b rm, LaneResult (.fscale c d a b rm) s d (s.active c) fun l => fscale32 rm (s.rd a l) (s.rd b l))
      ∧ (∀ c d a rm, LaneResult (.frcp c d a rm) s d (s.active c) fun l => rnd (recipVal (x .f32 a l)) .f32 rm)
      ∧ (∀ c d a, LaneResult (.frsq c d a) s d (s.active c) fun l => rnd (rsqrtVal (x .f32 a l)) .f32 .rn)
      ∧ (∀ c d a rm, LaneResult (.fsqrt c d a rm) s d (s.active c) fun l => rnd (sqrtVal (x .f32 a l)) .f32 rm)
      ∧ (∀ c d a, LaneResult (.fexp2 c d a) s d (s.active c) fun l => rnd (fexp2Val (x .f32 a l)) .f32 .rn)
      ∧ (∀ c d a, LaneResult (.flog2 c d a) s d (s.active c) fun l => rnd (flog2Val (x .f32 a l)) .f32 .rn)
      ∧ (∀ c d a, LaneResult (.fsin c d a) s d (s.active c) fun l => rnd (fsinVal (x .f32 a l)) .f32 .rn)
      ∧ (∀ c d a, LaneResult (.fcos c d a) s d (s.active c) fun l => rnd (fcosVal (x .f32 a l)) .f32 .rn)
      ∧ ∀ c d a, LaneResult (.ftanh c d a) s d (s.active c) fun l => rnd (ftanhVal (x .f32 a l)) .f32 .rn)
  ∧ (
    (∀ x y z : W32, val x.toNat .f32 = .nan → ∀ rm,
        faddCode .f32 rm x y = 0x7FC00000 ∧ faddCode .f32 rm y x = 0x7FC00000 ∧ fsubCode .f32 rm x y = 0x7FC00000
        ∧ fmulCode .f32 rm x y = 0x7FC00000 ∧ ffmaCode .f32 rm false false y z x = 0x7FC00000)
    ∧ (∀ rm, faddCode .f32 rm 0x7F800000 0xFF800000 = 0x7FC00000 ∧ fmulCode .f32 rm 0 0x7F800000 = 0x7FC00000)
    ∧ (∀ x y : W32, val x.toNat .f32 = .nan → val y.toNat .f32 ≠ .nan → fmin32 x y = y ∧ fmin32 y x = y ∧ fmax32 x y = y ∧ fmax32 y x = y)
    ∧ ∀ x y : W32, val x.toNat .f32 = .nan → val y.toNat .f32 = .nan → fmin32 x y = 0x7FC00000 ∧ fmax32 x y = 0x7FC00000)

/-- R162, R165 to R168: two 16-bit elements computed each on its own; an element taken from a register; dot products of exact
products, summed exactly, with one rounding or in 32-bit wrap. -/
def Obligations.PackedResults : Prop :=
  ∀ s : State,
    let h (f : Bool) : Fmt := if f then .b16 else .f16
    let lo (o : Opnd) (l : Nat) : Nat := (s.rd o l).toNat % 65536
    let hi (o : Opnd) (l : Nat) : Nat := (s.rd o l).toNat / 65536
    let two (f : Bool) (g : Val → Val → W32) (a b : Opnd) (l : Nat) : W32 :=
      (g (val (hi a l) (h f)) (val (hi b l) (h f))).setWidth 16 ++ (g (val (lo a l) (h f)) (val (lo b l) (h f))).setWidth 16
    (∀ c d a b rm f, LaneResult (.hadd2 c d a b rm f) s d (s.active c) fun l => two f (fun x y => rnd (sumVals rm [x, y]) (h f) rm) a b l)
    ∧ (∀ c d a b rm f, LaneResult (.hsub2 c d a b rm f) s d (s.active c) fun l => two f (fun x y => rnd (sumVals rm [x, y.neg]) (h f) rm) a b l)
    ∧ (∀ c d a b rm f, LaneResult (.hmul2 c d a b rm f) s d (s.active c) fun l => two f (fun x y => rnd (x.mul y) (h f) rm) a b l)
    ∧ (∀ c d a b e rm f, LaneResult (.hfma2 c d a b e rm f) s d (s.active c) fun l =>
        (rnd (sumVals rm [(val (hi a l) (h f)).mul (val (hi b l) (h f)), val (hi e l) (h f)]) (h f) rm).setWidth 16
          ++ (rnd (sumVals rm [(val (lo a l) (h f)).mul (val (lo b l) (h f)), val (lo e l) (h f)]) (h f) rm).setWidth 16)
    ∧ (∀ c d a b f, LaneResult (.hmin2 c d a b f) s d (s.active c) fun l =>
        BitVec.ofNat 16 (fminCode (h f) (hi a l) (hi b l)) ++ BitVec.ofNat 16 (fminCode (h f) (lo a l) (lo b l)))
    ∧ (∀ c d a b f, LaneResult (.hmax2 c d a b f) s d (s.active c) fun l =>
        BitVec.ofNat 16 (fmaxCode (h f) (hi a l) (hi b l)) ++ BitVec.ofNat 16 (fmaxCode (h f) (lo a l) (lo b l)))
    ∧ (∀ c d a b k f, LaneResult (.hset2 c d a b k f) s d (s.active c) fun l =>
        two f (fun x y => if cmpVal k x y then 0xFFFF else 0) a b l)
    ∧ (∀ c d a b f, LaneResult (.unpack c d a b f false) s d (s.active c) fun l =>
        rnd (val (elemOf f (s.rd a l) ((s.rd b l).toNat % (32 / f.width))) f) .f32 .rn)
    ∧ (∀ c d a b f, LaneResult (.unpack c d a b f true) s d (s.active c) fun l => unpack32 f true (s.rd a l) (s.rd b l))
    ∧ (∀ c d a b e fa fb rm, LaneResult (.dp2h c d a b e fa fb rm) s d (s.active c) fun l =>
        dotProduct 2 fa fb rm (s.rd a l) (s.rd b l) (s.rd e l))
    ∧ (∀ c d a b e fa fb rm, LaneResult (.dp4 c d a b e fa fb rm) s d (s.active c) fun l =>
        dotProduct 4 fa fb rm (s.rd a l) (s.rd b l) (s.rd e l))
    ∧ (∀ c d a b e fa fb rm, LaneResult (.dp8 c d a b e fa fb rm) s d (s.active c) fun l =>
        dotProduct 8 fa fb rm (s.rd a l) (s.rd b l) (s.rd e l))
    ∧ ∀ c d a b e fa fb rm, LaneResult (.dp16 c d a b e fa fb rm) s d (s.active c) fun l =>
        dotProduct 16 fa fb rm (s.rd a l) (s.rd b l) (s.rd e l)

/-- R99, R100, R164, R165: CVT and PACK write the code `convert` gives in every active lane, unless some active lane overflows
under TRAP: then the word writes no lane and traps CVTOVF with the lanes that raised it. -/
def Obligations.ConversionResults : Prop :=
  ∀ s : State,
    let src (t : CvtTy) (a : Opnd) (l : Nat) : Val := cvtSrc t (if t.wide then s.rd64 a l else (s.rd a l).setWidth 64)
    let pk (f : Fmt) (rm : Rm) (pol : Pol) (a b e : Opnd) (l : Nat) : Option W32 :=
      pack32 f rm pol (s.rd a l) (s.rd b l) (if f.width == 16 then 0 else s.rd e l)
    (∀ c d a dt ty rm pol, dt.wide = false → (∀ l, l < 32 → (s.active c).getLsbD l = true → (convert (src ty a l) dt rm pol).isSome = true) →
        LaneResult (.cvt c d a dt ty rm pol) s d (s.active c) fun l => BitVec.ofNat 32 ((convert (src ty a l) dt rm pol).getD 0))
    ∧ (∀ c d a dt ty rm pol, dt.wide = true → (∀ l, l < 32 → (s.active c).getLsbD l = true → (convert (src ty a l) dt rm pol).isSome = true) →
        PairResult (.cvt c d a dt ty rm pol) s d (s.active c) fun l => BitVec.ofNat 64 ((convert (src ty a l) dt rm pol).getD 0))
    ∧ (∀ c d a dt ty rm pol l, l < 32 → (s.active c).getLsbD l = true → convert (src ty a l) dt rm pol = none →
        exec (.cvt c d a dt ty rm pol) s = .next (s.trapW 0x0B
          (maskOf fun l => (s.active c).getLsbD l && (convert (src ty a l) dt rm pol).isNone) 0 s.cur.word.toNat 0))
    ∧ (∀ c d a b e f rm pol, (∀ l, l < 32 → (s.active c).getLsbD l = true → (pk f rm pol a b e l).isSome = true) →
        LaneResult (.pack c d a b e f rm pol) s d (s.active c) fun l => (pk f rm pol a b e l).getD 0)
    ∧ (∀ c d a b e f rm pol l, l < 32 → (s.active c).getLsbD l = true → pk f rm pol a b e l = none →
        exec (.pack c d a b e f rm pol) s = .next (s.trapW 0x0B
          (maskOf fun l => (s.active c).getLsbD l && (pk f rm pol a b e l).isNone) 0 s.cur.word.toNat 0))
    ∧ ∀ x t rm pol, pol ≠ .trap → (convert x t rm pol).isSome = true

/-- R96: what rounding at a place makes of m × 2^e, where the place 2^q lies above 2^e: under .rz the number of whole places;
towards the one infinity or the other, the least or greatest place on that side; under .rn a nearest place, and on a tie the
even one. -/
def Obligations.RoundingIsNearest : Prop :=
  ∀ (neg : Bool) (m : Nat) (e q : Int), e < q →
    let w := 2 ^ (q - e).toNat
    (roundAt .rz neg m e q * w ≤ m ∧ m < (roundAt .rz neg m e q + 1) * w)
    ∧ (roundAt .ru true m e q * w ≤ m ∧ m < (roundAt .ru true m e q + 1) * w)
    ∧ (m ≤ roundAt .ru false m e q * w ∧ roundAt .ru false m e q * w < m + w)
    ∧ (roundAt .rd false m e q * w ≤ m ∧ m < (roundAt .rd false m e q + 1) * w)
    ∧ (m ≤ roundAt .rd true m e q * w ∧ roundAt .rd true m e q * w < m + w)
    ∧ (2 * m ≤ (2 * roundAt .rn neg m e q + 1) * w ∧ 2 * roundAt .rn neg m e q * w ≤ 2 * m + w)
    ∧ (2 * m = (2 * roundAt .rn neg m e q + 1) * w ∨ 2 * roundAt .rn neg m e q * w = 2 * m + w →
        roundAt .rn neg m e q % 2 = 0)

/-- R65, R66: each half computes its own result from DA and SB (MOV from SB alone) in the lanes of its own guard; nothing else
changes. A no-operation half changes nothing at all. -/
def Obligations.HalfResults : Prop :=
  ∀ (s : State) (h : Half),
    let a (l : Nat) : W32 := s.rd h.da l
    let b (l : Nat) : W32 := s.rd h.sb l
    let n (l : Nat) : Nat := (s.rd h.sb l).toNat % 32
    let two (g : W32 → W32 → W32) (l : Nat) : W32 :=
      (g ((a l >>> 16) &&& 0xFFFF) ((b l >>> 16) &&& 0xFFFF)).setWidth 16 ++ (g (a l &&& 0xFFFF) (b l &&& 0xFFFF)).setWidth 16
    let lesser (f : Fmt) (x y : W32) : W32 := BitVec.ofNat 32 (fminCode f x.toNat y.toNat)
    let greater (f : Fmt) (x y : W32) : W32 := BitVec.ofNat 32 (fmaxCode f x.toNat y.toNat)
    exec (.halfNopLow h) s = .next s ∧ exec (.halfNopHigh h) s = .next s
    ∧ HalfResult (.halfIadd h) s h (fun l => a l + b l) ∧ HalfResult (.halfIsub h) s h (fun l => a l - b l)
    ∧ HalfResult (.halfImul h) s h (fun l => a l * b l)
    ∧ HalfResult (.halfIminI32 h) s h (fun l => BitVec.ofInt 32 (min (a l).toInt (b l).toInt))
    ∧ HalfResult (.halfImaxI32 h) s h (fun l => BitVec.ofInt 32 (max (a l).toInt (b l).toInt))
    ∧ HalfResult (.halfIminN32 h) s h (fun l => BitVec.ofNat 32 (min (a l).toNat (b l).toNat))
    ∧ HalfResult (.halfImaxN32 h) s h (fun l => BitVec.ofNat 32 (max (a l).toNat (b l).toNat))
    ∧ HalfResult (.halfShl h) s h (fun l => a l <<< n l) ∧ HalfResult (.halfShr h) s h (fun l => a l >>> n l)
    ∧ HalfResult (.halfSra h) s h (fun l => (a l).sshiftRight (n l))
    ∧ HalfResult (.halfAnd h) s h (fun l => a l &&& b l) ∧ HalfResult (.halfOr h) s h (fun l => a l ||| b l)
    ∧ HalfResult (.halfXor h) s h (fun l => a l ^^^ b l) ∧ HalfResult (.halfMov h) s h b
    ∧ HalfResult (.halfFadd h) s h (fun l => faddCode .f32 .rn (a l) (b l))
    ∧ HalfResult (.halfFsub h) s h (fun l => fsubCode .f32 .rn (a l) (b l))
    ∧ HalfResult (.halfFmul h) s h (fun l => fmulCode .f32 .rn (a l) (b l))
    ∧ HalfResult (.halfFmin h) s h (fun l => lesser .f32 (a l) (b l)) ∧ HalfResult (.halfFmax h) s h (fun l => greater .f32 (a l) (b l))
    ∧ HalfResult (.halfHadd2F16 h) s h (two (faddCode .f16 .rn)) ∧ HalfResult (.halfHsub2F16 h) s h (two (fsubCode .f16 .rn))
    ∧ HalfResult (.halfHmul2F16 h) s h (two (fmulCode .f16 .rn)) ∧ HalfResult (.halfHmin2F16 h) s h (two (lesser .f16))
    ∧ HalfResult (.halfHmax2F16 h) s h (two (greater .f16))
    ∧ HalfResult (.halfHadd2B16 h) s h (two (faddCode .b16 .rn)) ∧ HalfResult (.halfHsub2B16 h) s h (two (fsubCode .b16 .rn))
    ∧ HalfResult (.halfHmul2B16 h) s h (two (fmulCode .b16 .rn)) ∧ HalfResult (.halfHmin2B16 h) s h (two (lesser .b16))
    ∧ HalfResult (.halfHmax2B16 h) s h (two (greater .b16))

/-- R75, R121: the shape of a result written in every lane: U from sources that are all U; A from the sums, differences, products (of
A by U or U by A) and shifts of A that the rule lists, from MOV, and from LEA of U and A sources with an A among them; G from LEA of a
G source, from SEL, SHFL and VWIDEN.
R79, R83: a kill bit ends the register's life once the word has read it, so it reads as U(0) whatever was on its way to it;
a killed destination stays as written. -/
def Obligations.ShapesAndLives : Prop :=
  (
    ∀ (s : State) (c : Ctl) (r : Nat) (a b : Opnd), Issuing s → s.unheld r → s.active c = allOnes32 →
      let shapeAfter (i : Instr) : Shaped := match exec i s with | .next t => t.g.final.reg r | _ => .g []
      let d : Opnd := .v r
      (∀ b1 s1 b2 s2, (s.isU a && s.isU b) = false → (s.shape a).affine = some (b1, s1) → (s.shape b).affine = some (b2, s2) →
          (∀ t, (Instr.iaddRegisters c d a b t false false).wf = true →
            shapeAfter (.iaddRegisters c d a b t false false) = .a (b1 + b2) (s1 + s2))
          ∧ ∀ t, (Instr.isub c d a b t false false).wf = true → shapeAfter (.isub c d a b t false false) = .a (b1 - b2) (s1 - s2))
      ∧ (∀ b1 s1 x, s.shape a = .a b1 s1 → s.shape b = .u x →
          ((Instr.imulRegisters c d a b).wf = true → shapeAfter (.imulRegisters c d a b) = .a (b1 * x) (s1 * x))
          ∧ ((Instr.shlRegisters c d a b).wf = true →
              shapeAfter (.shlRegisters c d a b) = .a (b1 <<< (x.toNat % 32)) (s1 <<< (x.toNat % 32)))
          ∧ ((Instr.mov c d a false).wf = true → shapeAfter (.mov c d a false) = .a b1 s1))
      ∧ (∀ x b1 s1, s.shape a = .u x → s.shape b = .a b1 s1 → (Instr.imulRegisters c d a b).wf = true →
          shapeAfter (.imulRegisters c d a b) = .a (x * b1) (x * s1))
      ∧ (∀ e n, (Instr.leaRegisters c d a b e n).wf = true →
          let i : Instr := .leaRegisters c d a b e n
          ((s.isU a && s.isU b && s.isU e) = true → (shapeAfter i).isU = true)
          ∧ (∀ b1 s1 b2 s2 b3 s3, (s.isU a && s.isU b && s.isU e) = false → (s.shape a).affine = some (b1, s1) →
            (s.shape b).affine = some (b2, s2) → (s.shape e).affine = some (b3, s3) →
            shapeAfter i = .a (b1 * 2 ^ n.toNat + b2 + b3) (s1 * 2 ^ n.toNat + s2 + s3))
          ∧ ((s.shape a).affine = none ∨ (s.shape b).affine = none ∨ (s.shape e).affine = none → (shapeAfter i).code = 3))
      ∧ (∀ imm n, (Instr.leaImmediate c d a imm n).wf = true →
          let i : Instr := .leaImmediate c d a imm n
          (s.isU a = true → (shapeAfter i).isU = true)
          ∧ (∀ b1 s1, s.shape a = .a b1 s1 → shapeAfter i = .a (b1 * 2 ^ n.toNat + imm.signExtend 32) (s1 * 2 ^ n.toNat))
          ∧ ((s.shape a).affine = none → (shapeAfter i).code = 3))
      ∧ ((s.isU a && s.isU b) = true →
          ((Instr.imulRegisters c d a b).wf = true → (shapeAfter (.imulRegisters c d a b)).isU = true)
          ∧ ((Instr.xorRegisters c d a b).wf = true → (shapeAfter (.xorRegisters c d a b)).isU = true)
          ∧ ∀ rm, (Instr.faddRegisters c d a b rm false).wf = true → (shapeAfter (.faddRegisters c d a b rm false)).isU = true)
      ∧ (∀ b1 s1, s.shape a = .a b1 s1 →
          ((Instr.xorRegisters c d a b).wf = true → (shapeAfter (.xorRegisters c d a b)).code = 3)
          ∧ ∀ t, (Instr.iaddRegisters c d a b t true false).wf = true → (shapeAfter (.iaddRegisters c d a b t true false)).code = 3)
      ∧ ((Instr.vwiden c d a).wf = true → (shapeAfter (.vwiden c d a)).code = 3)
      ∧ (∀ p neg, (Instr.sel c d a b p neg false).wf = true → (shapeAfter (.sel c d a b p neg false)).code = 3)
      ∧ ∀ mode seg, (Instr.shfl c d a b mode seg).wf = true → (shapeAfter (.shfl c d a b mode seg)).code = 3)
  ∧ (
    ∀ (s : State) (c : Ctl) (d a : Opnd) (r : Nat), Issuing s → s.unheld r → s.active c ≠ 0 → c.ka = true → a = .v r → d ≠ .v r →
      (Instr.mov c d a false).wf = true →
      ∃ t, exec (.mov c d a false) s = .next t ∧ t.g.final.reg r = .u 0 ∧ t.g.final.code r = 0
        ∧ ∀ q, d = .v q → s.unheld q → ∀ l, l < 32 → (s.active c).getLsbD l = true → t.endV q l = s.rd a l)

/-- R137 to R140, R368: the active threads of a transfer stand at their targets with no clause open, runnable from the third
cycle after the word; CALL and CALLX link the address of the next word; RET returns a thread whose target is its handler link to
its resume address with its clause position. The targets' checks find them good.
R61, R137, R355: a target that is not canonical, not a multiple of 8, or that holds no header fails, and the word traps BADTARGET with
the threads whose target fails and the lowest one's target. Where no other thread of the group is left to go on, that is all; otherwise
those threads are trapped, for a teardown that comes later, and the others go on unaffected: the active ones to their targets. While the
fetch of a target is delayed no word of transfer issues (R362). (Which target the record names where they differ is the model's choice,
log 67.) -/
def Obligations.TransfersOfControl : Prop :=
  (
    ∀ (s : State) (c : Ctl), Issuing s → s.active c ≠ 0 →
      let go (tgt : Nat → W64) : Nat → Thread → Thread := s.thenAt (s.active c) fun l t =>
        { t with pc := (tgt l).toNat % 2 ^ 57, left := 0, wait := .redir (s.cur.last + 3) }
      let link : W64 := (BitVec.ofNat 57 (s.cur.pc + 8)).signExtend 64
      let rel (imm : BitVec 26) : W64 := (BitVec.ofNat 57 s.cur.pc + imm.signExtend 57 * 8).signExtend 64
      (∀ imm u, s.checkTargets [rel imm] = (u, [], false) →
        ∃ t, exec (.bra c imm) s = .next t ∧ Steers (.bra c imm) s u t [] [] (go fun _ => rel imm) s.g.join)
      ∧ (∀ a u, (Instr.brx c a).wf = true → s.checkTargets (s.targets (s.active c) (s.rd64 a) false) = (u, [], false) →
        ∃ t, exec (.brx c a) s = .next t ∧ Steers (.brx c a) s u t [] [] (go (s.rd64 a)) s.g.join)
      ∧ (∀ r imm u, (Instr.call c (.v r) imm).wf = true → s.checkTargets [rel imm] = (u, [], false) →
        ∃ t, exec (.call c (.v r) imm) s = .next t ∧ Steers (.call c (.v r) imm) s u t [r, r + 1] [] (go fun _ => rel imm) s.g.join
          ∧ EndsV s t r (s.active c) (fun _ => link.setWidth 32) ∧ EndsV s t (r + 1) (s.active c) fun _ => link.extractLsb' 32 32)
      ∧ (∀ r a u, (Instr.callx c (.v r) a).wf = true → s.checkTargets (s.targets (s.active c) (s.rd64 a) false) = (u, [], false) →
        ∃ t, exec (.callx c (.v r) a) s = .next t ∧ Steers (.callx c (.v r) a) s u t [r, r + 1] [] (go (s.rd64 a)) s.g.join
          ∧ EndsV s t r (s.active c) (fun _ => link.setWidth 32) ∧ EndsV s t (r + 1) (s.active c) fun _ => link.extractLsb' 32 32)
      ∧ ∀ a u, (Instr.ret c a).wf = true → s.checkTargets (s.targets (s.active c) (s.rd64 a) true) = (u, [], false) →
        ∃ t, exec (.ret c a) s = .next t ∧ Steers (.ret c a) s u t [] []
          (s.thenAt (s.active c) fun l t =>
            if (s.g.thread l).isReturn (s.rd64 a l) then
              { t with pc := t.resume, seta := t.rseta, setb := t.rsetb, left := t.rleft, level := false, wait := .redir (s.cur.last + 3) }
            else { t with pc := (s.rd64 a l).toNat % 2 ^ 57, left := 0, wait := .redir (s.cur.last + 3) }) s.g.join)
  ∧ (
    (∀ s : State, ∀ v : W64, canonical v.toNat = false ∨ v.toNat % 8 ≠ 0 → s.goodTarget v = (s, some false))
    ∧ (∀ (s u : State) (v w : W64), canonical v.toNat = true → v.toNat % 8 = 0 →
        s.fetch s.cur.core s.g.quad s.tm.ctx (v.toNat % 2 ^ 57) = (u, .ok w) → s.goodTarget v = (u, some (isHeader w).isSome))
    ∧ ∀ (s : State) (c : Ctl),
      let fails (u : State) (bad : List W64) (tgt : Nat → W64) (ret : Bool) (o : Out) : Prop :=
        let rets := s.returns (s.active c) tgt ret
        let m := maskOf fun l => (s.active c).getLsbD l && !rets.getLsbD l && bad.contains (tgt l)
        (u.goesOn u.cur.core u.cur.slot m = false → o = .next (u.trapW 4 m (tgt (firstLane m)).toNat u.cur.word.toNat 0))
        ∧ (Issuing s → u.goesOn u.cur.core u.cur.slot m = true → ∃ t, o = .next t
          ∧ (∃ d ∈ t.doomsWith s.tm.launch, d.2.core = s.cur.core ∧ d.2.slot = s.cur.slot ∧ d.2.alloc = s.g.alloc)
          ∧ ∀ l, l < 32 → t.g.thread l =
            let h := s.g.thread l
            if m.getLsbD l then { h with wait := .trapped }
            else if !(s.active c).getLsbD l then (if s.cur.mask.getLsbD l then h.past else h)
            else if rets.getLsbD l then
              { h with pc := h.resume, seta := h.rseta, setb := h.rsetb, left := h.rleft, level := false, wait := .redir (s.cur.last + 3) }
            else { h with pc := (tgt l).toNat % 2 ^ 57, left := 0, wait := .redir (s.cur.last + 3) })
      (∀ imm u bad, s.checkTargets (s.targets (s.active c) (fun _ => s.relTarget imm) false) = (u, bad, false) → bad ≠ [] →
        fails u bad (fun _ => s.relTarget imm) false (exec (.bra c imm) s) ∧ ∀ d, fails u bad (fun _ => s.relTarget imm) false (exec (.call c d imm) s))
      ∧ (∀ a u bad, s.checkTargets (s.targets (s.active c) (s.rd64 a) false) = (u, bad, false) → bad ≠ [] →
        fails u bad (s.rd64 a) false (exec (.brx c a) s) ∧ ∀ d, fails u bad (s.rd64 a) false (exec (.callx c d a) s))
      ∧ (∀ a u bad, s.checkTargets (s.targets (s.active c) (s.rd64 a) true) = (u, bad, false) → bad ≠ [] →
        fails u bad (s.rd64 a) true (exec (.ret c a) s))
      ∧ (∀ imm u bad, s.checkTargets (s.targets (s.active c) (fun _ => s.relTarget imm) false) = (u, bad, true) →
        exec (.bra c imm) s = .next u.stalled ∧ ∀ d, exec (.call c d imm) s = .next u.stalled)
      ∧ (∀ a u bad, s.checkTargets (s.targets (s.active c) (s.rd64 a) false) = (u, bad, true) →
        exec (.brx c a) s = .next u.stalled ∧ ∀ d, exec (.callx c d a) s = .next u.stalled)
      ∧ ∀ a u bad, s.checkTargets (s.targets (s.active c) (s.rd64 a) true) = (u, bad, true) → exec (.ret c a) s = .next u.stalled)

/-- R143 to R148: JSET sets a mask to the active threads or to the first active lane's value, JARR and JDROP take the active
threads out of it, JREAD reads it; only threads that have not exited count; a mask that becomes 0 frees the threads that wait at
a JARR on it from the next cycle, at the word after. JARR leaves its active threads waiting while others are to come. -/
def Obligations.RejoinMasks : Prop :=
  ∀ (s : State) (c : Ctl) (n : BitVec 4), Issuing s →
    let act := s.active c
    let put (v : W32) (k : Nat) : W32 := if k = n.toNat then v &&& s.g.present else s.g.join k
    let free (v : W32) (t : Thread) : Thread := if v &&& s.g.present = 0 ∧ t.wait = .jarr n.toNat then t.freed s.cur.last else t
    let rest (v : W32) (l : Nat) (t : Thread) : Thread := if s.cur.mask.getLsbD l then t.past else free v t
    (∀ d, OneResult (.jread c d n) s d act (s.g.join n.toNat))
    ∧ (Standing s → act ≠ 0 →
      (∃ t, exec (.jset c n none) s = .next t ∧ Steers (.jset c n none) s s t [] [] (rest act) (put act))
      ∧ (∀ a, (Instr.jset c n (some a)).wf = true →
        let v := s.rd a (firstLane act)
        ∃ t, exec (.jset c n (some a)) s = .next t ∧ Steers (.jset c n (some a)) s s t [] [] (rest v) (put v))
      ∧ (let v := s.g.join n.toNat &&& ~~~act
        ∃ t, exec (.jdrop c n) s = .next t ∧ Steers (.jdrop c n) s s t [] [] (rest v) (put v))
      ∧ (let v := s.g.join n.toNat &&& ~~~act
        ∃ t, exec (.jarr c n) s = .next t ∧ Steers (.jarr c n) s s t [] []
          (fun l t => if act.getLsbD l then (let w := { t with left := t.left - 1, wait := .jarr n.toNat }
                                             if v &&& s.g.present = 0 then w.freed s.cur.last else w)
            else rest v l t) (put v)))

/-- R56 to R60, R149, R150, R366: a NOP only goes on; WAITF and a clause header let threads by when no flag they name is set, and
hold them when one is; one whose flag holds an error traps ASYNCFAULT with the fault that came first; SLEEP holds its threads
for the cycles of its operand; a header opens its clause with its SETA, SETB and length.
R141, R148: EXIT ends the active threads: they are gone from every rejoin mask; a mask that this empties frees the threads
that wait on it; the group's slot is free when no thread is left and no fault of its commands is still to be reported. -/
def Obligations.WaitsHeadersAndExits : Prop :=
  (
    ∀ (s : State) (c : Ctl), Issuing s →
      let act := s.active c
      let anySet (m : BitVec 12) : Bool := (List.range 12).any fun f => m.getLsbD f && (s.g.flag f).isSet (s.now s.cur.core)
      let noErr (m : BitVec 12) : Prop := ∀ f, f < 12 → m.getLsbD f = true → (s.g.flag f).errs = []
      (∃ t, exec (.nop c) s = .next t ∧ Steers (.nop c) s s t [] [] (s.thenAt 0 fun _ t => t) s.g.join)
      ∧ (∀ m, noErr m → anySet m = false ∨ act = 0 →
        ∃ t, exec (.waitf c m) s = .next t ∧ Steers (.waitf c m) s s t [] [] (s.thenAt 0 fun _ t => t) s.g.join)
      ∧ (∀ m, noErr m → anySet m = true → act ≠ 0 →
        ∃ t, exec (.waitf c m) s = .next t ∧ Steers (.waitf c m) s s t [] []
          (s.thenAt act fun _ t => { t with left := t.left - 1, wait := .waitf m.toNat }) s.g.join)
      ∧ (∀ m ti, act ≠ 0 → State.firstErr s.g m.toNat = some ti →
        exec (.waitf c m) s = .next (s.trap s.cur.core s.cur.slot { ti with lanes := act }))
      ∧ (∀ a, (Instr.sleep c a).wf = true → act ≠ 0 →
        ∃ t, exec (.sleep c a) s = .next t ∧ Steers (.sleep c a) s s t [] []
          (s.thenAt act fun _ t => { t.past with wait := .sleep (s.cur.last + 1 + (s.rd a (firstLane act)).toNat % 65536) }) s.g.join)
      ∧ (∀ w sa sb n, noErr w → anySet w = false →
        ∃ t, exec (.clauseHeader w sa sb n) s = .next t ∧ Steers (.clauseHeader w sa sb n) s s t [] []
          (fun l t => if s.cur.mask.getLsbD l then { t with pc := pcMod (t.pc + 8), seta := sa.toNat, setb := sb.toNat, left := n.toNat } else t)
          s.g.join)
      ∧ (∀ w sa sb n, noErr w → anySet w = true → exec (.clauseHeader w sa sb n) s = .next s)
      ∧ ∀ w sa sb n ti, State.firstErr s.g w.toNat = some ti →
        exec (.clauseHeader w sa sb n) s = .next (s.trap s.cur.core s.cur.slot { ti with lanes := s.cur.mask }))
  ∧ (
    ∀ (s : State) (c : Ctl), Issuing s → Standing s → s.active c ≠ 0 →
      let act := s.active c
      let left := s.g.present &&& ~~~act
      ∃ t, exec (.exit c) s = .next t
        ∧ (left ≠ 0 → t = { s with cores := t.cores }
          ∧ (∀ k j, (k, j) ≠ (s.cur.core, s.cur.slot) → t.group? k j = s.group? k j)
          ∧ (∀ n, n < 16 → t.g.join n = s.g.join n &&& left) ∧ t.g.present = left
          ∧ (∀ l, l < 32 → t.g.thread l =
              if act.getLsbD l then { (s.g.thread l).past with wait := .empty }
              else if s.cur.mask.getLsbD l then (s.g.thread l).past
              else match (s.g.thread l).wait with
                | .jarr n => if n < 16 ∧ s.g.join n ≠ 0 ∧ s.g.join n &&& left = 0 then (s.g.thread l).freed s.cur.last else s.g.thread l
                | _ => s.g.thread l)
          ∧ (∀ r l, l < 32 → t.endV r l = s.endV r l) ∧ (∀ r, t.endS r = s.endS r) ∧ ∀ p l, p < 7 → t.endP p l = s.endP p l)
        ∧ (left = 0 → (∀ f, f < 12 → (s.g.flag f).errs = []) → t.group? s.cur.core s.cur.slot = none))

/-- R86, R87, R220: what a class-L word with active lanes leaves as it issues (`State.sent`): one more command of its core, with
the word's registers pending and its flag counting one more; the word's kills done and its threads at the next word. Nothing else
changes, no register among the rest. -/
def Obligations.CommandIssue : Prop :=
  ∀ (s : State) (i : Instr) (tb : OpTab) (act : W32) (k : OpKind), i.tab = some tb → Issuing s → act ≠ 0 →
    let t := s.sent i act k
    (∃ o : POp, (t.core s.cur.core).ops = (s.core s.cur.core).ops ++ [o] ∧ o.id = s.serial ∧ o.kind = k ∧ o.slot = s.cur.slot
      ∧ o.tag = (aget (s.core s.cur.core).tags s.cur.slot).getD 0 ∧ o.pc = s.cur.pc ∧ o.lanes = act ∧ o.team = s.g.team
      ∧ o.vdest = tb.vwrites ∧ o.sdest = tb.swrites.head? ∧ o.flag = s.flagOf tb.ctl)
    ∧ t = { s with cores := t.cores, serial := s.serial + 1 }
    ∧ (∀ c, t.core c = { s.core c with slots := (t.core c).slots, ops := (t.core c).ops })
    ∧ (∀ c, c ≠ s.cur.core → (t.core c).ops = (s.core c).ops)
    ∧ (∀ c j, (c, j) ≠ (s.cur.core, s.cur.slot) → t.group? c j = s.group? c j)
    ∧ (∀ f, f < 12 → (t.g.flag f).count = (s.g.flag f).count + (if s.flagOf tb.ctl = some f then 1 else 0)
      ∧ (t.g.flag f).errs = (s.g.flag f).errs)
    ∧ (∀ l, l < 32 → t.g.thread l = if s.cur.mask.getLsbD l then (s.g.thread l).past else s.g.thread l)
    ∧ (∀ r l, l < 32 → r ∉ Instr.kills i → t.endV r l = s.endV r l) ∧ (∀ r, t.endS r = s.endS r)
    ∧ (∀ p l, p < 7 → t.endP p l = s.endP p l) ∧ ∀ n, n < 16 → t.g.join n = s.g.join n

/-- R86 to R88, R200, R226, R333: a command completes: it is outstanding no longer, its results are written, its flag counts one
less and is seen clear from the next cycle; of a group that has left its slot the return is dropped and counted. A release waits
for its records, and for a region it writes to that is being moved (R287); a fabric transfer that failed puts its flag in error; one without an answer goes on waiting.
R88: of a group that has left its slot, a command's return is dropped and counted. -/
def Obligations.CommandCompletes : Prop :=
  (
    ∀ (s : State) (c : Nat) (o : POp) (g : Group), s.op? c o.id = some o → s.group? c o.slot = some g →
      (aget (s.core c).tags o.slot).getD 0 = o.tag → g.saveRec = none → g.saved = false →
      let out := exec (.classLCompletion c o.id) s
      let flags (n : Nat) : List FlagSt → List FlagSt := fun l => vset 12 {} l n fun x => { x with count := x.count - 1, clearAt := s.now c + 1 }
      (∀ wbs, o.kind = .done wbs → ∃ t, out = .next t ∧ t = { s with cores := t.cores } ∧ t.op? c o.id = none
        ∧ (∀ j q, j ≠ o.id → q ∈ (s.core c).ops → q.id = j → q ∈ (t.core c).ops)
        ∧ (∀ d j, (d, j) ≠ (c, o.slot) → t.group? d j = s.group? d j)
        ∧ t.group? c o.slot = some (let h := wbs.foldl Group.land g
            match o.flag with | some f => { h with flags := flags f h.flags } | none => h))
      ∧ (∀ ws recs syncs sc acq, o.kind = .release ws recs syncs sc acq →
          (s.recs.any fun r => recs.contains r.id) = true ∨ (∃ w ∈ ws, s.movesAt w.pa = true) → out = .next s)
      ∧ (∀ ws recs syncs sc acq, o.kind = .release ws recs syncs sc acq → (s.recs.any fun r => recs.contains r.id) = false →
          (∀ w ∈ ws, s.movesAt w.pa = false) → ∃ t, out = .next t ∧ t.op? c o.id = none)
      ∧ (∀ n wbs, o.kind = .stamp n wbs → (s.team o.team).owed.any (·.id == n) = true → out = .next s)
      ∧ (∀ x, o.kind = .fabric x → x.err = none → x.got = none → x.posted = false → out = .next s)
      ∧ (∀ x, o.kind = .fabric x → x.err = none → (x.got.isSome || x.posted) = true →
          ∃ t, out = .next t ∧ t.op? c o.id = none ∧ (t.port x.port).outstanding.any (·.1 == x.seq) = false)
      ∧ ∀ x f cause off va, o.kind = .fabric x → o.flag = some f → f < 12 → x.err = some (cause, off, va) →
          ∃ t h, out = .next t ∧ t.op? c o.id = none ∧ t.group? c o.slot = some h
            ∧ ∃ n ti, (h.flag f).errs = (g.flag f).errs ++ [(n, ti)] ∧ ti.cause = 0x0A ∧ ti.pc = o.pc ∧ ti.va = va
              ∧ ti.x0 = BitVec.ofNat 64 (cause + 256 * x.port) ∧ ti.x1 = BitVec.ofNat 64 off)
  ∧ (
    ∀ (s : State) (c : Nat) (o : POp) (wbs : List Wb), s.op? c o.id = some o → o.kind = .done wbs →
      (∀ g, s.group? c o.slot = some g → (aget (s.core c).tags o.slot).getD 0 ≠ o.tag ∧ g.saveRec = none ∧ g.saved = false) →
      ∃ t, exec (.classLCompletion c o.id) s = .next t ∧ t = { s with cores := t.cores } ∧ t.op? c o.id = none
        ∧ (∀ d j, t.group? d j = s.group? d j)
        ∧ (aget (t.core c).counters 0x100).getD 0 = (aget (s.core c).counters 0x100).getD 0 + 1)

/-- R223: the checks of one word pass in every lane when each lane's address is canonical, aligned, translated and permitted, and
meets no input range of an AUDIT kernel on a write; the spots are the lanes in order at their physical addresses.
R223, R361: the checks of a word fail at the earliest check any lane fails, with just the lanes that fail it and the lowest one's
address; at most an A bit of a table entry is set meanwhile (R273). A load, a store, an atomic or a line operation whose checks fail traps
with that check's cause, those lanes and that address, and has none of its effect; so does a load with an address that is not
canonical, or not aligned. -/
def Obligations.ChecksOfAccess : Prop :=
  (
    ∀ (s : State) (w : Who) (k : AccKind) (align size : Nat) (l : List (Nat × Nat)) (tr : Nat → TlbEntry),
      s.migrating = [] → (∀ x, (s.stack x).moving = false) →
      (∀ p ∈ l, canonical p.2 = true ∧ p.2 % align = 0
        ∧ ((s.tlbOf w).find? fun e => e.hits (s.ctx w.ctx).asid p.2 && (!k.writes || e.perm.testBit 7)) = some (tr p.2)
        ∧ s.visible ((tr p.2).ppn + p.2 % 2 ^ (tr p.2).bits) = true
        ∧ (tr p.2).permits (!(s.ctx w.ctx).super) k = true
        ∧ (k.writes = true → (s.descOf w).audit = true → (s.descOf w).meets p.2 size = false)) →
      s.checkAll w k align size l noDet =
        (s, .ok (l.map fun p => { lane := p.1, va := p.2, tr := tr p.2, pa := (tr p.2).ppn + p.2 % 2 ^ (tr p.2).bits })))
  ∧ (
    (∀ (s : State) (w : Who) (k : AccKind) (align size : Nat) (l : List (Nat × Nat)) (X : Nat → Except Bool TlbEntry) (D : Nat → Bool) (c : Nat),
      (∀ p ∈ l, s.xlate w p.2 k = (s, X p.2)) →
      let fails (va : Nat) : Option Nat :=
        if !canonical va then some 1 else if va % align ≠ 0 then some 2
        else match X va with
          | .error _ => some 3
          | .ok e =>
            if !e.permits (!(s.ctx w.ctx).super) k then some 4
            else if k.writes && (s.descOf w).audit && (s.descOf w).meets va size then some 5
            else if D (e.ppn + va % 2 ^ e.bits) then some 6 else none
      (∃ p ∈ l, fails p.2 = some c) → (∀ p ∈ l, ∀ d, fails p.2 = some d → c ≤ d) →
      ∃ wk, s.checkAll w k align size l (fun _ => D) = (s, .hard c (maskOf fun i => l.any fun p => p.1 == i && fails p.2 == some c)
        (((l.filter fun p => fails p.2 == some c).map (·.2)).headD 0) wk) ∧ (wk = true → c = 3))
    ∧ (∀ (s u : State) (w : Who) (k : AccKind) (align size : Nat) (l : List (Nat × Nat)) (det : List Nat → Nat → Bool) (c va : Nat) (m : W32)
        (wk : Bool), Memory.wf s.mem = true → s.checkAll w k align size l det = (u, .hard c m va wk) →
      (∀ x y, u.group? x y = s.group? x y) ∧ ∀ a, memGet u.mem a = memGet s.mem a ∨ memGet u.mem a = memGet s.mem a ||| 0x40)
    ∧ (∀ (s u : State) (c : Ctl) (n va : Nat) (m : W32) (wk : Bool), s.active c ≠ 0 →
      let act := s.active c
      let f := firstLane act
      let at_ (g : Nat → Nat) : List (Nat × Nat) := (lanesOf act).map fun l => (l, g l)
      let traps (i : Instr) (kind : Nat) : Prop :=
        (n ≠ 6 → exec i s = .next (u.trapW (match n with | 2 => 7 | 4 => 9 | 5 => 0x10 | _ => 8) m va (if wk then 7 else kind) 0))
        ∧ (n = 6 → ∃ r, exec i s = .next (u.trapW 0x11 m va r 0))
      let no : Chk := .hard n m va wk
      (∀ d a b sz sx h is, s.checkAll (s.who f) .load (Size.bytes sz) (Size.bytes sz) (at_ (s.vaddr a b is)) noDet = (u, no) →
        traps (.ld c d a b sz sx h is) 0)
      ∧ (∀ d a b w sc is, let k := if w then 8 else 4
        s.checkAll (s.who f) .load k k (at_ (s.vaddr a b is)) (fun _ pa => s.detAcq (s.who f) pa k) = (u, no) → traps (.lda c d a b w sc is) 0)
      ∧ (∀ d a b sz sx h, s.checkAll (s.who f) .load (Size.bytes sz) (Size.bytes sz) (at_ fun _ => s.sldAddr a b) noDet = (u, no) →
        traps (.sld c d a b sz sx h) 0)
      ∧ (∀ a b e sz h is, s.checkAll (s.who f) .store (Size.bytes sz) (Size.bytes sz) (at_ (s.vaddr a b is)) (s.detStore f) = (u, no) →
        traps (.st c a b e sz h is) 1)
      ∧ (∀ a b e w sc lz is, let k := if w then 8 else 4
        s.checkAll (s.who f) .store k k (at_ (s.vaddr a b is)) (s.detStore f) = (u, no) → traps (.strel c a b e w sc lz is) 1)
      ∧ (∀ a b e sz h, s.checkAll (s.who f) .store (Size.bytes sz) (Size.bytes sz) (at_ fun _ => s.sldAddr a b) (s.detStore f) = (u, no) →
        traps (.sst c a b e sz h) 1)
      ∧ (∀ d a k, (tsrOf (((blockRegs k).map s.srd).map BitVec.toNat)).isOk = true →
        s.checkAll (s.who f) .store 64 64 (at_ fun _ => (s.rd64 a f).toNat) (s.detStore f) = (u, no) → traps (.tsrset c d a k) 1)
      ∧ (∀ d a e op w sc ord, let k := if w then 8 else 4
        s.checkAll (s.who f) .atomic k k (at_ fun l => (s.rd64 a l).toNat) (s.atomBad f op (d != .zero) ord k) = (u, no) →
        traps (.atom c d a e op w sc ord) 2)
      ∧ (∀ a e op w sc ord, let k := if w then 8 else 4
        let s' := s.noAudit (s.who f)
        s'.checkAll (s'.who f) .atomic k k (at_ fun l => (s.rd64 a l).toNat) (s'.atomBad f op false ord k) = (u, no) → traps (.red c a e op w sc ord) 2)
      ∧ ∀ a b is len, s.checkAll (s.who f) .line 1 1 (s.lineList act a b is len) noDet = (u, no) →
        traps (.publish c a b is len) AccKind.line.code ∧ traps (.clean c a b is len) AccKind.line.code ∧ traps (.inval c a b is len) AccKind.line.code)
    ∧ ∀ (s : State) (c : Ctl) (d a b : Opnd) (sz : Size) (sx is : Bool) (h : Hint), s.active c ≠ 0 →
      let act := s.active c
      let bad := maskOf fun l => act.getLsbD l && !canonical (s.vaddr a b is l)
      let odd := maskOf fun l => act.getLsbD l && s.vaddr a b is l % (Size.bytes sz) != 0
      (bad ≠ 0 → ∃ u : State, exec (.ld c d a b sz sx h is) s = .next (u.trapW 8 bad (s.vaddr a b is (firstLane bad)) 0 0) ∧ u.g = s.g)
      ∧ (bad = 0 → odd ≠ 0 → ∃ u : State, exec (.ld c d a b sz sx h is) s = .next (u.trapW 7 odd (s.vaddr a b is (firstLane odd)) 0 0) ∧ u.g = s.g))

/-- R222, R224, R225, R226, R228: loads whose checks pass, of bytes kept at their homes and not poisoned: each lane's result is
the bytes at its address; no byte of memory changes, whatever the scope of an acquire; the loading group goes on.
R85, R86, R225: what a loaded value leaves in its registers as it is written: in the lanes it names, bytes and halves
extended, words little-endian, one register for each four bytes; in the others as it stood. A result of the register still on its
way to those lanes is lost. -/
def Obligations.LoadResults : Prop :=
  (
    ∀ (s u : State) (c : Ctl) (ps : List Spot), Issuing s → Ordinary s → u.plain →
      let act := s.active c
      let at_ (f : Nat → Nat) : List (Nat × Nat) := (lanesOf act).map fun l => (l, f l)
      let bytes (n : Nat) : List (Nat × List Byte) := ps.map fun p => (p.lane, (List.range n).map fun i => memGet u.mem (p.pa + i))
      let takes (i : Instr) (wbs : List Wb) : Prop :=
        ∃ v, exec i s = .next (v.sent i act (.done wbs)) ∧ v.mem = u.mem ∧ v.plain ∧ SameGroup s v
      act ≠ 0 →
      (∀ d a b sz sx h is, (Instr.ld c d a b sz sx h is).wf = true → AtHomes u ps (Size.bytes sz) →
        s.checkAll (s.who (firstLane act)) .load (Size.bytes sz) (Size.bytes sz) (at_ (s.vaddr a b is)) noDet = (u, .ok ps) →
        takes (.ld c d a b sz sx h is) (ldWbs d act (Size.bytes sz) sx (s.isUw a && s.isU b) (bytes (Size.bytes sz))))
      ∧ (∀ d a b w sc is, (Instr.lda c d a b w sc is).wf = true →
        let n := if w then 8 else 4
        AtHomes u ps n →
        s.checkAll (s.who (firstLane act)) .load n n (at_ (s.vaddr a b is)) (fun _ pa => s.detAcq (s.who (firstLane act)) pa n) = (u, .ok ps) →
        takes (.lda c d a b w sc is) (ldWbs d act n false (s.isUw a && s.isU b) (bytes n)))
      ∧ ∀ d a b sz sx h p q, (Instr.sld c d a b sz sx h).wf = true → ps = p :: q → AtHomes u [p] (Size.bytes sz) →
        s.checkAll (s.who (firstLane act)) .load (Size.bytes sz) (Size.bytes sz) (at_ fun _ => s.sldAddr a b) noDet = (u, .ok ps) →
        let bs := (List.range (Size.bytes sz)).map fun i => memGet u.mem (p.pa + i)
        takes (.sld c d a b sz sx h) [.sca d
          (if sx then (if sz = .b8 then (bs.getD 0 0).signExtend 64 else (bs.getD 1 0 ++ bs.getD 0 0).signExtend 64) else BitVec.ofNat 64 (leNat bs)) 0])
  ∧ (
    (∀ b : Byte, ldWord [b] true 0 = b.signExtend 32 ∧ ldWord [b] false 0 = b.setWidth 32)
    ∧ (∀ a b : Byte, ldWord [a, b] true 0 = (b ++ a).signExtend 32 ∧ ldWord [a, b] false 0 = (b ++ a).setWidth 32)
    ∧ (∀ (bs : List Byte) (sx : Bool) (i : Nat), bs.length % 4 = 0 → 4 * i + 4 ≤ bs.length →
        ldWord bs sx i = bs.getD (4 * i + 3) 0 ++ bs.getD (4 * i + 2) 0 ++ bs.getD (4 * i + 1) 0 ++ bs.getD (4 * i) 0)
    ∧ ∀ (g : Group) (r n i l : Nat) (act : W32) (sx u : Bool) (vals : List (Nat × List Byte)),
        i < regsOf n → l < 32 → act ≠ 0 → (u = true → ∀ a b, laneVal vals a = laneVal vals b) → (∀ h ∈ g.held, h.1 < r ∨ r + 4 ≤ h.1) → n ≤ 16 →
        let g' := (ldWbs (.v r) act n sx u vals).foldl Group.land g
        (g'.reg (r + i)).lane l = (if act.getLsbD l then ldWord (laneVal vals l) sx i else (g.reg (r + i)).lane l)
        ∧ (act.getLsbD l = true → (g'.final.reg (r + i)).lane l = ldWord (laneVal vals l) sx i)
        ∧ ∀ q, q < r ∨ r + 4 ≤ q → g'.reg q = g.reg q ∧ ∀ k, k < 32 → (g'.final.reg q).lane k = (g.final.reg q).lane k)

/-- R222, R224, R225, R226, R228, R237: stores whose checks pass, kept at their homes: memory is as the lanes' bytes laid over it
in lane order leave it, and every byte outside them reads as before; the storing group goes on. A release at a scope that reaches
other dies with nothing to publish has its writes to make when it completes, and stores nothing before. -/
def Obligations.StoreResults : Prop :=
  ∀ (s u : State) (c : Ctl) (ps : List Spot), Issuing s → Ordinary s → u.plain → s.active c ≠ 0 →
    let act := s.active c
    let f := firstLane act
    let at_ (g : Nat → Nat) : List (Nat × Nat) := (lanesOf act).map fun l => (l, g l)
    let lays (i : Instr) (k : OpKind) (n : Nat) (qs : List Spot) (b : Nat → List Byte) : Prop :=
      ∃ v, exec i s = .next (v.sent i act k) ∧ SameGroup s v
        ∧ v.mem = qs.foldl (fun m p => memWr m p.pa (b p.lane)) u.mem
        ∧ ∀ a, (∀ p ∈ qs, a < p.pa ∨ p.pa + n ≤ a) → memGet v.mem a = memGet u.mem a
    (∀ a b e sz h is, (Instr.st c a b e sz h is).wf = true → WritesHome u ps →
      s.checkAll (s.who f) .store (Size.bytes sz) (Size.bytes sz) (at_ (s.vaddr a b is)) (s.detStore f) = (u, .ok ps) →
      lays (.st c a b e sz h is) (.done []) (Size.bytes sz) ps (s.stBytes e (Size.bytes sz)))
    ∧ (∀ a b e w sc lz is, (Instr.strel c a b e w sc lz is).wf = true →
      let n := if w then 8 else 4
      s.checkAll (s.who f) .store n n (at_ (s.vaddr a b is)) (s.detStore f) = (u, .ok ps) →
      (wideSc sc = false → WritesHome u ps → lays (.strel c a b e w sc lz is) (.done []) n ps (s.stBytes e n))
      ∧ (wideSc sc = true → ∃ ws syncs, lays (.strel c a b e w sc lz is) (.release ws [] syncs sc false) n [] (s.stBytes e n)
          ∧ ws.map (fun w => (w.lane, w.pa, w.bytes)) = ps.map fun p => (p.lane, p.pa, s.stBytes e n p.lane)))
    ∧ (∀ a b e sz h p q, (Instr.sst c a b e sz h).wf = true → ps = p :: q → WritesHome u [p] →
      s.checkAll (s.who f) .store (Size.bytes sz) (Size.bytes sz) (at_ fun _ => s.sldAddr a b) (s.detStore f) = (u, .ok ps) →
      lays (.sst c a b e sz h) (.done []) (Size.bytes sz) [p] fun _ => leBytes (Size.bytes sz) (s.srd e).toNat)
    ∧ (∀ d a k p q, (Instr.tsrset c d a k).wf = true → ps = p :: q → WritesHome u [p] →
      let ws := (blockRegs k).map s.srd
      (tsrOf (ws.map BitVec.toNat)).isOk = true →
      s.checkAll (s.who f) .store 64 64 (at_ fun _ => (s.rd64 a f).toNat) (s.detStore f) = (u, .ok ps) →
      lays (.tsrset c d a k) (.done (wbOne d act 0)) 64 [p] fun _ => ws.flatMap fun w => leBytes 8 w.toNat)
    ∧ ∀ d a k j, tsrOf (((blockRegs k).map s.srd).map BitVec.toNat) = .error j →
      exec (.tsrset c d a k) s = .next (s.sent (.tsrset c d a k) act (.done (wbOne d act (BitVec.ofNat 32 (j + 1)))))

/-- R200, R226: a release whose records are acknowledged makes its writes at their homes as it completes: every byte outside them
reads as before. -/
def Obligations.ReleaseWrites : Prop :=
  ∀ (s : State) (c : Nat) (o : POp) (ws : List RelWrite) (syncs : List (Nat × Nat)) (sc : Scope), s.op? c o.id = some o →
    o.kind = .release ws [] syncs sc false → s.plain → (s.team o.team).desc.det = false → (s.team o.team).rerun = none →
    (∀ w ∈ ws, effCls w.tr.cls w.tr.pbmt ≠ 3 ∧ s.movesAt w.pa = false) →
    (∀ g, s.group? c o.slot = some g → g.saveRec = none ∧ g.saved = false) →
    ∃ t, exec (.classLCompletion c o.id) s = .next t ∧ t.op? c o.id = none
      ∧ t.mem = ws.foldl (fun m w => memWr m w.pa w.bytes) s.mem
      ∧ (∀ a, (∀ w ∈ ws, a < w.pa ∨ w.pa + w.bytes.length ≤ a) → memGet t.mem a = memGet s.mem a)
      ∧ ∀ p ∈ syncs, ∀ e, t.entry? p.1 = some e → p.2 ≤ e.done

/-- R172, R222, R227, R230: scratchpad accesses that are aligned and inside the team's scratchpad: loads give the bytes, stores lay
theirs in lane order, atomics perform lane after lane and give each lane the value before it; no full/empty bit and no other byte
changes. An access outside, or misaligned, traps with the lanes that fail; a plain load that meets an uncorrectable error traps UCE. -/
def Obligations.ScratchpadResults : Prop :=
  ∀ (s : State) (c : Ctl), Issuing s → s.active c ≠ 0 →
    let act := s.active c
    let t := s.g.team
    let good (f : Nat → Nat) (n : Nat) : Prop := ∀ l, l < 32 → act.getLsbD l = true → f l % n = 0 ∧ s.tm.inScratch (f l) n = true
    let at_ (a b : Opnd) (l : Nat) : Nat := (s.rd a l + s.rd b l).toNat
    let sound (f : Nat → Nat) (n : Nat) : Prop := ∀ l, l < 32 → act.getLsbD l = true → s.scHurt t (f l) n = false
    let only (v : State) (m : List Host.Cell) : Prop :=
      SameGroup s v ∧ v = { s with teams := v.teams, cores := v.cores }
      ∧ v.tm = { s.tm with scratch := m, scPoison := v.tm.scPoison, threads := v.tm.threads, folds := v.tm.folds, wrote := v.tm.wrote }
      ∧ ∀ q, q ≠ t → v.team q = s.team q
    (∀ d a b sz sx, s.tm.copying = [] → good (at_ a b) (Size.bytes sz) → sound (at_ a b) (Size.bytes sz) →
      exec (.lds c d a b sz sx .plain) s = .next (s.sent (.lds c d a b sz sx .plain) act (.done (ldWbs d act (Size.bytes sz) sx
        (s.isU a && s.isU b) ((lanesOf act).map fun l => (l, (List.range (Size.bytes sz)).map fun i => s.scByte t (at_ a b l + i)))))))
    ∧ (∀ a b e sz, (Instr.sts c a b e sz false).wf = true → s.tm.blocks = [] → good (at_ a b) (Size.bytes sz) →
      ∃ v, exec (.sts c a b e sz false) s = .next (v.sent (.sts c a b e sz false) act (.done []))
        ∧ only v ((lanesOf act).foldl (fun m l => memWr m (at_ a b l) (s.stBytes e (Size.bytes sz) l)) s.tm.scratch)
        ∧ ∀ x, (∀ l, l < 32 → act.getLsbD l = true → x < at_ a b l ∨ at_ a b l + Size.bytes sz ≤ x) → v.scByte t x = s.scByte t x)
    ∧ (∀ d a e op w sc ord, s.tm.blocks = [] →
      let n := if w then 8 else 4
      good (fun l => (s.rd a l).toNat) n → sound (fun l => (s.rd a l).toNat) n →
      let r := (lanesOf act).foldl (fun (q : List (Nat × List Byte) × List Host.Cell) l =>
        let bs := memRd q.2 (s.rd a l).toNat n
        let v := s.atomArg op w e l
        (q.1 ++ [(l, bs)], memWr q.2 (s.rd a l).toNat (leBytes n (atomNew op w (BitVec.ofNat 64 (leNat bs)) v.1 v.2).toNat))) ([], s.tm.scratch)
      ∃ v, exec (.atoms c d a e op w sc ord) s =
          .next (v.sent (.atoms c d a e op w sc ord) act (.done (ldWbs d act n false false r.1))) ∧ only v r.2)
    ∧ ∀ d a b sz sx m,
      let n := Size.bytes sz
      let odd := maskOf fun l => act.getLsbD l && at_ a b l % n != 0
      let out := maskOf fun l => act.getLsbD l && !s.tm.inScratch (at_ a b l) n
      (odd ≠ 0 → exec (.lds c d a b sz sx m) s = .next (s.trapW 7 odd (at_ a b (firstLane odd)) 4 0))
      ∧ (odd = 0 → out ≠ 0 → exec (.lds c d a b sz sx m) s = .next (s.trapW 8 out (at_ a b (firstLane out)) 4 0))
      ∧ let hurt := maskOf fun l => act.getLsbD l && s.scHurt t (at_ a b l) n
        (m = .plain → s.tm.blocks = [] → odd = 0 → out = 0 → hurt ≠ 0 → ∃ ti : TrapInfo, ti.cause = 0x0E ∧ ti.lanes = act
          ∧ ti.va = at_ a b (firstLane hurt) ∧ ti.x0 = 3 ∧ exec (.lds c d a b sz sx m) s = .next (s.trap s.cur.core s.cur.slot ti))

/-- R206, R224, R229, R230: global atomics whose checks pass, on lines kept at their homes: each lane's operation is performed at
the home, lane after lane, whatever the order and scope; ATOM gives each lane the value before its own, RED none. ATOMS completes where
every lane is aligned, inside the team's scratchpad and meets no uncorrectable byte; bytes outside its lanes', and every full/empty bit,
stay, and a lane that shares none of its bytes leaves the new value there.
R230: the value an atomic leaves, at both widths: integer and logic operations, exchange, compare and swap, and FP32
operations on the low half. -/
def Obligations.AtomicResults : Prop :=
  (
    (∀ (s : State) (c : Ctl) (d a e : Opnd) (op : AtomOp) (w : Bool) (sc : Scope) (ord : Ord4), Issuing s → s.active c ≠ 0 → s.tm.blocks = [] →
      let act := s.active c
      let t := s.g.team
      let n := if w then 8 else 4
      let on (l : Nat) : Prop := l < 32 ∧ act.getLsbD l = true
      let at_ (l : Nat) : Nat := (s.rd a l).toNat
      (∀ l, on l → at_ l % n = 0 ∧ s.tm.inScratch (at_ l) n = true ∧ s.scHurt t (at_ l) n = false) →
      ∃ v q, exec (.atoms c d a e op w sc ord) s = .next (v.sent (.atoms c d a e op w sc ord) act (.done q)) ∧ SameGroup s v ∧ v.mem = s.mem
        ∧ (∀ x, v.isFull t x = s.isFull t x)
        ∧ (∀ x, (∀ l, on l → x < at_ l ∨ at_ l + n ≤ x) → v.scByte t x = s.scByte t x)
        ∧ ∀ l, on l → (∀ k, on k → k ≠ l → at_ k ≠ at_ l) → Memory.wf s.tm.scratch = true →
          let old := BitVec.ofNat 64 (leNat ((List.range n).map fun i => s.scByte t (at_ l + i)))
          ∀ i, i < n → v.scByte t (at_ l + i) = (leBytes n (atomNew op w old (s.atomArg op w e l).1 (s.atomArg op w e l).2).toNat).getD i 0)
    ∧ ∀ (s u : State) (c : Ctl) (ps : List Spot) (a e : Opnd) (op : AtomOp) (w : Bool) (sc : Scope) (ord : Ord4),
      Issuing s → Ordinary s → u.plain → s.active c ≠ 0 →
      let act := s.active c
      let f := firstLane act
      let n := if w then 8 else 4
      let l := (lanesOf act).map fun l => (l, (s.rd64 a l).toNat)
      (∀ p ∈ ps, u.poisoned p.pa n = false ∧ u.homeHurt (dieOf s.cur.core) p.pa n = false ∧ p.cls ≠ 3) →
      let r := ps.foldl (fun (q : List (Nat × List Byte) × List Host.Cell) p =>
        let bs := memRd q.2 p.pa n
        let v := s.atomArg op w e p.lane
        (q.1 ++ [(p.lane, leBytes n (leNat bs))], memWr q.2 p.pa (leBytes n (atomNew op w (BitVec.ofNat 64 (leNat bs)) v.1 v.2).toNat))) ([], u.mem)
      (∀ d, s.checkAll (s.who f) .atomic n n l (s.atomBad f op (d != .zero) ord n) = (u, .ok ps) →
        ∃ v, exec (.atom c d a e op w sc ord) s =
            .next (v.sent (.atom c d a e op w sc ord) act (.done (if d = .zero then [] else ldWbs d act n false false r.1)))
          ∧ v.mem = r.2 ∧ SameGroup s v)
      ∧ (let s' := s.noAudit (s.who f)
        s'.checkAll (s'.who f) .atomic n n l (s'.atomBad f op false ord n) = (u, .ok ps) →
        ∃ v, exec (.red c a e op w sc ord) s = .next (v.sent (.red c a e op w sc ord) act (.done [])) ∧ v.mem = r.2 ∧ SameGroup s v))
  ∧ (
    ∀ (old v n : W64),
      let lo (x : W64) : W32 := x.setWidth 32
      let z (x : W32) : W64 := x.setWidth 64
      atomNew .add true old v n = old + v ∧ atomNew .add false old v n = z (lo (old + v))
      ∧ (atomNew .minI true old v n).toInt = min old.toInt v.toInt ∧ (atomNew .maxI true old v n).toInt = max old.toInt v.toInt
      ∧ (atomNew .minN true old v n).toNat = min old.toNat v.toNat ∧ (atomNew .maxN true old v n).toNat = max old.toNat v.toNat
      ∧ (lo (atomNew .minI false old v n)).toInt = min (lo old).toInt (lo v).toInt
      ∧ (lo (atomNew .maxI false old v n)).toInt = max (lo old).toInt (lo v).toInt
      ∧ (lo (atomNew .minN false old v n)).toNat = min (lo old).toNat (lo v).toNat
      ∧ (lo (atomNew .maxN false old v n)).toNat = max (lo old).toNat (lo v).toNat
      ∧ (∀ w, atomNew .and w old v n = old &&& v ∧ atomNew .or w old v n = old ||| v ∧ atomNew .xor w old v n = old ^^^ v
        ∧ atomNew .exch w old v n = v ∧ atomNew .cas w old v n = if old = v then n else old)
      ∧ lo (atomNew .addF false old v n) = faddCode .f32 .rn (lo old) (lo v)
      ∧ lo (atomNew .minF false old v n) = fmin32 (lo old) (lo v) ∧ lo (atomNew .maxF false old v n) = fmax32 (lo old) (lo v))

/-- R173, R227, R233: FESET and FECLR set every granule they name, FEWAIT goes on when all it names are in the awaited state; a
full/empty load takes full granules and leaves them full or, under FEC, empty; a filling store takes empty ones and leaves them
full. Lanes whose granule is in the other state wait at the word, with their threads, while the others are granted; a load that waits has
met no uncorrectable error yet, one that is granted and meets one traps UCE. -/
def Obligations.FullEmptyResults : Prop :=
  ∀ (s : State) (c : Ctl) (a b e : Opnd), Issuing s → s.active c ≠ 0 → s.tm.blocks = [] →
    let act := s.active c
    let t := s.g.team
    let at_ (l : Nat) : Nat := (s.rd a l + s.rd b l).toNat
    let len (l : Nat) : Nat := (s.rd e l).toNat
    let on (l : Nat) : Prop := l < 32 ∧ act.getLsbD l = true
    let named (x : Nat) : Prop := ∃ l, on l ∧ at_ l ≤ x - x % 16 ∧ x - x % 16 < at_ l + len l
    let ranges : Prop := ∀ l, on l → at_ l % 16 = 0 ∧ len l % 16 = 0 ∧ s.tm.inScratch (at_ l) (len l) = true
    let marks (i : Instr) (full : Bool) : Prop :=
      ∃ v, exec i s = .next (v.sent i act (.done [])) ∧ SameGroup s v ∧ (∀ x, v.scByte t x = s.scByte t x)
        ∧ ∀ x, (named x → v.isFull t x = full) ∧ (¬ named x → v.isFull t x = s.isFull t x)
    let alone : Prop := (∀ l k, on l → on k → l ≠ k → at_ l / 16 ≠ at_ k / 16)
      ∧ ∀ x ∈ s.cores, ∀ o ∈ x.2.ops, o.team = t → (∀ td g d n sx u, o.kind ≠ .fe td g d n sx u) ∧ ∀ td m, o.kind ≠ .feWait td m
    let fits (n : Nat) : Prop := ∀ l, on l → at_ l % n = 0 ∧ s.tm.inScratch (at_ l) n = true
    let good (n : Nat) : Prop := ∀ l, on l → at_ l % n = 0 ∧ s.tm.inScratch (at_ l) n = true ∧ s.scHurt t (at_ l) n = false
    let waits (u : State) (o : POp) : Prop := u.op? s.cur.core s.serial = some o ∧ o.lanes = act
      ∧ ∀ l, on l → (u.g.thread l).wait = .op s.serial ∧ (u.g.thread l).pc = s.cur.pc
    let now_ (full : Bool) : List Nat := (lanesOf act).filter fun l => s.isFull t (at_ l) == full
    let after (v : State) (full : Bool) : Prop := ∀ x,
      ((∃ l, on l ∧ at_ l / 16 = x / 16) → v.isFull t x = full) ∧ ((∀ l, on l → at_ l / 16 ≠ x / 16) → v.isFull t x = s.isFull t x)
    (ranges → marks (.feset c a b e) true ∧ marks (.feclr c a b e) false)
    ∧ (∀ empty, ranges → (∀ x, named x → s.isFull t x = !empty) →
      exec (.fewait c a b e empty) s = .next ((s.sent (.fewait c a b e empty) act (.done [])).wdFeClear s.cur.core s.cur.slot))
    ∧ (∀ d sz sx m, m ≠ .plain → good (Size.bytes sz) → alone → (∀ l, on l → s.isFull t (at_ l) = true) →
      ∃ v, exec (.lds c d a b sz sx m) s = .next ((v.sent (.lds c d a b sz sx m) act (.done (ldWbs d act (Size.bytes sz) sx (s.isU a && s.isU b)
          ((lanesOf act).map fun l => (l, (List.range (Size.bytes sz)).map fun i => s.scByte t (at_ l + i)))))).wdFeClear s.cur.core s.cur.slot)
        ∧ SameGroup s v ∧ (∀ x, v.scByte t x = s.scByte t x) ∧ after v (m == FeMode.fe))
    ∧ (∀ sz, (Instr.sts c a b e sz true).wf = true → good (Size.bytes sz) → alone → (∀ l, on l → s.isFull t (at_ l) = false) →
      ∃ v w, exec (.sts c a b e sz true) s = .next ((v.sent (.sts c a b e sz true) act (.done w)).wdFeClear s.cur.core s.cur.slot) ∧ w = []
        ∧ SameGroup s v ∧ after v true
        ∧ v.tm.scratch = (lanesOf act).foldl (fun m l => memWr m (at_ l) (s.stBytes e (Size.bytes sz) l)) s.tm.scratch)
    ∧ (∀ empty, ranges → Drawn s → (∃ x, named x ∧ s.isFull t x = empty) →
      ∃ u o todo, exec (.fewait c a b e empty) s = .next u ∧ waits u o ∧ o.kind = .feWait todo empty ∧ u.teams = s.teams
        ∧ ∀ x, x ∈ todo ↔ x % 16 = 0 ∧ named x ∧ s.isFull t x = empty)
    ∧ (∀ d sz sx m, m ≠ .plain → fits (Size.bytes sz) → alone → Drawn s → now_ false ≠ [] →
      (∀ l ∈ now_ true, s.scHurt t (at_ l) (Size.bytes sz) = false) →
      ∃ u o todo, exec (.lds c d a b sz sx m) s = .next u ∧ waits u o ∧ todo.map (·.lane) = now_ false
        ∧ o.kind = .fe todo ((now_ true).map fun l => (l, (List.range (Size.bytes sz)).map fun i => s.scByte t (at_ l + i))) d (Size.bytes sz) sx
          (s.isU a && s.isU b)
        ∧ (∀ x, u.scByte t x = s.scByte t x)
        ∧ ∀ x, ((∃ l ∈ now_ true, at_ l / 16 = x / 16) → u.isFull t x = (m == FeMode.fe))
          ∧ ((∀ l ∈ now_ true, at_ l / 16 ≠ x / 16) → u.isFull t x = s.isFull t x))
    ∧ (∀ sz, (Instr.sts c a b e sz true).wf = true → fits (Size.bytes sz) → alone → Drawn s → now_ true ≠ [] →
      ∃ u o todo got, exec (.sts c a b e sz true) s = .next u ∧ waits u o ∧ o.kind = .fe todo got .zero (Size.bytes sz) false false
        ∧ todo.map (·.lane) = now_ true ∧ (∀ r ∈ todo, r.addr = at_ r.lane ∧ r.store = some (s.stBytes e (Size.bytes sz) r.lane))
        ∧ u.tm.scratch = (now_ false).foldl (fun m l => memWr m (at_ l) (s.stBytes e (Size.bytes sz) l)) s.tm.scratch ∧ after u true)
    ∧ (∀ d sz sx m, m ≠ .plain → fits (Size.bytes sz) → alone → now_ false = [] →
      let hurt := maskOf fun l => act.getLsbD l && s.scHurt t (at_ l) (Size.bytes sz)
      hurt ≠ 0 → ∃ ti : TrapInfo, ti.cause = 0x0E ∧ ti.lanes = act ∧ ti.va = at_ (firstLane hurt) ∧ ti.x0 = 3
        ∧ exec (.lds c d a b sz sx m) s = .next (s.trap s.cur.core s.cur.slot ti))
    ∧ ∀ d sz sx m, m ≠ .plain → good (Size.bytes sz) → (∀ l, on l → s.isFull t (at_ l) = false) →
      Drawn s →
      ∃ u, exec (.lds c d a b sz sx m) s = .next u ∧ (∃ o, u.op? s.cur.core s.serial = some o ∧ o.lanes = act)
        ∧ ∀ l, on l → (u.g.thread l).wait = .op s.serial ∧ (u.g.thread l).pc = s.cur.pc

/-- R199, R202, R203, R206: a line published from a die that does not own it: just the words its die changed since the twin, or
whose twin is uncorrectable (the model's choice, log 92), go home, nothing else in memory changes, and the twin is gone. An acquire's refresh takes the home's word where the die has not written
since its twin, and keeps the die's own elsewhere.
R231, R232: fences and line operations complete without a register changed: a release fence at a scope that reaches other dies
waits for what it publishes, the others are done at their issue; PUBLISH, CLEAN and INVAL leave no class-C twin on the
twin-coherent lines they name, INVAL no copy either unless a twin still holds written words; PREF never delays its group. -/
def Obligations.PublicationsFencesAndLines : Prop :=
  (
    ∀ (s : State) (x line : Nat), s.recs = [] → line % 128 = 0 →
      (∀ tw k, aget (s.die x).twins line = some tw → tw.cls = .c → homeOf line ≠ x →
        let t := s.publishNow x line k
        (∀ i, i < 32 → (t.homeWords line).getD i 0 =
          if (s.lineWords x line).getD i 0 = tw.words.getD i 0 ∧ i / 2 * 8 ∉ tw.hurt then (s.homeWords line).getD i 0 else (s.lineWords x line).getD i 0)
        ∧ (∀ a, a < line ∨ line + 128 ≤ a → memGet t.mem a = memGet s.mem a)
        ∧ aget (t.die x).twins line = none ∧ t.recs = [])
      ∧ ∀ c, aget (s.die x).copies line = some c → c.cls = 1 →
        let t := s.refresh x line
        t.mem = s.mem ∧ ∀ i, i < 32 → (t.lineWords x line).getD i 0 =
          match aget (s.die x).twins line with
          | none => (s.homeWords line).getD i 0
          | some w => if c.words.getD i 0 = w.words.getD i 0 then (s.homeWords line).getD i 0 else c.words.getD i 0)
  ∧ (
    ∀ (s : State) (c : Ctl), Issuing s → s.active c ≠ 0 →
      let act := s.active c
      let x := dieOf s.cur.core
      let fenced (ord : Ord4) : State := if relOrd ord then s.updG fun g => { g with fenced := g.fenced ||| act } else s
      (∀ ord sc, wideSc sc = false → exec (.fence c ord sc) s = .next ((fenced ord).sent (.fence c ord sc) act (.done [])))
      ∧ (∀ ord sc, wideSc sc = true → relOrd ord = false →
        ∃ v, exec (.fence c ord sc) s = .next (v.sent (.fence c ord sc) act (.done [])) ∧ SameGroup s v ∧ (s.plain → v.mem = s.mem))
      ∧ (∀ ord sc, wideSc sc = true → relOrd ord = true → s.recs = [] → (∀ d, 8 * (s.die d).regionUse ≤ 7 * Config.twinLines) →
        ∃ v recs n, exec (.fence c ord sc) s = .next (v.sent (.fence c ord sc) act (.release [] recs [(fenceKey x, n)] sc (acqOrd ord)))
          ∧ SameGroup (fenced ord) v ∧ v.mem = s.mem ∧ (∀ l w, aget (v.die x).twins l = some w → w.cls ≠ .c)
          ∧ ∀ r, r ∈ v.recs → r.id ∈ recs)
      ∧ (∀ a b is len l1 h, ∃ v, exec (.pref c a b is len l1 h) s = .next (v.sent (.pref c a b is len l1 h) act (.done [])) ∧ SameGroup s v)
      ∧ ∀ a b is len u ps, s.checkAll (s.who (firstLane act)) .line 1 1 (s.lineList act a b is len) noDet = (u, .ok ps) →
        let does (i : Instr) (gone : Bool) : Prop := ∃ v, exec i s = .next (v.sent i act (.done [])) ∧ SameGroup s v
          ∧ ∀ p ∈ ps, p.cls = 1 → (∀ w, aget (v.die x).twins (lineOf p.pa) = some w → w.cls ≠ .c)
            ∧ (gone = true → aget (v.die x).twins (lineOf p.pa) = none → aget (v.die x).copies (lineOf p.pa) = none)
        does (.publish c a b is len) false ∧ does (.clean c a b is len) false ∧ does (.inval c a b is len) true)

/-- R236: the address of a tensor element and when it is in bounds; the rows of a box step through its upper dimensions, the first
of them fastest; a coordinate out of bounds is clamped to the nearest element. -/
def Obligations.TensorAddresses : Prop :=
  (∀ (t : Tsr) (e0 e1 e2 e3 e4 : Int),
    let e := [e0, e1, e2, e3, e4]
    (t.elem e).2 = (BitVec.ofInt 64 (t.base + e0 * t.size + e1 * (t.stride.getD 1 0 : Int) + e2 * (t.stride.getD 2 0 : Int)
      + e3 * (t.stride.getD 3 0 : Int) + e4 * (t.stride.getD 4 0 : Int))).toNat
    ∧ ((t.elem e).1 = true ↔ ∀ k, k < t.dims → 0 ≤ e.getD k 0 ∧ e.getD k 0 < (t.ext.getD k 0 : Int))
    ∧ (t.dims ≤ 5 → (∀ k, k < t.dims → 1 ≤ t.ext.getD k 0) → (t.elem (t.clamp e)).1 = true)
    ∧ ((t.elem e).1 = true → t.clamp e = e))
  ∧ ∀ (t : Tsr) (c : List Int) (b0 b1 b2 b3 b4 i1 i2 i3 i4 : Nat), t.box = [b0, b1, b2, b3, b4] → i1 < b1 → i2 < b2 → i3 < b3 → i4 < b4 →
      t.rows = b1 * b2 * b3 * b4
      ∧ t.rowAt c (i1 + b1 * (i2 + b2 * (i3 + b3 * i4))) = [c.getD 0 0, c.getD 1 0 + i1, c.getD 2 0 + i2, c.getD 3 0 + i3, c.getD 4 0 + i4]

/-- R238, R240, R241, R243: a copy command enters a free slot of its core with the values its registers hold at its issue, and takes
its place among its thread's stores for the digest (R349); with the ring option it takes its ring's next place to publish; with no
slot free it does not issue. CPYCAN leaves none of its group's copy commands on the flags it names, but for CPYCANs.
R238, R240 to R242: a copy command whose rows are done is complete, and its ring slot published in its turn; one that meets a
hard fault puts its flag in error with the record of R357, as an uncorrectable operand does; one whose writes are the first to
template-shared blocks leaves memory as it is and waits while those are copied (R296); CPYOB.s and CPYOB.o move just the bytes they
name. That all rows of a command are performed in the act of its end is the model's choice (log 70). -/
def Obligations.CopyCommands : Prop :=
  (
    ∀ (s : State) (c : Ctl) (t k d : SReg), Issuing s → s.active c ≠ 0 →
      let act := s.active c
      let core := s.core s.cur.core
      let three : List W64 := [s.srd k, s.srd (k + 1), s.srd (k + 2)]
      let w := s.who (firstLane act)
      let ri := bits (s.srd d).toNat 54 52
      let r := s.ring s.g.team ri
      let ob := s.srd d
      let id := ob.toNat % 16
      let fc := s.tm.first
      let goes (i : Instr) (v : State) (x : CopyCmd) : Prop := exec i s = .next ((v.sent i act (.copy x)).wdRingClear s.cur.core s.cur.slot)
      let dig (v : State) : State := v.digestLater s.cur.core s.cur.slot (firstLane act) v.serial
      (∀ n, core.copySlot = some n →
        let cmd (kind : CopyKind) : CopyCmd :=
          { kind, tsrVa := (s.srd t).toNat, coord := three, dsc := s.srd d, slotNo := n, bad := dscBad (s.srd d).toNat kind }
        ((s.srd d).getLsbD 51 = false → goes (.cpyin c t k d) (dig s) (cmd .in_))
        ∧ ((s.srd d).getLsbD 51 = true → r.n ≠ 0 → r.qr < r.p →
          goes (.cpyin c t k d) (dig (s.updRing s.g.team ri fun r => { r with qr := r.qr + 1 })) { cmd .in_ with ring := some (ri, r.qr) })
        ∧ goes (.cpyout c t k d) (dig s) (cmd .out)
        ∧ (∀ op, goes (.cpyred c t k d op) (dig ((s.noRollW w).noAudit w)) (cmd (.red op)))
        ∧ (∀ h, ∃ x : CopyCmd, goes (.cpypf c t k h) s x ∧ x.kind = .pf
            ∧ x.tsrVa = (s.srd t).toNat ∧ x.coord = three ∧ x.slotNo = n ∧ hintOf x.hint = h)
        ∧ ∀ v, s.resv? fc id = some v → v.team = s.g.team → v.releasing = false → v.len ≠ 0 → ob.toNat / 4294967296 = 0 →
            bits ob.toNat 7 4 = 0 → bits ob.toNat 31 8 % 16 = 0 →
          let u := s.updResv fc id fun v => { v with users := v.users + 1 }
          goes (.cpyobG c t k d) u { kind := .obG, tsrVa := (s.srd t).toNat, coord := three, dsc := ob, slotNo := n, res := some id }
          ∧ ∀ a len, let f := firstLane act
            (s.rd a f).toNat % 16 = 0 → (s.rd len f).toNat % 16 = 0 → s.rd len f ≠ 0 → (s.rd len f).toNat ≤ 262144 →
            let cmd (kind : CopyKind) : CopyCmd :=
              { kind, addr := (s.rd a f).toNat, len := (s.rd len f).toNat, dsc := ob, slotNo := n, res := some id }
            goes (.cpyobS c a len d) u (cmd .obS) ∧ goes (.cpyobO c a len d) (dig u) (cmd .obO))
      ∧ ∀ mask,
        (core.copySlot = none → ∀ i ∈ [Instr.cpyin c t k d, .cpyout c t k d, .cpypf c t k .n, .cpycan c mask], ∃ u, exec i s = .next u ∧ u.cur.stall = true)
        ∧ (core.copySlot ≠ none → ∃ u, exec (.cpycan c mask) s = .next u
          ∧ ∀ o ∈ (u.core s.cur.core).ops, o.slot = s.cur.slot → o.tag = (aget core.tags s.cur.slot).getD 0 →
            ∀ f x, o.flag = some f → mask.getLsbD f = true → o.kind = .copy x → x.kind = .can))
  ∧ (
    ∀ (s : State) (core : Nat) (o : POp) (x : CopyCmd) (g : Group), s.op? core o.id = some o → o.kind = .copy x → x.finished = false →
      s.group? core o.slot = some g → (aget (s.core core).tags o.slot).getD 0 = o.tag → g.saveRec = none → g.saved = false →
      (∀ t, s.copyRun core o x = (t, .done) → s.ownMiss o t = none → s.blocksFirst core o.team t = none → x.ring = none →
        ∃ u, exec (.copyCompletion core o.id) s = .next u ∧ u.op? core o.id = none ∧ u.mem = t.mem)
      ∧ (∀ t i pos, s.copyRun core o x = (t, .done) → s.ownMiss o t = none → s.blocksFirst core o.team t = none → x.ring = some (i, pos) → (t.ring o.team i).q ≠ pos →
        ∃ u, exec (.copyCompletion core o.id) s = .next u ∧ u.mem = t.mem ∧ ∃ q y, u.op? core o.id = some q ∧ q.kind = .copy y ∧ y.finished = true)
      ∧ (∀ t cause va q e f, s.copyRun core o x = (t, .fault cause va q e) → o.flag = some f → f < 12 → x.res = none →
        s.blocksFirst core o.team t = none →
        (∀ h, t.group? core o.slot = some h → h.flags = g.flags ∧ h.saveRec = none ∧ h.saved = false) → (t.group? core o.slot).isSome = true → (t.core core).tags = (s.core core).tags →
        ∃ u h n ti, exec (.copyFault core o.id) s = .next u ∧ u.op? core o.id = none ∧ u.group? core o.slot = some h
          ∧ (h.flag f).errs = (g.flag f).errs ++ [(n, ti)] ∧ ti.cause = 0x0A ∧ ti.pc = o.pc ∧ ti.va = va
          ∧ ti.x0 = BitVec.ofNat 64 (cause + 256 * x.slotNo + 2 ^ 32 * q))
      ∧ (∀ t, ∀ b ∈ (s.team o.team).blocks, s.copyRun core o x = (t, .done) → s.ownMiss o t = none → b ∉ (t.team o.team).blocks →
        ∃ u, exec (.copyCompletion core o.id) s = .next u ∧ u.mem = s.mem ∧ u.op? core o.id = some o ∧ ∃ y ∈ (u.team o.team).copying, y.1 = b.1)
      ∧ ∀ r v, x.bad = false → x.res = some r → s.resv? (s.team o.team).first r = some v → bits x.dsc.toNat 31 8 + x.len ≤ 256 * v.len →
        (s.team o.team).inScratch x.addr x.len = true → (s.team o.team).blocks = [] →
        let fc := (s.team o.team).first
        let off := bits x.dsc.toNat 31 8
        let at_ := 256 * v.base + off
        (x.kind = .obS → (s.copyRun core o x).2 = if s.scHurt o.team x.addr x.len then .fault 0x0E x.addr 0 [] else .done)
        ∧ (x.kind = .obO → (s.copyRun core o x).2 = if s.obHurt fc v off x.len then .fault 0x0E off 0 [] else .done)
        ∧ (x.kind = .obS → s.scHurt o.team x.addr x.len = false → ∃ t, s.copyRun core o x = (t, .done) ∧ (∀ i, i < x.len → memGet (t.core fc).ob (at_ + i) = s.scByte o.team (x.addr + i))
          ∧ ∀ a, a < at_ ∨ at_ + x.len ≤ a → memGet (t.core fc).ob a = memGet (s.core fc).ob a)
        ∧ (x.kind = .obO → s.obHurt fc v off x.len = false → ∃ t, s.copyRun core o x = (t, .done)
          ∧ (∀ i, i < x.len → t.scByte o.team (x.addr + i) = memGet (s.core fc).ob (at_ + i))
          ∧ ∀ a, a < x.addr ∨ x.addr + x.len ≤ a → t.scByte o.team a = s.scByte o.team a))

/-- R176, R248, R249, R265 to R267: OBRES takes the lowest free record and answers its number, and within the range it takes each
byte stays or becomes 0; codes answer what is malformed, has no free record, or meets another team's range; OBREL marks its record
and waits for its users; OBPUT and OBGET reach the bytes at their offsets and no others; a releasing record without users is
freed and its OBRELs complete. -/
def Obligations.OperandBufferResults : Prop :=
  (∀ (s : State) (c : Ctl), Issuing s → s.active c ≠ 0 →
    let act := s.active c
    let fc := s.tm.first
    let say (d : Opnd) (v : Nat) : OpKind := .done (wbOne d act (BitVec.ofNat 32 v))
    (∀ d a,
      let n := (s.srd a).toNat
      let base := bits n 9 0
      let len := bits n 20 10
      let bad : Prop := bits n 63 50 ≠ 0 ∨ bits n 23 21 ≠ 0 ∨ 1024 < base + len
        ∨ n.testBit 30 = true ∧ (len = 0 ∨ 256 * len < bits n 49 32 + 128)
      let meets : Prop := len ≠ 0 ∧ ∃ r ∈ (s.core fc).resv, r.2.team ≠ s.g.team ∧ r.2.len ≠ 0 ∧ r.2.base < base + len ∧ base < r.2.base + r.2.len
      (bad → exec (.obres c d a) s = .next (s.sent (.obres c d a) act (say d 0x80000001)))
      ∧ (¬ bad → firstFree (s.core fc).resv 16 = none → exec (.obres c d a) s = .next (s.sent (.obres c d a) act (say d 0x80000002)))
      ∧ (∀ id, ¬ bad → firstFree (s.core fc).resv 16 = some id → meets →
        exec (.obres c d a) s = .next (s.sent (.obres c d a) act (say d 0x80000003)))
      ∧ ∀ id, ¬ bad → firstFree (s.core fc).resv 16 = some id → ¬ meets →
        ∃ v, exec (.obres c d a) s = .next (v.sent (.obres c d a) act (say d id)) ∧ SameGroup s v
          ∧ (v.core fc).resv = aset (s.core fc).resv id
            { team := s.g.team, base, len, fmt := bits n 27 24, blk := bits n 29 28, sp := n.testBit 30, slay := n.testBit 31, soff := bits n 49 32 }
          ∧ ∀ x, memGet (v.core fc).ob x = memGet (s.core fc).ob x
            ∨ memGet (v.core fc).ob x = 0 ∧ base ≤ x / 256 ∧ x / 256 < base + len)
    ∧ (∀ a v,
      let id := (s.rd a (firstLane act)).toNat % 16
      s.resv? fc id = some v → v.team = s.g.team → v.releasing = false →
      exec (.obrel c a) s = .next ((s.updResv fc id fun v => { v with releasing := true }).sent (.obrel c a) act (.obrel id)))
    ∧ ∀ a b w v,
      let n := if w then 16 else 4
      let off (l : Nat) : Nat := (BitVec.ofNat 32 (bits (s.srd a).toNat 31 8) + s.rd b l).toNat
      s.resv? fc ((s.srd a).toNat % 16) = some v → v.team = s.g.team → v.releasing = false → v.len ≠ 0 →
      (∀ l, l < 32 → act.getLsbD l = true → off l % n = 0 ∧ off l + n ≤ 256 * v.len ∧ s.obHurt fc v (off l) n = false) →
      (∀ d, exec (.obget c d a b w) s = .next (s.sent (.obget c d a b w) act (.done (ldWbs d act n false false
        ((lanesOf act).map fun l => (l, memRd (s.core fc).ob (256 * v.base + off l) n))))))
      ∧ ∀ e, (Instr.obput c a b e w).wf = true →
        ∃ t, exec (.obput c a b e w) s = .next (t.sent (.obput c a b e w) act (.done [])) ∧ SameGroup s t
          ∧ (t.core fc).ob = (lanesOf act).foldl (fun m l => memWr m (256 * v.base + off l) (s.stBytes e n l)) (s.core fc).ob
          ∧ ∀ x, (∀ l, l < 32 → act.getLsbD l = true → x < 256 * v.base + off l ∨ 256 * v.base + off l + n ≤ x) →
              memGet (t.core fc).ob x = memGet (s.core fc).ob x)
  ∧ ∀ (s : State) (core res : Nat) (v : Resv), s.resv? core res = some v → v.releasing = true → v.users = 0 →
      (∀ c j g, s.group? c j = some g → g.saveRec = none ∧ g.saved = false) →
      ∃ t, exec (.reservationFree core res) s = .next t ∧ t.resv? core res = none
        ∧ ∀ c, ∀ o ∈ (t.core c).ops, o.team = v.team → o.kind ≠ .obrel res

/-- R245, R258, R260, R268 to R270: MZERO and MLOOP enter the matrix queue with their block as their registers hold it, MREADY
offers its registers; the registers a command or an offer names are held from then on. The tile groups of a matrix group are those of
its quad that QMASK names, one, two or four by the shape; any other group is its one tile group, with QMASK and shape 0. (No section's
queue full, no write still owed to the group and none of its registers spilled; the block of MLOOP names reservations its team holds.)
R247, R259, R260, R262, R268: a matrix command starts when it is first in its queues, takes each partner's oldest offer, and is
malformed where one does not cover the registers it uses; complete, the accumulators of each tile group hold in every lane what its
sums left (`State.matTile`), or U(0) for MZERO, and it holds no register any longer; a malformed one puts its flag in error. That the
operands are read in the act of the end is the model's choice (log 87). -/
def Obligations.MatrixCommands : Prop :=
  (
    ∀ (s : State) (c : Ctl) (d : VNum), Issuing s → s.active c ≠ 0 → (s.core s.cur.core).owedV s.cur.slot = [] → s.g.spilled = [] →
      let tag (k : Nat) : Nat := (aget (s.core s.cur.core).tags k).getD 0
      let room (l : List ((Nat × Nat) × Nat)) : Prop :=
        ∀ q ∈ l.map (·.2), ((s.core s.cur.core).matOps.filter fun x => x.2.sections.contains q).length < 2
      let enters (i : Instr) (zero : Bool) (blk : List W64) (l : List ((Nat × Nat) × Nat)) : Prop :=
        ∃ t o m, exec i s = .next t ∧ (t.core s.cur.core).ops = (s.core s.cur.core).ops ++ [o] ∧ o.kind = .matrix m ∧ o.id = s.serial
          ∧ o.vdest = [] ∧ m.zero = zero ∧ m.d = d ∧ m.blk = blk ∧ m.groups = l.map (·.1) ∧ m.sections = l.map (·.2) ∧ m.started = false ∧ m.bad = false
          ∧ (∀ r, d ≤ r → r < d + 128 → r < s.g.budget → (r, s.serial) ∈ t.g.held)
          ∧ ∀ l, l < 32 → t.g.thread l = if s.cur.mask.getLsbD l then (s.g.thread l).past else s.g.thread l
      (s.g.role ≠ 1 → s.tileGroups 0 0 = some [((s.cur.slot, tag s.cur.slot), s.g.quad)]
        ∧ ∀ q h, q ≠ 0 ∨ h ≠ 0 → s.tileGroups q h = none)
      ∧ (s.g.role = 1 → ∀ (q h : Nat) (at_ : Nat → Nat),
        let i := s.g.index - s.tm.desc.ncopy
        let bs := (List.range 4).filter q.testBit
        let is (b : Nat) (g : Group) : Prop := g.team = s.g.team ∧ g.role = 1 ∧ g.index = s.tm.desc.ncopy + 4 * (i / 4) + b
        q.testBit (i % 4) = true → h < 3 → bs.length = 2 ^ h →
        (∀ b ∈ bs, (∃ p ∈ (s.core s.cur.core).slots, is b p.2) ∧ ∀ p ∈ (s.core s.cur.core).slots, is b p.2 → p.1 = at_ b) →
        s.tileGroups q h = some (bs.map fun b => ((at_ b, tag (at_ b)), b)))
      ∧ (∀ a l, let n := (s.srd a).toNat
        room l → Drawn s → s.tileGroups (bits n 19 16) (bits n 13 12) = some l →
        enters (.mzero c d a) true (List.replicate 6 0 ++ [s.srd a]) l)
      ∧ (∀ k l,
        let blk := (blockRegs k).map s.srd
        let w6 := (s.srd (8 * k.toNat + 6)).toNat
        let mine (r : Nat) : Prop := ∃ v, s.resv? s.tm.first r = some v ∧ v.team = s.g.team ∧ v.releasing = false
        room l → Drawn s → s.tileGroups (bits w6 19 16) (bits w6 13 12) = some l →
        mine (bits w6 3 0) → mine (bits w6 7 4) → enters (.mloop c d k) false blk l)
      ∧ ∀ n, s.g.offers.length < 2 →
        ∃ t, exec (.mready c d n) s = .next t ∧ t.g.offers = s.g.offers ++ [{ first := d, n := n.toNat, op := s.serial }]
          ∧ (∀ r, d ≤ r → r < d + n.toNat → (r, s.serial) ∈ t.g.held)
          ∧ ∀ l, l < 32 → t.g.thread l = if s.cur.mask.getLsbD l then (s.g.thread l).past else s.g.thread l)
  ∧ (
    ∀ (s : State) (core : Nat) (o : POp) (m : MatCmd), s.matOp? core o.id = some (o, m) →
      let tag (k : Nat) : Nat := (aget (s.core core).tags k).getD 0
      let standing (p : Nat × Nat) (g : Group) : Prop := tag p.1 = p.2 ∧ s.group? core p.1 = some g ∧ g.saved = false ∧ g.saveRec = none
      (o.slot, o.tag) ∈ m.groups → (m.groups.map (·.1)).Nodup → (∀ p ∈ m.groups, ∃ g, standing p g) →
      (m.started = false → s.matReady core o m = true →
        ∃ t, exec (.matrixCommandStart core o.id) s = .next t ∧ ∃ q x, t.matOp? core o.id = some (q, x) ∧ x.started = true ∧ x.d = m.d
          ∧ ∀ p ∈ m.groups, p.1 ≠ o.slot → ∃ f r, (s.group core p.1).offers = f :: r ∧ (t.group core p.1).offers = r ∧ (p.1, f.op) ∈ x.offers
            ∧ ((∃ n ∈ s.matRegs o m, n < f.first ∨ f.first + f.n ≤ n) → x.bad = true))
      ∧ (m.started = true → (s.core core).matFirst o m = true → m.bad = false → (m.zero = true ∨ s.matFault core o m m.steps = none) →
        (∀ p ∈ m.groups, ∀ g, standing p g → ∀ r ∈ g.taint, r < m.d ∨ m.d + 128 ≤ r) →
        ∃ t, exec (.matrixCommandCompletion core o.id) s = .next t ∧ t.op? core o.id = none
          ∧ (∀ q ∈ (t.group core o.slot).held, q.2 ≠ o.id)
          ∧ ∀ j p g, m.groups[j]? = some p → standing p g → ∃ h, t.group? core p.1 = some h
            ∧ (∀ r, r < 128 → h.reg (m.d + r) = if m.zero then .u 0 else (s.matTile core o m j m.step m.steps).getD r (.u 0))
            ∧ ∀ r, r < m.d ∨ m.d + 128 ≤ r → r ∉ g.taint → h.reg r = g.reg r)
      ∧ (m.started = true → (s.core core).matFirst o m = true → m.bad = true → ∀ g f, standing (o.slot, o.tag) g → o.flag = some f → f < 12 →
        ∃ t h n ti, exec (.matrixFault core o.id) s = .next t ∧ t.op? core o.id = none ∧ t.group? core o.slot = some h
          ∧ (h.flag f).errs = (g.flag f).errs ++ [(n, ti)] ∧ ti.cause = 0x0A ∧ ti.pc = o.pc ∧ bits ti.x0.toNat 7 0 = 1))

/-- R290 to R302, R404: STAMP owes its items, and TDROP, TINFO and SPAWN act on the template their id names; STAMP refuses with
its codes, and ends its team's eligibility for audit whether it does or not (R348); TDROP completes as it issues; SPAWN puts its threads, in lane order with their arguments, into the bin of its
key.
R290 to R292, R404: FREEZE of a whole group: with its fields well formed, no command of the group outstanding, no register of it
spilled or held, its template less than four deep, and room for it, the template holds the group's registers, its threads' next word,
and its named ranges; the group's slot is free, and a count in its block owes that many items. What R291 calls malformed, a full table,
a fourth depth and a full backing are refused with their codes, and the group goes on. -/
def Obligations.TemplateResults : Prop :=
  (
    ∀ (s : State) (c : Ctl), Issuing s → s.active c ≠ 0 →
      let act := s.active c
      let say (d : Opnd) (v : W32) : OpKind := .done (wbOne d act v)
      (∀ d a b,
        let refuses (v : W32) : Prop := exec (.stamp c d a b) s = .next ((s.noAudit (s.who 0)).sent (.stamp c d a b) act (say d v))
        let w := (s.srd b).toNat
        let bad : Prop := bits w 15 0 = 0 ∨ 128 < bits w 15 0 ∨ bits w 63 48 ≠ 0
        (bad → refuses 0x80000001)
        ∧ (¬ bad → s.tmplOf (s.tmplId a act) = none → refuses 0x80000002)
        ∧ (∀ t e, ¬ bad → s.tmplOf (s.tmplId a act) = some (t, e) → e.dropped = true → refuses 0x80000003)
        ∧ ∀ t e, ¬ bad → s.tmplOf (s.tmplId a act) = some (t, e) → e.dropped = false →
          ∃ v, exec (.stamp c d a b) s = .next (v.sent (.stamp c d a b) act (.stamp s.serial (wbOne d act 0))) ∧ SameGroup s v
            ∧ v.tm.owed = s.tm.owed ++ [{ id := s.serial, tmpl := t, next := bits w 47 16, count := bits w 15 0 }])
      ∧ (∀ a t e, s.tmplOf (s.tmplId a act) = some (t, e) →
        let v := ((s.updTmpl t fun e => { e with dropped := true }).sweep).atOnce (.tdrop c a) act []
        exec (.tdrop c a) s = .next v ∧ v.op? s.cur.core s.serial = none)
      ∧ (∀ a, s.tmplOf (s.tmplId a act) = none → exec (.tdrop c a) s = .next (s.atOnce (.tdrop c a) act []))
      ∧ (∀ d a k, k ≠ 1 → s.tmplOf (s.tmplId a act) = none →
        exec (.tinfo c d a k) s = .next (s.sent (.tinfo c d a k) act (say d (if k = 5 then 0 else 0xFFFFFFFF))))
      ∧ (∀ d a t e, s.tmplOf (s.tmplId a act) = some (t, e) →
        let tells (k : BitVec 3) (v : W32) : Prop := exec (.tinfo c d a k) s = .next (s.sent (.tinfo c d a k) act (say d v))
        tells 0 (BitVec.ofNat 32 t) ∧ tells 1 (BitVec.ofNat 32 s.g.item) ∧ tells 2 (BitVec.ofNat 32 e.depth)
          ∧ tells 3 (BitVec.ofNat 32 (e.parent.getD 0xFFFFFFFF)) ∧ tells 4 (BitVec.ofNat 32 (s.refs t))
          ∧ tells 5 (if e.dropped then 2 else 1) ∧ tells 6 (BitVec.ofNat 32 e.pages))
      ∧ ∀ e v n k b, (Instr.spawn c e (.v v) n .zero).wf = true → s.tm.desc.det = false → (s.srd e).toNat % 8 = 0 → canonical (s.srd e).toNat = true →
        let pc := (s.srd e).toNat % 2 ^ 57
        (s.core s.cur.core).binOf s.g.team pc none n.toNat = some (k, b) → b.full = false → b.threads.length + laneCount act ≤ 32 →
        ∃ u x, exec (.spawn c e (.v v) n .zero) s = .next (u.sent (.spawn c e (.v v) n .zero) act (.done [])) ∧ SameGroup s u
          ∧ aget (u.core s.cur.core).bins k = some x
          ∧ x.threads = b.threads ++ (lanesOf act).map fun l => (List.range n.toNat).map fun j => s.rd (.v (v + j)) l)
  ∧ (
    ∀ (s : State) (c : Ctl) (d : Opnd) (x : VNum) (k : BitVec 4) (t : Nat), Issuing s →
      let act := s.active c
      let ws := (blockRegs k).map s.srd
      let n := bits (ws.getD 4 0).toNat 15 0
      let core := s.cur.core
      let im (v : State) : Image := ((aget v.tmpls t).getD {}).image
      let refuses (v : W32) : Prop := exec (.freeze c d x k) s = .next (s.sent (.freeze c d x k) act (.done (wbOne d act v)))
      let still : Prop := s.g.wb = [] ∧ s.g.spilled = [] ∧ s.g.held = []
      let shaped : Prop := (∃ v, aget s.g.regs x = some (.u v)) ∨ ∃ b st, aget s.g.regs x = some (.a b st)
      let well : Prop := s.g.present = act ∧ still ∧ shaped
        ∧ (∀ r ∈ rangesOf ws, r.1 % 16 = 0 ∧ r.2 % 16 = 0 ∧ s.tm.inScratch r.1 r.2 = true) ∧ n ≤ 128 ∧ (n = 0 ∨ s.tm.prologue = false)
        ∧ (∀ f ∈ s.g.flags, f.isSet (s.now core) = false ∧ f.errs = []) ∧ (∀ o ∈ (s.core core).ops, o.slot ≠ s.cur.slot)
        ∧ ∀ e ∈ (s.core core).opLog, e.slot ≠ s.cur.slot
      act ≠ 0 →
      ((∃ l, l < 32 ∧ s.g.present.getLsbD l = true ∧ act.getLsbD l = false) ∨ (still ∧ ¬ shaped)
        ∨ (∃ r ∈ rangesOf ws, r.1 % 16 ≠ 0 ∨ r.2 % 16 ≠ 0 ∨ s.tm.inScratch r.1 r.2 = false) ∨ 128 < n
        ∨ (n ≠ 0 ∧ s.tm.prologue = true ∧ s.g.index = 0) ∨ (∃ f ∈ s.g.flags, f.isSet (s.now core) = true)
        ∨ (s.core core).owedV s.cur.slot ≠ [] ∨ (s.core core).owedS s.cur.slot ≠ [] ∨ (s.core core).logOf s.cur.slot ≠ [] → refuses 0x80000001)
      ∧ (well → firstFree s.tmpls 4096 = none → refuses 0x80000002)
      ∧ (well → firstFree s.tmpls 4096 ≠ none → 4 ≤ s.g.tdepth → refuses 0x80000003)
      ∧ (well → firstFree s.tmpls 4096 ≠ none → s.g.tdepth < 4 → Config.backingPages ≤ s.backing (dieOf core) → refuses 0x80000004)
      ∧ (well → firstFree s.tmpls 4096 = some t → s.g.tdepth < 4 →
      s.backing (dieOf core) + 1024 ≤ Config.backingPages → (∀ r ∈ rangesOf ws, r.2 ≤ 458752) → s.g.regs.length < 320 → d = .v x →
      ∃ v, exec (.freeze c d x k) s = .next v ∧ v.group? core s.cur.slot = none
        ∧ (im v).pc = pcMod ((s.g.thread (firstLane act)).pc + 8) ∧ (im v).sregs = s.g.sregs ∧ (im v).preds = s.g.preds
        ∧ (im v).joins = s.g.joins ∧ (im v).ranges = rangesOf ws
        ∧ (∀ r, r ≠ x → aget (im v).regs r = aget s.g.regs r)
        ∧ (∀ r ∈ rangesOf ws, ∀ i, i < r.2 → memGet (im v).bytes (r.1 + i) = s.scByte s.g.team (r.1 + i))
        ∧ (n ≠ 0 → ∃ id, (v.team s.g.team).owed = s.tm.owed ++ [{ id, tmpl := t, next := bits (ws.getD 4 0).toNat 47 16, count := n }])))

/-- R325 to R327: a command that completes in its issue cycle leaves its result in its destination and its group at the next word.
BAR.exp sets a barrier's expectation from 1 to 128, which completes a generation that has as many arrivals, and answers a code
otherwise; BAR.arr counts its group's arrival and goes on; BAR.arv counts it and waits; the arrival that completes a generation frees every thread that waits
in it, from the next cycle, and starts the next generation. -/
def Obligations.BarrierResults : Prop :=
  ∀ (s : State) (c : Ctl) (n : BitVec 4), Issuing s → Standing s → Drawn s → KeyedCores s → s.active c ≠ 0 →
    n.toNat < s.tm.barriers.length →
    let act := s.active c
    let b := s.barrier s.g.team n.toNat
    let k := s.cur.core
    let past (l : Nat) (t : State) : Prop := t.g.thread l = if s.cur.mask.getLsbD l then (s.g.thread l).past else s.g.thread l
    let mine : Prop := (s.g.index, s.g.alloc) ∈ b.arrived
    let wakes (t : State) : Prop := ∀ cc j g, t.group? cc j = some g → g.team = s.g.team → ∀ l, l < 32 → (g.thread l).wait ≠ .bar n.toNat b.gen
    (∀ d a v, (s.rd a (firstLane act)).toNat = v → 1 ≤ v → v ≤ 128 → b.a < v →
      ∃ t, exec (.barExp c d n a) s = .next t ∧ (t.barrier s.g.team n.toNat) = { b with e := v } ∧ (t.core k).ops = (s.core k).ops
        ∧ (∀ r, d = .v r → s.unheld r → ∀ l, l < 32 → act.getLsbD l = true → t.endV r l = 0) ∧ (∀ r, d = .s r → t.endS r = 0)
        ∧ ∀ l, l < 32 → past l t)
    ∧ (∀ d a v, (s.rd a (firstLane act)).toNat = v → 1 ≤ v → v ≤ 128 → v ≤ b.a →
      ∃ t, exec (.barExp c d n a) s = .next t ∧ (t.barrier s.g.team n.toNat) = { b with e := v, gen := (b.gen + 1) % 256, a := 0, arrived := [] } ∧ wakes t
        ∧ (∀ r, d = .v r → s.unheld r → ∀ l, l < 32 → act.getLsbD l = true → t.endV r l = 0) ∧ (∀ r, d = .s r → t.endS r = 0)
        ∧ ∀ l, l < 32 → s.cur.mask.getLsbD l = true → past l t)
    ∧ (∀ d a v, (s.rd a (firstLane act)).toNat = v → v < 1 ∨ 128 < v →
      ∃ t, exec (.barExp c d n a) s = .next t ∧ t.barrier s.g.team n.toNat = b
        ∧ (∀ r, d = .v r → s.unheld r → ∀ l, l < 32 → act.getLsbD l = true → t.endV r l = 0x80000001) ∧ (∀ r, d = .s r → t.endS r = 0x80000001)
        ∧ ∀ l, l < 32 → past l t)
    ∧ (¬ mine → b.a + 1 < b.e →
      (∃ t, exec (.barArr c n) s = .next t ∧ (t.barrier s.g.team n.toNat).a = b.a + 1 ∧ (t.barrier s.g.team n.toNat).gen = b.gen ∧ ∀ l, l < 32 → past l t)
      ∧ ∃ t, exec (.barArv c n) s = .next t ∧ (t.barrier s.g.team n.toNat).a = b.a + 1 ∧ (t.barrier s.g.team n.toNat).gen = b.gen
        ∧ ∀ l, l < 32 → if act.getLsbD l then (t.g.thread l).wait = .bar n.toNat b.gen ∧ (t.g.thread l).pc = s.cur.pc else past l t)
    ∧ (¬ mine → b.a + 1 = b.e →
      (∃ t, exec (.barArr c n) s = .next t ∧ (t.barrier s.g.team n.toNat).a = 0 ∧ (t.barrier s.g.team n.toNat).gen = (b.gen + 1) % 256 ∧ wakes t)
      ∧ ∃ t, exec (.barArv c n) s = .next t ∧ (t.barrier s.g.team n.toNat).a = 0 ∧ (t.barrier s.g.team n.toNat).gen = (b.gen + 1) % 256 ∧ wakes t
        ∧ ∀ l, l < 32 → act.getLsbD l = true → (t.g.thread l).wait = .redir (s.now k + 1) ∧ (t.g.thread l).pc = pcMod (s.cur.pc + 8))
    ∧ (mine → b.a < b.e → ∃ t, exec (.barArr c n) s = .next t ∧ t.barrier s.g.team n.toNat = b)

/-- R329, R330: a stage ring's four operations, when no earlier one of their kind waits: RACQ takes the next slot once it is empty in
its turn, RPUB fills the oldest acquired slot, RTAKE takes the next full one, RDONE empties the oldest taken one; each answers at once;
one that must wait holds its threads at the word. A ring of no stages traps. -/
def Obligations.RingResults : Prop :=
  ∀ (s : State) (c : Ctl) (i : BitVec 3), Issuing s → Drawn s → s.active c ≠ 0 →
    let act := s.active c
    let t := s.g.team
    let r := s.ring t i.toNat
    let free (k : RingOp) : Prop := s.ringWaiters t i.toNat k = []
    let done (w : Instr) (d : Opnd) (slot : Nat) (r' : Ring) : Prop := exec w s = .next (((s.updRing t i.toNat fun _ => r').atOnce w act
      (wbOne d act (BitVec.ofNat 32 slot))).wdRingClear s.cur.core s.cur.slot)
    let waits (w : Instr) : Prop := ∃ u, exec w s = .next u ∧ u.ring t i.toNat = r ∧ (∃ o, u.op? s.cur.core s.serial = some o ∧ o.lanes = act)
      ∧ ∀ l, l < 32 → act.getLsbD l = true → (u.g.thread l).wait = .op s.serial ∧ (u.g.thread l).pc = s.cur.pc
    let empty (x : Nat) : Prop := r.filled.getD x false = false
    let turn (x : Nat) : Bool := r.phase.getD (x % r.n) false == decide (x / r.n % 2 = 1)
    (r.n = 0 → ∀ w ∈ [Instr.rpub c i, .rdone c i, .racq c .zero i, .rtake c .zero i], exec w s = .next (s.trapW 1 act 0 s.cur.word.toNat 0))
    ∧ (r.n ≠ 0 → ∀ d,
      (free .acq → empty (r.p % r.n) → turn r.p = true → done (.racq c d i) d (r.p % r.n) { r with p := r.p + 1 })
      ∧ (free .acq → ¬ (empty (r.p % r.n) ∧ turn r.p = true) → waits (.racq c d i))
      ∧ (free .take → ¬ empty (r.c % r.n) → turn r.c = true → done (.rtake c d i) d (r.c % r.n) { r with c := r.c + 1 })
      ∧ (free .take → ¬ (¬ empty (r.c % r.n) ∧ turn r.c = true) → waits (.rtake c d i))
      ∧ (free .pub → r.qr < r.p → r.q = r.qr →
        done (.rpub c i) .zero 0 { r with qr := r.qr + 1, q := r.q + 1, filled := lset r.filled (r.qr % r.n) fun _ => true })
      ∧ (free .pub → r.p ≤ r.qr → waits (.rpub c i))
      ∧ (free .done → r.d < r.c → done (.rdone c i) .zero 0
        { r with d := r.d + 1, filled := lset r.filled (r.d % r.n) fun _ => false, phase := lset r.phase (r.d % r.n) (!·) })
      ∧ (free .done → r.c ≤ r.d → waits (.rdone c i)))

/-- R331 to R333, R389: SEND with a well-formed block, its port up and bound, and its local bytes readable, puts one message with those
bytes in its port's way and takes an entry of it; FGET asks for the bytes; a malformed block, or a port that is down or not bound,
sends nothing and leaves the fault to the command's completion. -/
def Obligations.FabricTransfersIssue : Prop :=
  ∀ (s : State) (c : Ctl) (l k r : SReg) (rel : Bool), Issuing s → Drawn s → Ordinary s → s.active c ≠ 0 →
    let act := s.active c
    let ctl := (s.srd k).toNat
    let len := bits ctl 31 8
    let port := bits ctl 3 0
    let p := s.port port
    let w : Who := { s.who (firstLane act) with engine := true }
    let good : Prop := bits ctl 63 32 = 0 ∧ bits ctl 7 4 = 0 ∧ 16 ≤ len ∧ len ≤ 4194304 ∧ len % 16 = 0
      ∧ (s.srd l).toNat % 16 = 0 ∧ (s.srd r).toNat % 16 = 0
    let b := s.binding s.tm.ctx port
    let takes (t : State) (n : Nat) : Prop := (t.port port).outstanding = p.outstanding ++ [(n, s.cur.core, n)]
      ∧ ∃ o, t.op? s.cur.core n = some o ∧ o.lanes = act
    let faults (i : Instr) (cause : Nat) : Prop := ∃ v x, exec i s = .next (v.sent i act (.fabric x)) ∧ SameGroup s v
      ∧ v.ports = s.ports ∧ x.err = some (cause, 0, 0)
    p.outstanding.length < Config.portEntries →
    (good → p.up = true → b.msb = true →
      (∀ posted u, s.localCheck w .load (s.srd l).toNat len = (u, .ok ()) →
        ∃ t m, exec (.send c l k r posted rel) s = .next t ∧ takes t m.seq ∧ (t.port port).out = p.out ++ [.put m]
          ∧ m.ctx = b.toNat % 256 ∧ m.va = (s.srd r).toNat ∧ m.bytes = (u.localRead w (s.srd l).toNat len).1 ∧ m.posted = posted ∧ m.rel = rel)
      ∧ ∃ t n, exec (.fget c l k r rel) s = .next t ∧ takes t n ∧ (t.port port).out = p.out ++
          [.getreq { seq := n, ctx := b.toNat % 256, va := (s.srd r).toNat, len, acq := rel }])
    ∧ (¬ good → (∀ posted, faults (.send c l k r posted rel) 1) ∧ faults (.fget c l k r rel) 1)
    ∧ (good → p.up = false ∨ b.msb = false → (∀ posted, faults (.send c l k r posted rel) 0x0E) ∧ faults (.fget c l k r rel) 0x0E)

/-- R334 to R336: DALLOC answers, lane after lane, the lowest run of free granules of the pool's bitmap and marks it; DFREE clears the
run it names, unless that run includes a granule of a bitmap; both through the bitmap's bytes at their homes, into which no program has
stored. A group that owns no slice gets 0. -/
def Obligations.ArenaResults : Prop :=
  (∀ (n b : Nat) (l : List Bool), 1 ≤ n →
    (findRun n l 0 0 = some b → b + n ≤ l.length ∧ (∀ i, i < n → l.getD (b + i) true = false)
      ∧ ∀ a, a < b → ∃ i, i < n ∧ l.getD (a + i) true = true)
    ∧ (findRun n l 0 0 = none → ∀ a, a + n ≤ l.length → ∃ i, i < n ∧ l.getD (a + i) true = true))
  ∧ ∀ (s u : State) (c : Ctl) (ps : List Spot), Issuing s → Ordinary s → s.active c ≠ 0 →
    let act := s.active c
    (s.pool 0 = none → ∀ d a, exec (.dalloc c d a) s =
      .next ((s.noAudit (s.who 0)).sent (.dalloc c d a) act (.done (ldWbs d act 8 false false ((lanesOf act).map fun l => (l, leBytes 8 0))))))
    ∧ (s.pool 0 = none → ∀ a b, exec (.dfree c a b) s = .next ((s.noAudit (s.who 0)).sent (.dfree c a b) act (.done [])))
    ∧ ∀ base len, s.pool 0 = some (base, len) → u.plain →
      (∀ p ∈ ps, u.poisoned p.pa 16 = false ∧ u.l2Hurt (dieOf s.cur.core) p.cls p.pa 16 = false) → WritesHome u ps →
      s.checkAll (s.who (firstLane act)) .atomic 16 16 (s.poolPieces act) noDet = (u, .ok ps) →
      let rd (m : List Host.Cell) : List Byte := ps.flatMap fun p => memRd m p.pa 16
      let wr (m : List Host.Cell) (bs bs' : List Byte) : List Host.Cell :=
        if bs' == bs then m else (ps.zipIdx).foldl (fun m p => memWr m p.1.pa ((bs'.drop (16 * p.2)).take 16)) m
      let need (x : W32) : Nat := (x.toNat + 15) / 16
      (s.spoilt (base, len) = false → ∀ d a,
        let r := (lanesOf act).foldl (fun (q : List (Nat × List Byte) × List Host.Cell) l =>
          match (if need (s.rd a l) == 0 then none else findRun (need (s.rd a l)) (mapBits (rd q.2) (len / 16)) 0 0) with
          | some b => (q.1 ++ [(l, leBytes 8 (BitVec.ofNat 64 (base + 16 * b)).toNat)], wr q.2 (rd q.2) (mapSet (rd q.2) b (need (s.rd a l)) true))
          | none => (q.1 ++ [(l, leBytes 8 0)], q.2)) ([], u.mem)
        ∃ v, exec (.dalloc c d a) s = .next (v.sent (.dalloc c d a) act (.done (ldWbs d act 8 false false r.1))) ∧ v.mem = r.2 ∧ SameGroup s v)
      ∧ ∀ a b,
        let m := (lanesOf act).foldl (fun (m : List Host.Cell) l =>
          let p := (s.rd64 a l).toNat
          let g := (p - base) / 16
          if p = 0 ∨ p < base ∨ base + len ≤ p ∨ p % 16 ≠ 0 ∨ g < poolMap len / 16
            ∨ ((s.nextPools l).any fun x => decide (p < x) && decide (x < p + 16 * need (s.rd b l))) = true then m
          else wr m (rd m) (mapSet (rd m) g (need (s.rd b l)) false)) u.mem
        ∃ v, exec (.dfree c a b) s = .next (v.sent (.dfree c a b) act (.done [])) ∧ v.mem = m ∧ SameGroup s v

/-- R337, R338: LIVE goes on where no pre-emption of its team is pending, and where one is its group's save is due from it, or taken; TRAP
and BKPT take their traps with the word's immediate. -/
def Obligations.SoftwareTraps : Prop :=
  ∀ (s : State) (c : Ctl), Issuing s →
    let act := s.active c
    (∀ k, act = 0 ∨ s.tm.preempt = none →
      ∃ t, exec (.live c k) s = .next t ∧ Steers (.live c k) s s t [] [] (s.thenAt 0 fun _ t => t) s.g.join)
    ∧ (∀ k, KeyedCores s → act ≠ 0 → s.tm.preempt.isSome = true → s.g.saveRec = none →
      ∃ t, exec (.live c k) s = .next t ∧ ∀ g, t.group? s.cur.core s.cur.slot = some g → g.saveRec = some k.toNat)
    ∧ (act ≠ 0 → ∀ imm, exec (.trap c imm) s = .next (s.trap s.cur.core s.cur.slot
          { cause := 0x12, pc := s.cur.pc, lanes := act, va := 0, x0 := imm.setWidth 64, x1 := 0, logged := false })
      ∧ exec (.bkpt c imm) s = .next (s.trap s.cur.core s.cur.slot
          { cause := 0x13, pc := s.cur.pc, lanes := act, va := 0, x0 := imm.setWidth 64, x1 := 0, logged := false }))

/-- R356 to R358, R367 to R370: a recoverable trap whose handler may run enters it: each trapping thread stands at the handler with its resume
state saved, its link, with the cause, in the top even pair of its group's budget; the others stay. A BKPT without a handler halts its
team past its word. Any other trap that is not rolled back tears its queue down and ends its launch. -/
def Obligations.TakingATrap : Prop :=
  ∀ (s : State) (c k : Nat) (g : Group) (ti : TrapInfo), s.group? c k = some g → (s.team g.team).preempt = none → (s.team g.team).rerun = none →
    let t := s.trap c k ti
    let now := s.now c
    (∀ h u, (ti.cause = 0x0B ∨ ti.cause = 0x12 ∨ ti.cause = 0x13) → s.handlerPc c k ti.lanes = some (h, u) →
      ∃ g', t.group? c k = some g'
        ∧ (∀ l, l < 32 → ti.lanes.getLsbD l = true →
          let p := (g.thread l).past
          g'.thread l = { p with level := true, resume := p.pc, rseta := p.seta, rsetb := p.setb, rleft := p.left, pc := h, left := 0, wait := .redir (now + 3) })
        ∧ (∀ l, l < 32 → ti.lanes.getLsbD l = false → g'.thread l = g.thread l)
        ∧ (let r := 2 * (g.budget / 2) - 2
          2 ≤ g.budget → g.held.any (fun x => x.1 == r || x.1 == r + 1) = false → ∀ l, l < 32 → ti.lanes.getLsbD l = true →
          ((g'.reg (r + 1)).lane l ++ (g'.reg r).lane l) = 1#1 ++ BitVec.ofNat 6 ti.cause ++ BitVec.ofNat 57 ((g.thread l).pc + 8)))
    ∧ (ti.cause = 0x13 → s.handlerPc c k ti.lanes = none → (∀ l, l < 32 → ti.lanes.getLsbD l = true → (g.thread l).level = false) →
      (t.team g.team).halted = true ∧ ∃ g', t.group? c k = some g' ∧ g'.regs = g.regs
        ∧ ∀ l, l < 32 → g'.thread l = if ti.lanes.getLsbD l then (g.thread l).past else g.thread l)
    ∧ ((ti.cause = 0x0B ∨ ti.cause = 0x12 → s.handlerPc c k ti.lanes = none) → ti.cause ≠ 0x13 → (ti.rolls && (s.team g.team).rollOk) = false →
      ∀ r, aget s.launches (s.team g.team).launch = some r → r.foreign = none → (s.queue r.queue).st = .running →
      (t.queue r.queue).st = .torn ∧ (t.queue r.queue).cmds = [] ∧ aget t.launches (s.team g.team).launch = none)

/-- R315, R341, R342, R346, R348: SRD leaves in its scalar the value of the register it names, and a register that is not the same for
every run of the team ends its eligibility for audit; SWR sets BINTMR, held to 16 to 4096, and HCBASE, whose size field must be 4 to
12, with HCIDX then 0. That 0x00C reads 100,000,000 where the descriptor's WATCHDOG is 0 is read from R315 by inference (log 43). A
privileged register traps in a context without supervisor privilege, for every thread at the PC. -/
def Obligations.SpecialRegisters : Prop :=
  ∀ (s : State) (c : Ctl), Issuing s →
    let ctx := s.tm.ctx
    let x := s.ctx ctx
    let k := s.cur.core
    let die := s.die (dieOf k)
    let u (n : BitVec 9) : State := if srLocal n.toNat then s.noAudit (s.who (firstLane (s.active c))) else s
    let reads (n : BitVec 9) (v : W64) : Prop := ∀ d, ∃ t, exec (.srd c d n) s = .next t ∧ Frame (.srd c d n) (u n) t [] [d] [] ∧ t.endS d = v
    let num (n : Nat) : W64 := BitVec.ofNat 64 n
    let priv (n : BitVec 9) : Prop := n = 0x011 ∨ (0x110 ≤ n.toNat ∧ n.toNat ≤ 0x118) ∨ (0x120 ≤ n.toNat ∧ n.toNat ≤ 0x122) ∨ n = 0x130
    (∀ n d, priv n → x.super = false → exec (.srd c d n) s = .next (s.trapW 6 s.cur.mask 0 s.cur.word.toNat 0))
    ∧ (∀ e, x.super = false → exec (.swr c 0x011 e) s = .next (s.trapW 6 s.cur.mask 0 s.cur.word.toNat 0))
    ∧ (s.active c ≠ 0 →
      (reads 0x000 (num s.tm.index) ∧ reads 0x001 (num s.g.index) ∧ reads 0x002 (num s.g.item) ∧ reads 0x003 (num s.g.role)
        ∧ reads 0x004 (num k) ∧ reads 0x005 (num (k / 4)) ∧ reads 0x006 (num (k / 64))
        ∧ reads 0x007 (num (die.clk - (s.pcore (66 * (k / 64) + die.clmap.getD (k % 64) 0)).start)) ∧ reads 0x008 s.time
        ∧ reads 0x009 (num ctx) ∧ reads 0x00A (num s.tm.queue) ∧ reads 0x00B (num (s.tm.cores.idxOf k))
        ∧ reads 0x00C (num (if s.tm.desc.watchdog = 0 then 100000000 else s.tm.desc.watchdog))
        ∧ reads 0x010 x.bintmr ∧ reads 0x012 (x.hcidx.setWidth 64)
        ∧ ∀ n : BitVec 9, 0x100 ≤ n.toNat → n.toNat ≤ 0x109 → reads n ((aget (s.core k).counters n.toNat).getD 0))
      ∧ (x.super = true → reads 0x011 x.hcbase ∧ reads 0x130 (num (s.pcore (66 * (k / 64) + die.clmap.getD (k % 64) 0)).suspicion)
        ∧ (∀ n : BitVec 9, 0x110 ≤ n.toNat → n.toNat ≤ 0x118 → reads n ((aget die.counters n.toNat).getD 0))
        ∧ ∀ n : BitVec 9, 0x120 ≤ n.toNat → n.toNat ≤ 0x122 → reads n ((aget s.devCounters n.toNat).getD 0))
      ∧ ∀ e,
        let v := s.srd e
        let sets (n : BitVec 9) (y : Ctx) : Prop := ∃ t, exec (.swr c n e) s = .next t ∧ Frame (.swr c n e) (s.updCtx ctx fun _ => y) t [] [] []
        sets 0x010 { x with bintmr := BitVec.ofNat 64 (max 16 (min 4096 v.toNat)) }
        ∧ (x.super = true → sets 0x011 { x with
            hcbase := if 4 ≤ v.toNat % 16 ∧ v.toNat % 16 ≤ 12 then v &&& 0x01FFFFFFFFFFF00F else 0, hcidx := 0 }))

/-- R178, R343: over one code line, IPF brings the line into the level it names, when it is not there and its check passes; IPIN pins
it, within half the ways of its set, and counts a pin that passes the limit; IUNPIN unpins every line of its range, and no other.
Each is a command that is complete at once. That a line's set is its number modulo the sets is the model's choice (log 16). -/
def Obligations.InstructionCacheSteering : Prop :=
  ∀ (s : State) (c : Ctl) (a : SReg) (b : Opnd) (l1 : Bool), Issuing s → s.active c ≠ 0 → s.g.quad < (s.core s.cur.core).l0i.length →
    let act := s.active c
    let ctx := s.tm.ctx
    let lines := s.codeLines act a b
    let has (t : State) (x : Nat) : Option ICLine := icFind (t.icLevel l1) ctx x
    let ends (i : Instr) (p : State → Prop) : Prop := ∃ v, exec i s = .next (v.sent i act (.done [])) ∧ p v ∧ v.g = s.g ∧ v.cur = s.cur
    let ways : Nat := if l1 then 8 else 4
    let set_ (va : Nat) : Nat := va / 128 % (if l1 then 128 else 32)
    ((∀ x, x ∈ lines ↔ ∃ k, x = pcMod ((s.srd a).toNat - (s.srd a).toNat % 128 + 128 * k) ∧ canonical (s.srd a).toNat = true
        ∧ 0 < (s.rd b (firstLane act)).toNat ∧ 128 * k < (s.srd a).toNat % 128 + (s.rd b (firstLane act)).toNat)
      ∧ (lines = [] → ends (.ipf c a b l1) (fun v => v = s) ∧ ends (.ipin c a b l1) (fun v => v = s))
      ∧ ∀ x, lines = [x] →
        (∀ y, has s x = some y → ends (.ipf c a b l1) fun v => v = s)
        ∧ (∀ u y, has s x = none → s.codeLine s.cur.core ctx x false = (u, .ok y) → ends (.ipf c a b l1) fun v => has v x = some y)
        ∧ (∀ u e, has s x = none → s.codeLine s.cur.core ctx x false = (u, .error e) → ends (.ipf c a b l1) fun v => v = u)
        ∧ ∀ y, has s x = some y → y.pin = false →
          let n := ((s.icLevel l1).filter fun z => z.pin && set_ z.va == set_ x).length
          (n < ways / 2 → ends (.ipin c a b l1) fun v => has v x = some { y with pin := true })
          ∧ (ways / 2 ≤ n → ends (.ipin c a b l1) fun v => has v x = some y
            ∧ (aget (v.core s.cur.core).counters 0x104).getD 0 = (aget (s.core s.cur.core).counters 0x104).getD 0 + 1))
    ∧ ends (.iunpin c a b l1) fun v =>
        (∀ x, x ∈ lines → has v x = (has s x).map fun y => { y with pin := false })
        ∧ (∀ x cx, x ∉ lines ∨ cx ≠ ctx → icFind (v.icLevel l1) cx x = icFind (s.icLevel l1) cx x)
        ∧ v.icLevel (!l1) = s.icLevel (!l1) ∧ v.mem = s.mem

/-- R325, R339, R340, R342, R385: HCALL writes its block to the next slot of the host-call ring, bit 63 of the first word set, answers HCIDX, which
rises, and interrupts the host; it answers a code when the ring is off or its slot is taken. QSIG writes its block at a queue's WR, which
rises, and answers WR; it answers a code when the queue is not running, is another context's, or is full. In a DETERMINISTIC kernel both
trap (R325). The 57-bit bases are sign-extended (R342; by inference, log 31). -/
def Obligations.HostCallResults : Prop :=
  ∀ (s : State) (c : Ctl) (d : Opnd) (k : BitVec 4), Issuing s → s.active c ≠ 0 →
    let act := s.active c
    let f := firstLane act
    let ctx := s.tm.ctx
    let x := s.ctx ctx
    let s0 := s.noAudit (s.who f)
    let agent : Who := { die := dieOf s.cur.core, core := some s.cur.core, ctx }
    let words (va : Nat) : List (Nat × Nat) := (List.range 8).map fun j => (f, (va + 8 * j) % 2 ^ 64)
    let ws := (blockRegs k).map s.srd
    (s.tm.desc.det = true → exec (.hcall c d k) s = .next (s.trapW 0x11 act 0 3 0)
      ∧ ∀ q, exec (.qsig c d q k) s = .next (s.trapW 0x11 act 0 3 0))
    ∧ (Ordinary s →
      let i : Instr := .hcall c d k
      let answers (u : State) (v : W32) : Prop := exec i s = .next (u.sent i act (.done (wbOne d act v)))
      let slot := ((sext57 (bits x.hcbase.toNat 56 12 * 4096)).toNat + 64 * (x.hcidx.toNat % 2 ^ (x.hcbase.toNat % 16))) % 2 ^ 64
      (x.hcbase = 0 → answers s0 0x80000001)
      ∧ ∀ u ps, x.hcbase ≠ 0 → s0.checkAll (s0.who f) .load 8 8 [(f, slot)] noDet = (u, .ok ps) → u.poisonTrap act ps 8 true = none →
        ((u.slotFull f ps).1 = true → answers (u.slotFull f ps).2 0x80000002)
        ∧ ∀ v qs y, (u.slotFull f ps).1 = false →
          (u.slotFull f ps).2.checkAll ((u.slotFull f ps).2.who f) .store 8 8 (words slot) noDet = (v, .ok qs) →
          ((v.noRollW (v.who f)).sysWrite agent s.tm.launch slot (leBytes 8 ((ws.headD 0) ||| 0x8000000000000000).toNat
            ++ (ws.drop 1).flatMap fun w => leBytes 8 w.toNat) true) = some y →
          ∃ z, answers z x.hcidx ∧ z = (y.updCtx ctx fun x => { x with hcidx := x.hcidx + 1 }).msi ctx 0)
    ∧ (Ordinary s → ∀ q,
      let i : Instr := .qsig c d q k
      let answers (u : State) (v : W32) : Prop := exec i s = .next (u.sent i act (.done (wbOne d act v)))
      let n := (s.srd q).toNat % 1024
      let y := s.queue n
      let size := 2 ^ (y.cfg.toNat % 32)
      let slot := ((sext57 (bits y.base.toNat 56 12 * 4096)).toNat + 64 * (y.wr.toNat % size)) % 2 ^ 64
      (y.st ≠ .running → answers s0 0x80000001)
      ∧ (y.st = .running → bits y.cfg.toNat 15 8 ≠ ctx → answers s0 0x80000002)
      ∧ (y.st = .running → bits y.cfg.toNat 15 8 = ctx → (y.wr - y.rd).toNat = size → answers s0 0x80000003)
      ∧ ∀ v qs z, y.st = .running → bits y.cfg.toNat 15 8 = ctx → (y.wr - y.rd).toNat ≠ size →
        s0.checkAll (s0.who f) .store 8 8 (words slot) noDet = (v, .ok qs) →
        (v.noRollW (v.who f)).sysWrite agent s.tm.launch slot (ws.flatMap fun w => leBytes 8 w.toNat) true = some z →
        answers (z.updQueue n fun y => { y with wr := y.wr + 1, sigs := y.sigs ++ [y.wr] }) y.wr)

/-- R81, R150, R173, R329, R354, R363: what waits comes to its end. A sleep whose cycle has come ends, and no earlier. A waiting
full/empty operation keeps the lanes its granules do not yet allow, and completes when none is left; a ring operation that waited
first is granted, placed, or waits on. A completed one is outstanding no longer, and its threads leave for the next word. A spill
moves what the youngest group has live to its spill area, and a fetch brings a register back when a word of its group waits to read it
and there is room that nothing older waits for. A logged word that completes leaves its group's registers and threads as they were, and
the group that has followed in the slot untouched; one that does not stays logged; what it traps for is taken once its group has its own
registers again. -/
def Obligations.WaitsComeToTheirEnd : Prop :=
  ∀ (s : State) (c k : Nat) (g : Group), s.group? c k = some g → g.saveRec = none → g.saved = false →
    let others (t : State) : Prop := ∀ d j, (d, j) ≠ (c, k) → t.group? d j = s.group? d j
    let only (t : State) (h : Group) : Prop := t = { s with cores := t.cores } ∧ t.group? c k = some h ∧ others t
    let freed (n : Nat) (h : Group) : Prop := ∀ l, l < 32 → h.thread l =
      if (g.thread l).wait = .op n then { g.thread l with pc := pcMod ((g.thread l).pc + 8), wait := .run } else g.thread l
    (∀ l n, l < 32 → (g.thread l).wait = .sleep n → ∃ t ts, exec (.sleepEnd c k l) s = .next t ∧ only t { g with threads := ts }
      ∧ ∀ j, ts.getD j {} = if j = l ∧ n ≤ s.now c then { g.thread l with wait := .run } else g.thread j)
    ∧ (∀ r v, aget g.spilled r = some v →
      let asks := s.asks c [v.code]
      let lacks : Prop := s.wantsBack c g r = false ∨ (s.lacks c [v.code]).1 = true ∨ (s.lacks c [v.code]).2 = true
        ∨ (asks.1 = true ∧ (s.olderWaited c g.alloc).1 = true) ∨ (asks.2 = true ∧ (s.olderWaited c g.alloc).2 = true)
        ∨ s.late (s.spiller c k) .load (s.spillAt c k r) 128 = true
      (lacks → exec (.spilledRegisterFetch c k r) s = .next s)
      ∧ (¬ lacks → ∃ t, exec (.spilledRegisterFetch c k r) s = .next t
        ∧ only t { g with regs := aset g.regs r v, spilled := adel g.spilled r }))
    ∧ ((s.core c).allocWait < 64 → exec (.registerSpill c) s = .next s)
    ∧ (64 ≤ (s.core c).allocWait → (∀ x ∈ s.tmpls, x.2.dropped = false) → Keyed (s.core c).slots → Keyed g.regs → s.spillable c k g ≠ [] →
      (∀ j q, s.group? c j = some q → j ≠ k → s.spillable c j q ≠ [] → q.alloc < g.alloc) →
      (s.spillLate c k (s.spillable c k g) = true → exec (.registerSpill c) s = .next s)
      ∧ (s.spillLate c k (s.spillable c k g) = false → ∃ t h, exec (.registerSpill c) s = .next t ∧ t.group? c k = some h ∧ others t ∧ (t.core c).allocWait = 0
        ∧ (∀ x ∈ s.spillable c k g, aget h.regs x.1 = none ∧ aget h.spilled x.1 = some x.2)
        ∧ (∀ r, (∀ x ∈ s.spillable c k g, x.1 ≠ r) → aget h.regs r = aget g.regs r)
        ∧ (aget (t.core c).counters 0x105).getD 0 = (aget (s.core c).counters 0x105).getD 0 + 1))
    ∧ (∀ o, s.op? c o.id = some o → o.slot = k → (aget (s.core c).tags k).getD 0 = o.tag →
      (∀ todo empty, o.kind = .feWait todo empty →
        let left := todo.filter fun q => s.isFull o.team q == empty
        (left ≠ [] → exec (.feGrant c o.id) s = .next (s.updOp c o.id fun o => { o with kind := .feWait left empty }))
        ∧ (left = [] → ∃ t h, exec (.feGrant c o.id) s = .next t ∧ only t h ∧ t.op? c o.id = none ∧ freed o.id h))
      ∧ (∀ todo got d n sx uu wait got' u, o.kind = .fe todo got d n sx uu → s.feStep o.team c o.id true todo got = (wait, got', u) →
        s.blocksFirst c o.team u = none →
        (∀ r ∈ todo, r.store = none → (∀ w ∈ wait, w.lane ≠ r.lane) → s.scHurt o.team r.addr r.size = false) →
        (wait ≠ [] → exec (.feGrant c o.id) s = .next (u.updOp c o.id fun o => { o with kind := .fe wait got' d n sx uu }))
        ∧ (wait = [] → (s.team o.team).blocks = [] → ∃ t h, exec (.feGrant c o.id) s = .next t ∧ t.group? c k = some h ∧ others t ∧ t.teams = u.teams
          ∧ t.op? c o.id = none ∧ freed o.id h))
      ∧ ∀ q i pos d, o.kind = .ring q i pos d → i < (s.team o.team).rings.length →
        let first : Prop := (q = .pub ∧ pos ≠ 0) ∨ ((s.ringWaiters o.team i q).map (·.2.id)).min? = some o.id
        let tries := (s.ring o.team i).try_ q pos
        (¬ first ∨ tries = .waits → exec (.ringGrant c o.id) s = .next s)
        ∧ (∀ p r, first → tries = .placed p r → exec (.ringGrant c o.id) s =
          .next ((s.updRing o.team i fun _ => r).updOp c o.id fun o => { o with kind := .ring q i p d }))
        ∧ ∀ x r, first → tries = .granted x r → ∃ t h, exec (.ringGrant c o.id) s = .next t ∧ t.ring o.team i = r
          ∧ t.op? c o.id = none ∧ t.group? c k = some h ∧ others t ∧ freed o.id h
          ∧ (∀ n, d = .v n → g.held.any (·.1 == n) = false → ∀ l, l < 32 → o.lanes.getLsbD l = true →
              (h.final.reg n).lane l = BitVec.ofNat 32 x)
          ∧ ∀ n, d = .s n → h.final.sreg n = (BitVec.ofNat 32 x).setWidth 64)
    ∧ ((s.core c).opLog.find? (·.slot == k) = none → exec (.operandLogReplay c k) s = .next s)
    ∧ ∀ e, (s.core c).opLog.find? (·.slot == k) = some e → (∀ l r, s.upsets ≠ .own l :: r) → (∀ r, s.upsets ≠ .log :: r) →
      let tag := (s.core c).tag k
      let s1 := s.updCore c fun x => { x with
        opLog := x.opLog.erase e, slots := aset x.slots k (e.actor (if tag = e.tag then some g else none)), tags := aset x.tags k e.tag }
      let r := rerun e.instr { s1 with cur := { e.cur with replay := true, soft := false, first := s.now c, last := s.now c } }
      let logged : Prop := r.cur.stall = true ∨ (s1.core c).opLog.length < (r.core c).opLog.length
      let stays : Prop := logged ∨ r.cur.hold = true
      let own (q : Group) : Group :=
        { q with regs := g.regs, spilled := g.spilled, held := g.held, sregs := g.sregs, preds := g.preds, threads := g.threads }
      (logged → exec (.operandLogReplay c k) s = .next s)
      ∧ (¬ logged → r.cur.hold = true → ∃ t, exec (.operandLogReplay c k) s = .next t ∧ t.cur = s.cur ∧ t.mem = r.mem
        ∧ (t.core c).opLog = (s.core c).opLog ∧ t.group? c k = some g)
      ∧ (∀ ti q, ¬ stays → tag = e.tag → r.cur.trap = some ti → r.group? c k = some q → q.alloc = g.alloc →
        ∃ x : State, x.group? c k = some (own q) ∧ x.mem = r.mem
          ∧ exec (.operandLogReplay c k) s = .next (({ x.trap c k ti with cur := s.cur } : State).opDone c k))
      ∧ (¬ stays → tag = e.tag → r.cur.trap = none → ∀ q, r.group? c k = some q → q.alloc = g.alloc → q.saveRec = none → q.saved = false →
        ∃ t h, exec (.operandLogReplay c k) s = .next t ∧ t.cur = s.cur ∧ t.mem = r.mem ∧ (t.core c).opLog = (r.core c).opLog
          ∧ t.group? c k = some h
          ∧ h = own q)
      ∧ (¬ stays → tag ≠ e.tag → r.cur.trap = none → (aget r.teams g.team).isSome = true → (r.team g.team).rerun = none →
        ∃ t, exec (.operandLogReplay c k) s = .next t ∧ t.cur = s.cur ∧ t.mem = r.mem ∧ t.group? c k = some g)

/-- R296, R297, R303: a team's owed item is created when a place and the limits allow, as a group of role GENERAL with the next item
number, and is then owed no more; a bin whose timer has come is full; a full bin becomes a group on its core, one thread for each
lane, with its arguments in the registers from 1, below its budget; a copy that has run its time brings a block of the team's
scratchpad, and no byte or full/empty bit of it reads differently. -/
def Obligations.ItemsBinsAndBlocks : Prop :=
  ∀ (s : State) (team : Nat), KeyedCores s → (∀ c, ∀ p ∈ (s.core c).slots, p.1 < 48) →
    let tm := s.team team
    (∀ o rest, tm.owed = o :: rest → tm.st ≠ .resident ∨ 128 ≤ s.teamLoad team ∨ s.makeItem team o = none →
      exec (.itemCreation team) s = .next s)
    ∧ (tm.owed = [] → exec (.itemCreation team) s = .next s)
    ∧ (∀ o rest u, tm.owed = o :: rest → tm.st = .resident → s.makeItem team o = some u → (∀ x ∈ s.tmpls, x.2.dropped = false) →
      exec (.itemCreation team) s = .next u
      ∧ (u.team team).owed = tm.owed.filterMap (fun q =>
        if q.id ≠ o.id then some q else if q.count ≤ 1 then none else some { q with next := q.next + 1, count := q.count - 1 })
      ∧ ∃ c k h, c ∈ tm.cores ∧ s.group? c k = none ∧ u.group? c k = some h ∧ h.team = team ∧ h.item = o.next % 2 ^ 32 ∧ h.role = 3
        ∧ ∀ d j, (d, j) ≠ (c, k) → u.group? d j = s.group? d j)
    ∧ (∀ c n b, aget (s.core c).bins n = some b →
      (b.due ≤ s.now c → b.threads ≠ [] → ∃ t, exec (.binTimerExpiry c n) s = .next t ∧ t = { s with cores := t.cores }
        ∧ (∀ d, t.core d = { s.core d with bins := (t.core d).bins }) ∧ aget (t.core c).bins n = some { b with full := true })
      ∧ (s.now c < b.due ∨ b.threads = [] → exec (.binTimerExpiry c n) s = .next s)
      ∧ let bud := (s.kernel b.team).lateBudget
      (b.full = false ∨ s.freeSlots c = 0 ∨ s.headroom c bud = false ∨ (s.team b.team).st ≠ .resident → exec (.binLaunch c n) s = .next s)
      ∧ (b.full = true → s.freeSlots c ≠ 0 → s.headroom c bud = true → (s.team b.team).st = .resident → b.tmpl = none →
        ∃ t k h, exec (.binLaunch c n) s = .next t ∧ s.group? c k = none ∧ t.group? c k = some h ∧ h.team = b.team ∧ h.role = 3
          ∧ aget (t.core c).bins n = none
          ∧ (∀ l, l < 32 → h.thread l = if l < b.threads.length then { pc := b.entry, wait := .run } else {})
          ∧ ∀ j l, j < b.n → j + 1 < bud → l < 32 → (h.reg (j + 1)).lane l = (b.threads.getD l []).getD j 0))
    ∧ ∀ c a, (tm.blockAt a = none → exec (.scratchpadCopyFault team c a) s = .next s)
      ∧ (∀ b, tm.blockAt a = some b → (∀ x ∈ tm.copying, x.1 = b.1 → x.2.1 = c → s.now c < x.2.2) → exec (.scratchpadCopyFault team c a) s = .next s)
      ∧ ∀ b till, tm.blockAt a = some b → (b.1, c, till) ∈ tm.copying → till ≤ s.now c → Memory.wf tm.scratch = true → b.1 % 16 = 0 → b.2.1 % 16 = 0 →
        (tm.blocks.Pairwise fun p q => p.1 + p.2.1 ≤ q.1 ∨ q.1 + q.2.1 ≤ p.1) →
        ∃ t, exec (.scratchpadCopyFault team c a) s = .next t ∧ (t.team team).blockAt a = none
          ∧ (∀ x, t.scByte team x = s.scByte team x ∧ t.isFull team x = s.isFull team x)
          ∧ (aget (t.core c).counters 0x102).getD 0 = (aget (s.core c).counters 0x102).getD 0 + 1

/-- R324, R328, R330, R353, R354: a watchdog whose count has come ends its launch: its queue is torn down with no command left, and its record and its teams are gone. A count that has not come does nothing. -/
def Obligations.WatchdogsEndTheLaunch : Prop :=
  ∀ (s : State) (team : Nat) (r : Launch), KeyedCores s → Housed s → aget s.launches (s.team team).launch = some r → r.foreign = none →
    (aget s.teams team).isSome = true → (s.team team).rerun = none → (s.queue r.queue).st = .running →
    let due (n : Nat) : Prop := (s.team team).desc.timeout ≤ n
    let ends (i : Instr) : Prop := ∃ t, exec i s = .next t ∧ (t.queue r.queue).st = .torn ∧ (t.queue r.queue).cmds = []
      ∧ aget t.launches (s.team team).launch = none ∧ ∀ n m, aget t.teams n = some m → m.launch ≠ (s.team team).launch
    let group (c k : Nat) (g : Group) : Prop := s.group? c k = some g ∧ g.team = team
    let of (d : Nat) (o : POp) (g : Group) : Prop := s.op? d o.id = some o ∧ group d o.slot g ∧ (s.core d).tag o.slot = o.tag
    (∀ n c k g l e, group c k g → l < 32 → (g.thread l).wait = .bar n e → due g.wdBar → ends (.barrierWatchdog team n))
    ∧ (∀ n, (∀ c k g, group c k g → ¬ due g.wdBar ∨ ∀ x ∈ g.threads, ∀ e, x.wait ≠ .bar n e) →
        exec (.barrierWatchdog team n) s = .next s)
    ∧ (∀ d o g w, of d o g → due g.wdRing → s.ringWait d o.slot g = some w → ends (.ringWatchdog d o.id))
    ∧ (∀ d n k g w, s.op? d n = none → group d k g → due g.wdRing → s.ringWait d k g = some w → ends (.ringWatchdog d n))
    ∧ (∀ d o g, of d o g → ¬ due g.wdRing → exec (.ringWatchdog d o.id) s = .next s)
    ∧ (∀ d o g, of d o g → due g.wdFe →
        ((∃ q rest got y n sx u, o.kind = .fe (q :: rest) got y n sx u) ∨ ∃ a rest e, o.kind = .feWait (a :: rest) e) →
        ends (.feWatchdog d o.id))
    ∧ ∀ d o g, of d o g → ¬ due g.wdFe → exec (.feWatchdog d o.id) s = .next s

/-- R199, R203, R205, R209, R276 to R278: a ripe difference record changes at its home the words it carries, and no other byte, and is
gone, and an older one of its writer and line, still held, carries those words no more; a narrow holder publishes every line it wrote since its twins, and holds no more; a host's bytes land at their home, with a notice
for every die, whose copies stay; a shootdown clears DONE, and its end, which waits for the writes that releases still owe through it,
sets it, with the matching translations gone, and the written lines of its pages published; the migration counts start again every
100,000 ticks; a page is first marked, then moved, once no release owes it a write, its leaf names the new frame, and its record is
posted or waits for the ring. That a migration is two acts is read from R278 by inference (log 29); when the ring has room is the
model's choice (log 35). -/
def Obligations.RecordsHostsAndPages : Prop :=
  ∀ s : State, Memory.wf s.mem = true → Keyed s.dies → (∀ x, Keyed (s.die x).twins) →
    (∀ n, s.recs.find? (·.id == n) = none → exec (.differenceRecord n) s = .next s)
    ∧ (∀ r, s.recs.find? (·.id == r.id) = some r →
      (s.ripe r = false → exec (.differenceRecord r.id) s = .next s)
      ∧ (s.ripe r = true → Keyed r.words → (∀ w ∈ r.words, w.1 < 32) →
        ∃ t, exec (.differenceRecord r.id) s = .next t ∧ t.recs = (s.recs.filter (·.id != r.id)).map (fun q =>
            if q.held = true ∧ q.writer = r.writer ∧ q.line = r.line ∧ q.id < r.id then
              { q with words := q.words.filter fun w => !r.words.any (·.1 == w.1) } else q)
          ∧ (∀ i, i < 32 → (t.homeWords r.line).getD i 0 = ((aget r.words i).getD ((s.homeWords r.line).getD i 0)))
          ∧ ∀ a, a < r.line ∨ r.line + 128 ≤ a → memGet t.mem a = memGet s.mem a))
    ∧ (∀ x key, x ∉ ((s.entry? key).getD {}).narrow → exec (.forcedPublication x key) s = .next s)
    ∧ (∀ x key e, s.entry? key = some e → x ∈ e.narrow → ∃ t e', exec (.forcedPublication x key) s = .next t
      ∧ t.entry? key = some e' ∧ e'.narrow = e.narrow.filter (· != x) ∧ e'.next = e.next + 1
      ∧ ∀ w ∈ (t.die x).twins, w.2.cls ≠ .c)
    ∧ (∀ pa bytes, bytes = [] ∨ s.visible pa = false ∨ s.visible (pa + bytes.length - 1) = false → exec (.hostWrite pa bytes) s = .next s)
    ∧ (∀ pa bytes, bytes ≠ [] → s.visible pa = true → s.visible (pa + bytes.length - 1) = true →
      ∃ t, exec (.hostWrite pa bytes) s = .next t
        ∧ (∀ a, memGet t.mem a = if pa ≤ a ∧ a < pa + bytes.length then bytes.getD (a - pa) 0 else memGet s.mem a)
        ∧ (∀ x, (t.die x).copies = (s.die x).copies ∧ (t.die x).twins = (s.die x).twins)
        ∧ ∀ x a, x < 4 → pa ≤ a → a < pa + bytes.length → lineOf a ∈ (t.die x).notices)
    ∧ (∀ w : W64, exec (.shootdown w) s = .next (if w.getLsbD 0 && s.sdctl.getLsbD 8 then { s with sdctl := w &&& 0xE } else s))
    ∧ (s.sdctl.getLsbD 8 = true → exec .shootdownDone s = .next s)
    ∧ (let va := s.sdva.toNat
      let len := s.sdlen.toNat
      let asid := s.sdasid.toNat
      let all := s.sdctl.getLsbD 3
      s.sdctl.getLsbD 8 = false →
      (s.sdctl.getLsbD 1 = true → s.shotOwed va len asid all = true → exec .shootdownDone s = .next s)
      ∧ (s.sdctl.getLsbD 1 = false ∨ s.shotOwed va len asid all = false → ∃ t, exec .shootdownDone s = .next t ∧ t.sdctl = s.sdctl ||| 0x100
        ∧ (s.sdctl.getLsbD 1 = true → ∀ c e, e ∈ (t.core c).tlb ∨ e ∈ (t.core c).wtlb → e.shot va len asid all = false)
        ∧ (s.sdctl.getLsbD 1 = false → ∀ c, (t.core c).tlb = (s.core c).tlb ∧ (t.core c).wtlb = (s.core c).wtlb)
        ∧ (s.sdctl.getLsbD 2 = false → t = { s with cores := t.cores, sdctl := t.sdctl })
        ∧ (s.sdctl.getLsbD 2 = true → ∀ x, ∀ w ∈ (t.die x).twins,
            (∃ p ∈ s.shotAt va len asid all, p.1 ≤ w.1 ∧ w.1 < p.1 + 2 ^ p.2) → w.2.cls ≠ .c)))
    ∧ (s.time.toNat % 100000 ≠ 0 → exec .migrationWindowReset s = .next s)
    ∧ (s.time.toNat % 100000 = 0 → ∃ t, exec .migrationWindowReset s = .next t ∧ t = { s with dies := t.dies }
      ∧ ∀ x, t.die x = { s.die x with acc4k := [] })
    ∧ ∀ x, ((s.die x).migq = [] → exec (.pageMigration x) s = .next s)
      ∧ ∀ p y va ctx rest, (s.die x).migq = (p, y, va, ctx) :: rest →
        let held := s.dies.any fun d => d.2.twins.any fun w => w.1 - w.1 % 4096 == p && w.2.cls != .c
        let gone (t : State) (n : Nat) : Prop := (t.die x).migq = rest ∧ p ∉ t.migrating
          ∧ (aget (t.die x).counters n).getD 0 = (aget (s.die x).counters n).getD 0 + 1
        (∀ m, (s.die x).migRec = some m → s.ringRoom x m.1 = false → exec (.pageMigration x) s = .next s)
        ∧ ((s.die x).migRec = none →
          (s.poolFrame y = none ∨ held = true → ∃ t, exec (.pageMigration x) s = .next t ∧ gone t 0x116)
          ∧ ∀ f, s.poolFrame y = some f → held = false →
            (p ∉ s.migrating → exec (.pageMigration x) s = .next { s with migrating := p :: s.migrating })
            ∧ (p ∈ s.migrating → s.pageOwed p = true → exec (.pageMigration x) s = .next s)
            ∧ (p ∈ s.migrating → s.pageOwed p = false →
              let v := s.pagePublish fun l => l - l % 4096 == p
              let u := v.homePut f (v.homeRd p 4096)
              (∀ b, u.walkCtx ctx va = .error b → ∃ t, exec (.pageMigration x) s = .next t ∧ (t.die x).migq = rest ∧ p ∉ t.migrating)
              ∧ ∀ e, u.walkCtx ctx va = .ok e →
                let old := leNat (memRd u.mem e.pte 8)
                (bits old 53 10 * 4096 = p → e.nap = false → e.bits = 12 → ∃ t, exec (.pageMigration x) s = .next t
                  ∧ (t.die x).migq = rest ∧ p ∉ t.migrating ∧ f ∈ t.poolUsed
                  ∧ ((s.ctx ctx).word 6 = 0 →
                    t.mem = memWr u.mem e.pte (leBytes 8 (old - bits old 53 10 * 1024 + f / 4096 * 1024)))
                  ∧ ((t.die x).migRec = none ∨ (t.die x).migRec = some (ctx, va, p, f))
                  ∧ ∀ c e', e' ∈ (t.core c).tlb ∨ e' ∈ (t.core c).wtlb → e'.pte ≠ e.pte)
                ∧ (bits old 53 10 * 4096 ≠ p ∨ e.nap = true ∨ e.bits ≠ 12 →
                  ∃ t, exec (.pageMigration x) s = .next t ∧ (t.die x).migq = rest ∧ p ∉ t.migrating)))

/-- R308 to R310, R313, R314, R324, R371: what the host does to a queue. A doorbell sets WR, and one that claims more than the ring
holds tears a running queue down. An enable writes the fields of a queue that neither runs nor drains, and starts it where LOG2N, the
context's entry and the status block allow. A drain lets no further command start, and ends with the queue disabled once every command
is complete. A teardown leaves no command and no launch of the queue; a reset of a torn-down queue clears its pointers and frees its
captures. Acts whose condition does not hold change nothing. -/
def Obligations.QueuesUnderTheHost : Prop :=
  ∀ (s : State) (q : Nat),
    let x := s.queue q
    let size := 2 ^ bits x.cfg.toNat 4 0
    let torn (t : State) : Prop := (t.queue q).st = .torn ∧ (t.queue q).cmds = [] ∧ (t.queue q).cfg.getLsbD 31 = false
      ∧ ∀ l r, aget t.launches l = some r → r.queue = q → r.foreign ≠ none
    let live : Prop := x.st = .running ∨ x.st = .draining
    let only (t : State) (y : Queue) : Prop := t = { s with queues := t.queues } ∧ t.queue q = y ∧ ∀ p, p ≠ q → t.queue p = s.queue p
    let both (w : BitVec 32) : List (BitVec 32) := x.sigs.filter fun i => decide ((i - x.hostIdx).toNat < (w - x.hostIdx).toNat)
    let rung (w : BitVec 32) : Queue := { x with wr := w, hostIdx := w, sigs := x.sigs.filter fun i => !(both w).contains i }
    (∀ w, ¬ (x.st = .running ∧ size < (w - x.rd).toNat) → ∃ t, exec (.doorbell q w) s = .next t ∧ t.queue q = rung w
      ∧ (both w = [] → only t (rung w)))
    ∧ (∀ w, x.st = .running → size < (w - x.rd).toNat → ∃ t, exec (.doorbell q w) s = .next t ∧ torn t ∧ (t.queue q).wr = w)
    ∧ (x.st = .running → ∃ t, exec (.queueDrain q) s = .next t ∧ only t { x with st := .draining, cfg := x.cfg &&& ~~~0x80000000#64 })
    ∧ (x.st ≠ .running → exec (.queueDrain q) s = .next s)
    ∧ (x.st = .draining → x.cmds = [] → ∃ t, exec (.drainComplete q) s = .next t ∧ t.queue q = { x with st := .disabled })
    ∧ (x.st ≠ .draining ∨ x.cmds ≠ [] → exec (.drainComplete q) s = .next s)
    ∧ (live → ∃ t, exec (.teardown q) s = .next t ∧ torn t) ∧ (¬ live → exec (.teardown q) s = .next s)
    ∧ (x.st = .torn → ∃ t, exec (.reset q) s = .next t ∧ t.queue q = { x with st := .disabled, rd := 0, wr := 0, hostIdx := 0, sigs := [] }
        ∧ t.caps = s.caps.filter (·.queue != q))
    ∧ (x.st ≠ .torn → exec (.reset q) s = .next s)
    ∧ (live → ∀ w, exec (.queueEnable q w) s = .next s)
    ∧ (¬ live → ∀ w : W64,
      let y : Queue := { x with cfg := w &&& 0x7FF1F }
      let c := s.ctx y.ctxNo
      let e := if c.inUse then c.copy.getD c.entry else c.entry
      let good : Prop := x.st ≠ .torn ∧ 4 ≤ y.log2n ∧ y.log2n ≤ 16 ∧ c.closing = false ∧ entryOk e = true
      (¬ good → ∃ t, exec (.queueEnable q w) s = .next t ∧ only t y)
      ∧ (good →
        let fresh : Bool := x.rd == 0 && x.wr == 0
        let t0 := (s.updQueue q fun _ => y).updCtx y.ctxNo fun c => { c with copy := some e, inUse := true }
        let done : BitVec 32 := if fresh then 0 else x.done
        let put := t0.sysWrite { t0.cp q with own := true } 0 y.statVa (leBytes 8 done.toNat ++ if fresh then List.replicate 56 0 else []) false
        (put = none → ∃ t, exec (.queueEnable q w) s = .next t ∧ only t y)
        ∧ ∀ u, put = some u → ∃ t, exec (.queueEnable q w) s = .next t
          ∧ t.queue q = { y with st := .running, done, cfg := y.cfg ||| 0x80000000, cmds := [] }
          ∧ t.mem = u.mem ∧ (t.ctx y.ctxNo).inUse = true ∧ (t.ctx y.ctxNo).copy = some e))

/-- R274, R275, R358, R369, R371, R375, R382, R390: the registers of the window, and contexts. A write of another size, misaligned, or out
of the window changes nothing; the registers the spec gives take what it says they take. A halt stops its context's resident teams, a
resume lets all its teams go on. The teardown of a context in use tears its queues down and ends its launches; its captures and cached
translations go, its registers stand at their reset values, and DOWN is set when it is over, with nothing left that the device has to
write for the context. -/
def Obligations.WindowAndContexts : Prop :=
  ∀ s : State,
    (∀ off size v, (size ≠ 4 ∧ size ≠ 8) ∨ off % size ≠ 0 ∨ 0x1000000 ≤ off → exec (.registerWrite off size v) s = .next s)
    ∧ (∀ v, exec (.registerWrite 0 8 v) s = .next s)
    ∧ (∀ v, exec (.registerWrite 0x203000 8 v) s = .next { s with capsel := v })
    ∧ (∀ v, exec (.registerWrite 0x202100 8 v) s = .next { s with sdva := v &&& 0x01FFFFFFFFFFF000 })
    ∧ (∀ v, exec (.registerWrite 0x202108 8 v) s = .next { s with sdlen := v &&& 0xFFFFFFFF })
    ∧ (∀ v, exec (.registerWrite 0x202110 8 v) s = .next { s with sdasid := v &&& 0xFFFF })
    ∧ (∀ v, exec (.registerWrite 0x202118 8 v) s = exec (.shootdown v) s)
    ∧ (∀ x (v : W64), x < 4 → ∃ t, exec (.registerWrite (0x202000 + 8 * x) 8 v) s = .next t ∧ (t.die x).predl =
        if 100 ≤ (v.setWidth 32).toNat ∧ (v.setWidth 32).toNat ≤ 10000000 then v.setWidth 32 else (s.die x).predl)
    ∧ (∀ c (v : W64), c < 256 → ∃ t, exec (.registerWrite (0x200008 + 32 * c) 8 v) s = .next t
        ∧ t.ctx c = { s.ctx c with tqcons := v.setWidth 32 })
    ∧ (∀ n v, n < 4096 → ∃ t, exec (.registerWrite (0x208000 + 8 * n) 8 v) s = .next t ∧ aget t.portbind n = some (v &&& 0x80000000000000FF))
    ∧ (∀ q (v : W64), q < 1024 → exec (.registerWrite (0x800000 + 4096 * q) 8 v) s = exec (.doorbell q (v.setWidth 32)) s)
    ∧ (∀ w, exec (.capsel w) s = .next { s with capsel := w }) ∧ (∀ o b, exec (.pcieWindowRequest o b) s = .next s)
    ∧ (∀ n, ∃ t u, exec (.halt n) s = .next t ∧ exec (.resume n) s = .next u ∧ t = { s with teams := t.teams } ∧ u = { s with teams := u.teams }
      ∧ ∀ k m, aget s.teams k = some m →
        aget t.teams k = some { m with halted := m.halted || (decide (m.ctx = n) && m.st == .resident) }
        ∧ aget u.teams k = some { m with halted := m.halted && !decide (m.ctx = n) })
    ∧ ∀ c, let x := s.ctx c
      let only (t : State) (y : Ctx) : Prop := t = { s with ctxs := t.ctxs } ∧ t.ctx c = y ∧ ∀ d, d ≠ c → t.ctx d = s.ctx d
      (∀ w : W64, x.closing = true ∨ w.getLsbD 0 = true → exec (.contextTeardown c w) s = .next s)
      ∧ (∀ w : W64, x.closing = true ∨ w.getLsbD 0 = false → exec (.contextValidate c w) s = .next s)
      ∧ (∀ w : W64, x.closing = false → w.getLsbD 0 = true → ∃ t, exec (.contextValidate c w) s = .next t
        ∧ only t { x with entry := lset x.entry 1 fun _ => w &&& ~~~8#64 })
      ∧ (x.closing = false → exec (.contextTeardownDone c) s = .next s)
      ∧ (x.closing = true → (∃ z ∈ s.later, z.isOf c = true) → exec (.contextTeardownDone c) s = .next s)
      ∧ (x.closing = true → (∀ z ∈ s.later, z.isOf c = false) → ∃ t, exec (.contextTeardownDone c) s = .next t
        ∧ only t { x with
            closing := false, inUse := false, copy := none, entry := lset x.entry 1 (· ||| 8), tqprod := 0, tqcons := 0, tqlost := 0 })
      ∧ ∀ w : W64, x.closing = false → w.getLsbD 0 = false →
        let y := { x with entry := lset x.entry 1 fun _ => (w &&& ~~~8#64) ||| ((x.entry.getD 1 0) &&& 8) }
        (x.inUse = false → ∃ t, exec (.contextTeardown c w) s = .next t ∧ only t y)
        ∧ (x.inUse = true → Keyed s.queues → ∃ t, exec (.contextTeardown c w) s = .next t
          ∧ t.ctx c = { y with bintmr := 256, hcbase := 0, hcidx := 0, tqprod := 0, tqcons := 0, tqlost := 0, closing := true }
          ∧ (∀ q, (s.queue q).ctxNo = c → (s.queue q).st = .running → (t.queue q).st = .torn)
          ∧ (∀ q, (s.queue q).ctxNo = c → (s.queue q).st = .draining → (t.queue q).cmds = [])
          ∧ (∀ l r, aget t.launches l = some r → r.ctx ≠ c) ∧ (∀ z ∈ t.caps, z.ctx ≠ c)
          ∧ ∀ k e, e ∈ (t.core k).tlb ∨ e ∈ (t.core k).wtlb → e.asid ≠ y.asid ∧ e.glob = false)

/-- R309 to R313, R316, R317, R412: the command a die's processor serves next starts: RD moves on and the command is outstanding. A QNOP,
and an ORDER, whose turn comes with no command before it, are complete at once; a SIGNAL writes, or adds to, its word at its home; a
STAMPTS writes %time; a WAITV completes when its load meets its condition, and is tried again ten ticks later; a LAUNCH makes a launch
record of its descriptor. DONE counts the leading complete commands. A malformed command, a bad descriptor, a failed access and a late
WAITV tear the queue down. A command whose turn has not come does nothing. -/
def Obligations.QueueCommands : Prop :=
  (∀ (s : State) (q n : Nat),
    let x := s.queue q
    let cs := x.cmds.map fun c => if c.index == n then { c with complete := true } else c
    let k := (cs.takeWhile (·.complete)).length
    (s.cmdDone q n).queue q = { x with cmds := cs.drop k, done := x.done + BitVec.ofNat 32 k })
  ∧ ∀ (s : State) (q : Nat),
    let die := q / 256
    let torn (i : Instr) : Prop := ∃ t, exec i s = .next t ∧ (t.queue q).st = .torn ∧ (t.queue q).cmds = []
    let idle (op : Nat) (i : Instr) : Prop := s.nextCommand die ≠ some (q, op) → exec i s = .next s
    let polls (i : Instr) (v : State) (n : Nat) (l : List W64) : Prop :=
      let v := v.updQueue q fun x => { x with cmds := x.cmds.map fun c => if c.index == n then { c with polled := v.time.toNat } else c }
      (∀ z, v.spot (v.cp q) .load 8 8 (l.getD 1 0).toNat = (z, none) → torn i)
      ∧ ∀ z p, v.spot (v.cp q) .load 8 8 (l.getD 1 0).toNat = (z, some p) → z.plain → p.cls = 0 →
        let a := BitVec.ofNat 64 (leNat (memRd z.mem p.pa 8)) &&& l.getD 3 0
        let b := l.getD 2 0 &&& l.getD 3 0
        let k := (l.getD 4 0).toNat % 4
        let hit : Prop := (k = 0 ∧ a = b) ∨ (k = 1 ∧ a ≠ b) ∨ (k = 2 ∧ b.toNat ≤ a.toNat) ∨ (k = 3 ∧ a.toNat < b.toNat)
        ∃ y, y.queue q = v.queue q ∧ y.mem = z.mem ∧ (hit → exec i s = .next (y.cmdDone q n)) ∧ (¬ hit → exec i s = .next y)
    (idle 1 (.launch q) ∧ idle 2 (.signal q) ∧ idle 3 (.waitv q) ∧ idle 4 (.order q) ∧ idle 5 (.stampts q)
      ∧ (s.nextCommand die ≠ some (q, 0) → idle 6 (.qnop q)))
    ∧ (∀ u ws, s.nextCommand die = some (q, 0) → s.head q = some (u, ws) → headOp ws = 0 → torn (.qnop q))
    ∧ (∀ u l, s.head q = some (u, some l) → cmdOk l = true → s.nextCommand die = some (q, (l.headD 0).toNat % 256) →
      let op := (l.headD 0).toNat % 256
      let x := s.queue q
      let n := x.rd.toNat
      let c : Cmd := { index := n, op, tag := bits (l.headD 0).toNat 31 16, words := l, start := s.time.toNat, polled := s.time.toNat }
      let v := (u.updDie die fun d => { d with served := aset d.served x.pri q }).updQueue q fun _ =>
        { x with rd := x.rd + 1, sigs := x.sigs.filter (· != x.rd), cmds := x.cmds ++ [c] }
      let ends (i : Instr) (m : List Host.Cell) : Prop := ∃ y : State, exec i s = .next (y.cmdDone q n) ∧ y.queue q = v.queue q ∧ y.mem = m
      (op = 4 → ends (.order q) v.mem) ∧ (op = 6 → ends (.qnop q) v.mem)
      ∧ (op = 3 → polls (.waitv q) v n l)
      ∧ (op = 2 →
        let add : Bool := bits (l.getD 3 0).toNat 4 3 == 1
        let at_ := v.spot (v.cp q) (if add then .atomic else .store) 8 8 (l.getD 1 0).toNat
        (∀ z, at_ = (z, none) → torn (.signal q))
        ∧ ∀ z p, at_ = (z, some p) → z.plain → p.cls = 0 → ends (.signal q) (memWr z.mem p.pa (leBytes 8
            ((if add then BitVec.ofNat 64 (leNat (memRd z.mem p.pa 8)) else 0) + l.getD 2 0).toNat)))
      ∧ (op = 5 →
        (∀ z, v.spot (v.cp q) .store 8 8 (l.getD 1 0).toNat = (z, none) → torn (.stampts q))
        ∧ ∀ z p, v.spot (v.cp q) .store 8 8 (l.getD 1 0).toNat = (z, some p) → z.plain → p.cls = 0 →
          ends (.stampts q) (memWr z.mem p.pa (leBytes 8 s.time.toNat)))
      ∧ (op = 1 →
        let ctx := (v.cp q).ctx
        (∀ z, v.readVa (v.cp q) (l.getD 1 0).toNat 256 = (z, none) → torn (.launch q))
        ∧ ∀ z bs, v.readVa (v.cp q) (l.getD 1 0).toNat 256 = (z, some bs) →
          (z.descOk ctx bs = false → torn (.launch q))
          ∧ (z.descOk ctx bs = true → ∃ t r, exec (.launch q) s = .next t ∧ aget t.launches z.serial = some r ∧ r.queue = q ∧ r.ctx = ctx
            ∧ r.cmd = n ∧ r.pri = x.pri ∧ r.desc = descFields bs ∧ r.todo = (descFields bs).order ∧ r.total = (descFields bs).teams
            ∧ r.sigVa = (l.getD 2 0).toNat ∧ r.sigVal = l.getD 3 0 ∧ r.foreign = none ∧ r.ended = 0
            ∧ (t.queue q).cmds = (v.queue q).cmds.map (fun c => if c.index == n then { c with launch := some z.serial } else c)
            ∧ ∀ k y, y ∈ (t.core k).l1i → y.ctx = ctx → y.pin = true)))
    ∧ ((s.queue q).waiting = none → exec (.waitvPoll q) s = .next s ∧ exec (.waittime q) s = .next s)
    ∧ ∀ c, (s.queue q).waiting = some c → (s.queue q).st = .running →
      (s.time.toNat < c.polled + 10 → exec (.waitvPoll q) s = .next s)
      ∧ (s.cmdLate q 3 c.words = true → exec (.waitvPoll q) s = .next s)
      ∧ (c.polled + 10 ≤ s.time.toNat → s.cmdLate q 3 c.words = false → polls (.waitvPoll q) s c.index c.words)
      ∧ (let n := (c.words.getD 5 0).toNat
        (n ≠ 0 ∧ c.start + n ≤ s.time.toNat → torn (.waittime q)) ∧ (n = 0 ∨ s.time.toNat < c.start + n → exec (.waittime q) s = .next s))

/-- R210, R283, R289, R303, R317, R318, R321, R322, R375, R379, R412: the lives of teams. The next team is admitted, or restored, on the cores
found for it, and its launch is the last served. A team that is over leaves; its launch counts it, or learns that its prologue has
failed, or, as the last of a launch received from another package, is reported to it; in a DETERMINISTIC kernel it keeps its record until
it retires. A team that is next to be admitted, or a re-execution, asks one victim to leave, once, when it has waited 10,000 ticks, where
the save engine has room for the victim and no trap stops its queue; at the deadline every group's save is due. A launch whose teams have
all ended is gone, and its command complete. Acts whose condition does not hold change nothing. That only a launch's next teams ask,
and from which tick each has waited, is the model's choice (log 96). -/
def Obligations.TeamLives : Prop :=
  ∀ s : State,
    (∀ l, (∀ n cs, s.nextAdmission = some (l, n, cs) → ∃ t, n = .restore t) → exec (.teamAdmission l) s = .next s)
    ∧ (∀ t, (∀ l cs, s.nextAdmission ≠ some (l, .restore t, cs)) → exec (.teamRestore t) s = .next s)
    ∧ (∀ l n cs, s.nextAdmission = some (l, n, cs) → (∀ t, n ≠ .restore t) →
      ∃ u m, exec (.teamAdmission l) s = .next u ∧ aget u.teams s.serial = some m ∧ m.launch = l ∧ m.cores = cs ∧ m.st = .resident
        ∧ m.ctx = (s.launchRec l).ctx ∧ m.prologue = (n == .prologue)
        ∧ (∀ a b, n = .team a b → m.rank = a ∧ m.index = b ∧ ∀ p ∈ (u.launchRec l).todo, p.2 ≠ b)
        ∧ aget u.admitted (s.launchRec l).pri = some l)
    ∧ (∀ l t cs, s.nextAdmission = some (l, .restore t, cs) → (s.team t).launch = l →
      ∃ u, exec (.teamRestore t) s = .next u ∧ (u.team t).st = .resident ∧ (u.team t).cores = cs ∧ (u.team t).saves = []
        ∧ t ∉ (u.launchRec l).suspended ∧ aget u.admitted (s.launchRec l).pri = some l)
    ∧ (∀ l, aget s.launches l = none ∨ (Keyed s.teams ∧ ∀ n ∈ s.nextTeams l, (s.launchRec l).mayAsk (s.waitKey n) s.time.toNat = false
          ∨ s.victimFor l n = none ∨ ∃ t, s.victimFor l n = some t ∧ (s.storeRoom t = false ∨ s.doomsWith (s.team t).launch ≠ [])) →
        exec (.preemptionRequest l) s = .next s)
    ∧ (∀ l r n t before after, Keyed s.teams → aget s.launches l = some r → s.nextTeams l = before ++ n :: after →
        (∀ m ∈ before, r.mayAsk (s.waitKey m) s.time.toNat = false ∨ s.victimFor l m = none) →
        s.waitKey n ∉ r.asked → r.waitsFrom (s.waitKey n) + 10000 ≤ s.time.toNat →
        s.victimFor l n = some t → s.storeRoom t = true → s.doomsWith (s.team t).launch = [] →
        ∃ u v, exec (.preemptionRequest l) s = .next u ∧ exec (.hostPreemption t) s = .next v
          ∧ u = v.updLaunch l fun r => { r with asked := s.waitKey n :: r.asked })
    ∧ (∀ t, aget s.teams t = none ∨ (s.team t).st ≠ .resident ∨ (s.team t).preempt ≠ none ∨ (s.team t).rerun ≠ none ∨ s.storeRoom t = false
          ∨ s.doomsWith (s.team t).launch ≠ [] →
        exec (.hostPreemption t) s = .next s)
    ∧ (∀ t, (aget s.teams t).isSome = true → (s.team t).st = .resident → (s.team t).preempt = none → (s.team t).rerun = none → s.storeRoom t = true →
        s.doomsWith (s.team t).launch = [] →
        let u := s.updTeam t fun m => { m with preempt := some (s.time.toNat + (s.die m.die).predl.toNat), auditOk := false }
        (∀ x ∈ u.groupsOf t, u.anyRunnable x.1 x.2.2 = true) → exec (.hostPreemption t) s = .next u)
    ∧ (∀ t, (s.team t).preempt = none ∨ (∃ d, (s.team t).preempt = some d ∧ s.time.toNat < d) → exec (.preemptionDeadline t) s = .next s)
    ∧ (∀ t d, KeyedCores s → (s.team t).preempt = some d → d ≤ s.time.toNat → ∃ u, exec (.preemptionDeadline t) s = .next u
        ∧ ∀ c k g, u.group? c k = some g → g.team = t → g.saveRec ≠ none)
    ∧ (∀ n, s.teamOver n = false ∨ (s.team n).rerun ≠ none → exec (.teamEnd n) s = .next s)
    ∧ (∀ n, s.teamOver n = true → (s.team n).rerun = none →
      let m := s.team n
      let r := s.launchRec m.launch
      ∃ t, exec (.teamEnd n) s = .next t
        ∧ (m.desc.det = true → ∃ m', aget t.teams n = some m' ∧ m'.st = .ended ∧ m'.cores = [] ∧ m'.rank = m.rank ∧ m'.buf = m.buf)
        ∧ (m.desc.det = false → aget t.teams n = none)
        ∧ (m.desc.det = false → m.prologue = false → r.foreign = none → (t.launchRec m.launch).ended = r.ended + 1)
        ∧ (m.desc.det = false → m.prologue = true → (∃ e, r.prologue = .frozen e) → t.launches = s.launches)
        ∧ (m.desc.det = false → m.prologue = true → (∀ e, r.prologue ≠ .frozen e) → r.foreign = none → (s.queue r.queue).st = .running →
            (t.queue r.queue).st = .torn)
        ∧ (∀ p o i, m.desc.det = false → m.prologue = false → r.foreign = some (p, o, i) → m.desc.audit = false →
            (∀ x ∈ s.teams, x.2.launch = m.launch → x.1 = n) → (∀ a ∈ s.audits, a.launch ≠ m.launch) →
            (s.port p).outstanding.length < Config.portEntries → (s.port p).up = true → aget t.launches m.launch = none
            ∧ ∃ k, (t.port p).out = (s.port p).out ++ [.teamend k o i] ∧ (k, 0, 0) ∈ (t.port p).outstanding))
    ∧ (∀ l, aget s.launches l = none ∨ (∀ t ∈ s.teams, ¬ (t.2.launch = l ∧ t.2.st = .ended ∧ t.2.rank = (s.launchRec l).nextRetire)) →
        exec (.teamRetirement l) s = .next s)
    ∧ (∀ l r n m, aget s.launches l = some r →
        s.teams.find? (fun t => t.2.launch == l && t.2.st == .ended && t.2.rank == r.nextRetire) = some (n, m) →
        ∃ t, exec (.teamRetirement l) s = .next t ∧ aget t.teams n = none ∧ (t.launchRec l).nextRetire = r.nextRetire + 1
          ∧ (t.launchRec l).ended = r.ended + 1)
    ∧ (∀ l, s.launchOver l = false ∨ s.signalLate l = true → exec (.completionSignal l) s = .next s)
    ∧ ∀ l, s.launchOver l = true → s.signalLate l = false →
      let r := s.launchRec l
      let dies := (r.dies ++ [r.queue / 256]).eraseDups
      let u := (dies.foldl (fun s x => s.releaseNow x l [fenceKey x] false) s).forward fun d => d.launch == l
      let v := dies.foldl (fun s x => ((s.die x).copies.filter (·.2.cls == 3)).foldl (fun s c => s.writeBack x c.1) s) (u.land u.serial)
      let put := if r.sigVa = 0 then some v else v.sysWrite (v.cp r.queue) l r.sigVa (leBytes 8 r.sigVal.toNat) false
      (put = none → (s.queue r.queue).st = .running → ∃ t, exec (.completionSignal l) s = .next t ∧ (t.queue r.queue).st = .torn)
      ∧ ∀ z, put = some z → ∃ y : State, exec (.completionSignal l) s = .next (y.cmdDone r.queue r.cmd) ∧ y.mem = z.mem
        ∧ aget y.launches l = none ∧ y.queue r.queue = s.queue r.queue

/-- R322, R323, R331 to R333, R388, R389: messages between packages. Through a port that is down nothing comes; what comes through one
that is up ends its count of retries. A PUT or a GETREQ that passes its checks is performed in the bound context and answered; one that
fails is answered with a NACK, or, posted, is counted. An answer to a transfer moves it on, as do a port that goes down and a wait of
100,000,000 ticks; a transfer that has its answer takes no other. A team from outside is taken into the context that its kernel names,
with its template or as it was suspended, or refused; one that was sent and is acknowledged is the receiver's, one that is refused comes
back to the front of its launch record. A beacon enters the table of its port's die; every 100 ticks each die's place is told to the
other dies and to every port that is up. A flit sent again more than 16 times takes its port down. An unknown message is dropped and
counted. Which teams travel, what a packed team holds, and which context it runs in are read by inference (logs 28, 74); the cause 0 of
the NACK that refuses a team, and the span of a flit's retries, are the model's choice (logs 98, 99). -/
def Obligations.FabricMessages : Prop :=
  ∀ (s : State) (port : Nat),
    let p := s.port port
    let tells (t : State) (l : List OutMsg) : Prop := (t.port port).out = p.out ++ l
    let come (f : Instr → Prop) : Prop := (∀ m, f (.put port m)) ∧ (∀ m, f (.getreq port m)) ∧ (∀ n bs, f (.getdata port n bs))
      ∧ (∀ n, f (.ack port n)) ∧ (∀ n k off, f (.nack port n k off)) ∧ (∀ m, f (.team port m)) ∧ (∀ n l i, f (.teamend port n l i))
      ∧ (∀ b, f (.beacon port b)) ∧ ∀ k, f (.unknownMessage port k)
    (p.up = false → come fun i => exec i s = .next s)
    ∧ (p.up = true → p.retries ≠ 0 → come fun i => exec i s = exec i (s.updPort port fun p => { p with retries := 0 }))
    ∧ (∀ n c o x, s.xfer port n = some (c, o, x) →
      let moves (i : Instr) (y : Xfer) : Prop := ∃ t, exec i s = .next t ∧ t = { s with cores := t.cores }
        ∧ t.op? c o.id = some { o with kind := .fabric y } ∧ ∀ d j, t.group? d j = s.group? d j
      let still (i : Instr) : Prop := exec i s = .next s
      (p.up = true → p.retries = 0 →
        (x.send = true → x.err = none → moves (.ack port n) { x with got := some [] })
        ∧ (x.send = false ∨ x.err ≠ none → still (.ack port n))
        ∧ (∀ k off, x.got = none → x.err = none → moves (.nack port n k off) { x with err := some (k, off, (x.rva + off) % 2 ^ 64) })
        ∧ (∀ k off, x.got ≠ none ∨ x.err ≠ none → still (.nack port n k off))
        ∧ (∀ bs, s.delays = true ∨ s.jams = true ∨ x.send = true ∨ bs.length ≠ x.len ∨ x.got ≠ none ∨ x.err ≠ none → still (.getdata port n bs))
        ∧ ∀ bs, s.delays = false → s.jams = false → x.send = false → bs.length = x.len → x.got = none → x.err = none →
          (∀ u, s.farWrite { o.who c with ahead := false } x.lva false 0 bs = (u, none) →
            exec (.getdata port n bs) s = .next (u.setXfer c o.id fun x => { x with got := some [] }))
          ∧ ∀ u k off, s.farWrite { o.who c with ahead := false } x.lva false 0 bs = (u, some (k, off)) →
            exec (.getdata port n bs) s = .next (u.setXfer c o.id fun x => { x with err := some (k, off, (x.lva + off) % 2 ^ 64) }))
      ∧ (x.got = none → x.err = none → x.posted = false → x.start + 100000000 ≤ s.time.toNat →
          moves (.sendAckTimeout port n) { x with err := some (0x0E, 0, 0) })
      ∧ (x.got ≠ none ∨ x.err ≠ none ∨ x.posted = true ∨ s.time.toNat < x.start + 100000000 → still (.sendAckTimeout port n))
      ∧ (x.got = none → x.err = none → ∃ t o', exec (.portDown port) s = .next t ∧ t.op? c o.id = some o'
          ∧ o'.kind = .fabric { x with err := some (0x0E, 0, 0) }))
    ∧ (∃ t, exec (.portDown port) s = .next t ∧ (t.port port).up = false ∧ (t.port port).sentTeams = [])
    ∧ (∃ t, exec (.portRetrain port) s = .next t ∧ t = { s with ports := t.ports } ∧ t.port port = { p with up := true })
    ∧ (∀ n,
      let u := s.updPort port fun p => { p with resent := p.resent + n, retries := p.retries + 1 }
      exec (.flitResend port n) s = if p.up = false then .next s else if p.retries < 16 then .next u else exec (.portDown port) u)
    ∧ (s.time.toNat % 100 ≠ 0 → exec .beaconTimer s = .next s)
    ∧ (s.time.toNat % 100 = 0 → ∃ t, exec .beaconTimer s = .next t
      ∧ (∀ x y, x < 4 → y < 4 → x ≠ y → aget (t.die x).beacons y = some (s.beaconOf y))
      ∧ (port < 16 → p.up = true → ∃ l, tells t (.beacon (s.beaconOf (port / 4)) :: l)))
    ∧ (p.up = true → p.retries = 0 →
      (∀ m, s.delays = true ∨ s.jams = true → exec (.put port m) s = .next s) ∧ (∀ m, s.delays = true → exec (.getreq port m) s = .next s)
      ∧ (∀ m : PutMsg, s.delays = false → s.jams = false →
        let bad (c : Nat) : Prop := ∃ t, exec (.put port m) s = .next t ∧ t.mem = s.mem ∧
          if m.posted then t = s.countDie (port / 4) 0x118 else tells t [.nack m.seq c 0]
        (m.va % 16 ≠ 0 → bad 1) ∧ (m.va % 16 = 0 → (s.ctx m.ctx).inUse = false → bad 8)
        ∧ (∀ u q, m.va % 16 = 0 → m.va < 2 ^ 64 → (s.ctx m.ctx).inUse = true → m.bytes.length = 16 →
          s.copySpot (farWho port m.ctx) .store 16 m.va = (u, .ok q) → u.plain → q.cls = 0 → ∃ t, exec (.put port m) s = .next t
            ∧ t.mem = memWr u.mem q.pa m.bytes ∧ tells t (if m.posted then [] else [.ack m.seq])))
      ∧ (∀ m : GetMsg, s.delays = false →
        let bad (c : Nat) : Prop := ∃ t, exec (.getreq port m) s = .next t ∧ t.mem = s.mem ∧ tells t [.nack m.seq c 0]
        (m.va % 16 ≠ 0 → bad 1) ∧ (m.va % 16 = 0 → (s.ctx m.ctx).inUse = false → bad 8)
        ∧ (m.va % 16 = 0 → (s.ctx m.ctx).inUse = true →
          let v := if m.acq then s.acqFence (port / 4) true else s
          (∀ u, v.localCheck (farWho port m.ctx) .load m.va m.len = (u, .ok ()) → ∃ t, exec (.getreq port m) s = .next t
            ∧ tells t [.getdata m.seq (u.localRead (farWho port m.ctx) m.va m.len).1])
          ∧ ∀ u c o va, v.localCheck (farWho port m.ctx) .load m.va m.len = (u, .error (some (c, o, va))) →
            ∃ t, exec (.getreq port m) s = .next t ∧ tells t [.nack m.seq c o]))
      ∧ (∀ k, 1 ≤ k → k ≤ 8 → exec (.unknownMessage port k) s = .next s)
      ∧ (∀ k, k = 0 ∨ 8 < k → ∃ t, exec (.unknownMessage port k) s = .next t ∧ t = { s with ports := t.ports }
          ∧ t.port port = { p with unknown := p.unknown + 1 })
      ∧ (∀ n l i r, s.xfer port n = none → p.sentTeams.find? (·.1 == n) = some (n, l, i) → aget s.launches l = some r →
        let here (t : State) : Prop := ∃ q ∈ t.teams, q.2.launch = l ∧ q.2.index = i ∧ q.2.st = .sent
        (∃ t, exec (.ack port n) s = .next t ∧ ¬ here t ∧ (t.launchRec l).away = r.away ∧ (t.port port).sentTeams = p.sentTeams.filter (·.1 != n))
        ∧ (¬ here s → ∀ k off, ∃ t, exec (.nack port n k off) s = .next t ∧ (t.port port).sentTeams = p.sentTeams.filter (·.1 != n)
          ∧ (t.launchRec l).away = r.away.filter (·.1 != i)
          ∧ (t.launchRec l).todo = ((r.away.filter (·.1 == i)).map fun a => (a.2.1, i)) ++ r.todo)
        ∧ (here s → Keyed s.teams → ∀ k off, ∃ t x, exec (.nack port n k off) s = .next t ∧ (t.launchRec l).suspended = x :: r.suspended
          ∧ (t.team x).st = .suspended ∧ (t.team x).launch = l ∧ (t.team x).index = i))
      ∧ (∀ m : TeamMsg,
        let d := descFields m.fetch.desc
        let able : Prop := (s.ctx d.peerctx).inUse = true ∧ (s.ctx d.peerctx).closing = false ∧ s.mgmt.stopped = false ∧ teamSound m = true
          ∧ s.descOk d.peerctx m.fetch.desc = true ∧ d.det = false
        let turned (t : State) : Prop := t = { s with ports := t.ports } ∧ tells t [.nack m.seq 0 0]
        (∃ t, exec (.team port m) s = .next t ∧ (¬ able → turned t)
          ∧ (turned t ∨ tells t [.ack m.seq] ∧ ∃ k q, aget t.teams k = some q ∧ q.launch = s.serial ∧ q.index = m.index ∧ q.ctx = d.peerctx
            ∧ q.st = .resident ∧ q.queue = m.queue ∧ (m.groups ≠ [] → q.rings.length = m.rings.length ∧ q.fe = m.fe)))
        ∧ (m.tmpl = none → m.fetch.tmpl = none → m.groups = [] → m.fetch.desc.length = 256 → d.templated = false →
          let ok : Prop := (s.ctx d.peerctx).inUse = true ∧ (s.ctx d.peerctx).closing = false ∧ s.mgmt.stopped = false
            ∧ s.descOk d.peerctx m.fetch.desc = true ∧ d.det = false
          let r : Launch := {
            queue := m.queue, ctx := d.peerctx, desc := d, raw := m.fetch.desc, todo := [(0, m.index)], total := 1
            seed := s.time.setWidth 32, waiting := s.time.toNat, foreign := some (port, m.launch, m.index) }
          let room : Option (List Nat) :=
            State.coresForNext { s with serial := s.serial + 1, launches := aset s.launches s.serial r } s.serial (.team 0 m.index)
          (¬ ok ∨ room = none → ∃ t, exec (.team port m) s = .next t ∧ turned t)
          ∧ ∀ cs, ok → room = some cs → ∃ t k q, exec (.team port m) s = .next t ∧ tells t [.ack m.seq]
            ∧ aget t.teams k = some q ∧ q.launch = s.serial ∧ q.cores = cs ∧ q.index = m.index ∧ q.ctx = d.peerctx))
      ∧ (∀ n l i, ∃ t, exec (.teamend port n l i) s = .next t ∧ tells t [.ack n]
        ∧ ∀ r, aget s.launches l = some r → (r.away.any fun a => a.1 == i && a.2.2 == port) = true →
          (t.launchRec l).ended = r.ended + 1 ∧ (t.launchRec l).away = r.away.filter (·.1 != i))
      ∧ ∀ b, ∃ t, exec (.beacon port b) s = .next t ∧ t = { s with dies := t.dies } ∧ aget (t.die (port / 4)).beacons (4 + port) = some b)

/-- R286, R287, R346, R350 to R352, R380, R381, R387, R393: errors and wear. A team's run for an audit counts once it has ended. One with the
original's digest ends its audit; another, or one that has trapped, raises both cores' scores by 64 and asks for a third run, which
settles the loser by 512 and refunds the winner, or, all three different, ends the launch. (The core of a run is its team's first: the
model's choice, log 73.) Scores halve once, last in every 2^20 ticks. A spare takes a quarantined core's place once its cluster is idle. A
corrected error is counted, an uncorrectable one poisons its sector; a bank that fails too often is dropped, the 13th when the driver
agrees, which the host is asked for, and re-striping moves region after region. A fatal error stops the package with a dump, and the
host is told; a flit is resent, a retraining replaces lanes while there are spare ones, and the third that fails in succession loses
the link; a thermal trip stops the package, and the power window moves each die's clock by 50 MHz between 550 and 1100. The codes of
causes and signals, the placing of banks and regions, what a link's spare lanes are and which sensors are a die's are the model's
choices (logs 11, 48, 49, 51, 78, 101). -/
def Obligations.ErrorsAndWear : Prop :=
  ∀ s : State,
    let score (t : State) (p : Nat) : Nat := (t.pcore p).suspicion
    (∀ l i c n, (s.team n).rerun = none ∨ s.auditOf (s.team n) = none ∨ s.runEnded l i c n = false →
      exec (.auditReexecution l i c n) s = .next s ∧ exec (.auditThirdRun l i c n) s = .next s)
    ∧ (∀ l i p n r k a, (s.team n).rerun = some r → s.auditOf (s.team n) = some (k, a) → s.runEnded l i p n = true →
      let m := s.team n
      let alone : Prop := (s.launchRec a.launch).foreign = none
      (r.writes = true ∨ a.second ≠ none → exec (.auditReexecution l i p n) s = .next s)
      ∧ (r.writes = false → a.second = none → alone → r.trapped = false → m.digest = a.digest →
        ∃ t, exec (.auditReexecution l i p n) s = .next t ∧ t.audits = s.audits.eraseIdx k ∧ t.pcores = s.pcores ∧ aget t.teams n = none)
      ∧ (r.writes = false → a.second = none → r.trapped = true ∨ m.digest ≠ a.digest → p ≠ a.core →
        ∃ t, exec (.auditReexecution l i p n) s = .next t
        ∧ score t a.core = min 65535 (score s a.core + 64) ∧ score t p = min 65535 (score s p + 64)
        ∧ t.audits[k]? = some { a with second := some (p, if r.trapped then none else some m.digest) }
        ∧ (aget t.devCounters 0x122).getD 0 = (aget s.devCounters 0x122).getD 0 + 1 ∧ aget t.teams n = none)
      ∧ (r.writes = false ∨ a.second = none → exec (.auditThirdRun l i p n) s = .next s)
      ∧ ∀ p2 d2, r.writes = true → a.second = some (p2, d2) →
        let as1 : Prop := r.trapped = false ∧ m.digest = a.digest
        let as2 : Prop := r.trapped = false ∧ d2 = some m.digest
        (p2 ≠ a.core → alone → as1 ∨ as2 → ∃ t, exec (.auditThirdRun l i p n) s = .next t ∧ t.audits = s.audits.eraseIdx k
          ∧ (as1 → score t p2 = min 65535 (score s p2 + 512) ∧ (t.pcore a.core).refund = (s.pcore a.core).refund + 64
            ∧ score t a.core = score s a.core)
          ∧ (¬ as1 → score t a.core = min 65535 (score s a.core + 512) ∧ (t.pcore p2).refund = (s.pcore p2).refund + 64
            ∧ score t p2 = score s p2))
        ∧ (¬ as1 → ¬ as2 → alone → (s.queue (s.launchRec a.launch).queue).st = .running →
          ∃ t, exec (.auditThirdRun l i p n) s = .next t ∧ (t.queue (s.launchRec a.launch).queue).st = .torn))
    ∧ (s.time.toNat % 1048576 ≠ 0 ∨ s.mgmt.halved = true → exec .suspicionHalving s = .next s)
    ∧ (s.time.toNat % 1048576 = 0 → s.mgmt.halved = false → ∃ t, exec .suspicionHalving s = .next t
      ∧ t = { s with pcores := t.pcores, mgmt := { s.mgmt with halved := true } }
      ∧ ∀ p, score t p = (score s p - (s.pcore p).refund) / 2 ∧ (t.pcore p).refund = 0)
    ∧ (∀ x l, let core := 64 * x + l
      let due : Prop := l < 64 ∧ (s.pcore (s.physOf core)).quarantined = true ∧ s.idleCluster x (l / 4) = true ∧ l / 4 ∉ (s.die x).withdrawn
      (¬ due → exec (.clusterSubstitution x l) s = .next s)
      ∧ (due → s.spare x = none → ∃ t, exec (.clusterSubstitution x l) s = .next t ∧ (t.die x).withdrawn = l / 4 :: (s.die x).withdrawn)
      ∧ ∀ p, due → s.spare x = some p → l < (s.die x).clmap.length → ∃ t, exec (.clusterSubstitution x l) s = .next t
        ∧ t.physOf core = 66 * x + p ∧ (∀ j, j < 64 → j ≠ l → t.physOf (64 * x + j) = s.physOf (64 * x + j)))
    ∧ (∀ pa u, s.visible pa = false → exec (.scrub pa u) s = .next s)
    ∧ (∀ pa, s.visible pa = true →
      let k := pa / 0x1380000000
      let b := (s.stack k).bankAt (pa % 0x1380000000)
      (∃ t, exec (.scrub pa true) s = .next t ∧ t.mem = s.mem ∧ (pa - pa % 32) ∈ t.poison
        ∧ (t.stack k).bank b = (((s.stack k).bank b).1 + 1, ((s.stack k).bank b).2)
        ∧ (aget (t.die (homeOf pa)).counters 0x111).getD 0 = (aget (s.die (homeOf pa)).counters 0x111).getD 0 + 1)
      ∧ ∃ t, exec (.scrub pa false) s = .next t ∧ t.mem = s.mem ∧ t.poison = s.poison
        ∧ ((t.stack k).bank b).1 = ((s.stack k).bank b).1 ∧ s.time.toNat ∈ ((t.stack k).bank b).2
        ∧ (aget (t.die (homeOf pa)).counters 0x110).getD 0 = (aget (s.die (homeOf pa)).counters 0x110).getD 0 + 1)
    ∧ (∀ n b ack, let k := s.stack n
      let gone := k.dropped.length + k.pendingDrop.length
      let due : Prop := k.failing b s.time.toNat = true ∧ gone < 16
      (¬ due → exec (.bankDrop n b ack) s = .next s)
      ∧ (due → gone = 12 → ack = false → ∃ t, exec (.bankDrop n b ack) s = .next t ∧ t = { s with mgmt := t.mgmt }
          ∧ t.mgmt = { s.mgmt with log := t.mgmt.log, irqs := s.mgmt.irqs ++ [(1, [n, b])] })
      ∧ (due → ¬ (gone = 12 ∧ ack = false) → ∃ t, exec (.bankDrop n b ack) s = .next t
        ∧ t.stack n = if k.moving then { k with shrunk := k.shrunk || decide (12 ≤ gone), pendingDrop := k.pendingDrop ++ [b] }
          else { k with shrunk := k.shrunk || decide (12 ≤ gone), dropped := k.dropped ++ [b], newly := 1, moving := true, boundary := 0 }))
    ∧ (∀ n, let k := s.stack n
      (k.moving = false → exec (.restripeRegion n) s = .next s)
      ∧ (k.moving = true → ∃ t, exec (.restripeRegion n) s = .next t ∧ t = { s with hbm := t.hbm }
        ∧ t.stack n = if k.boundary + 0x10000000 < 0x1380000000 then { k with boundary := k.boundary + 0x10000000 }
          else { k with
            boundary := 0, gen := k.gen + 1, moving := !k.pendingDrop.isEmpty, dropped := k.dropped ++ k.pendingDrop
            newly := k.pendingDrop.length, pendingDrop := [] }))
    ∧ (∀ c u, s.mgmt.stopped = true → exec (.fatalError c u) s = .next s)
    ∧ (∀ c u, s.mgmt.stopped = false → ∃ t d, exec (.fatalError c u) s = .next t ∧ t = { s with mgmt := t.mgmt } ∧ t.mgmt.stopped = true
        ∧ t.mgmt.dump = some d ∧ d.cause = c ∧ d.unit = u ∧ d.time = s.time
        ∧ t.mgmt.header = some { d with saves := [], records := [], log := [] } ∧ t.mgmt.irqs = s.mgmt.irqs ++ [(2, [c, u])])
    ∧ (∀ n, 3 ≤ (aget s.mgmt.linkFails n).getD 0 → ∃ t, exec (.dieLinkLoss n) s = .next t ∧ t.mgmt.stopped = true)
    ∧ (∀ n, (aget s.mgmt.linkFails n).getD 0 < 3 → exec (.dieLinkLoss n) s = .next s)
    ∧ (∀ n, let m := s.mgmt
      let fails := (aget m.linkFails n).getD 0
      let ends (o : LinkOutcome) (lanes : List (Nat × Nat)) (k : Nat) : Prop :=
        ∃ t, exec (.linkLevelRetry n o) s = .next t ∧ t = { s with mgmt := t.mgmt } ∧ t.mgmt.repaired = lanes
          ∧ (aget t.mgmt.linkRetries n).getD 0 = (aget m.linkRetries n).getD 0 + 1 ∧ (aget t.mgmt.linkFails n).getD 0 = k
      ends .retry m.repaired fails ∧ ends .failed m.repaired (fails + 1)
      ∧ ∀ bad, let new := (bad.eraseDups.filter fun k => !m.repaired.contains (n, k)).map fun k => (n, k)
        let used := (m.repaired.filter (·.1 == n)).length + new.length
        (used ≤ Config.spareLanes → ends (.trained bad) (m.repaired ++ new) 0)
        ∧ (Config.spareLanes < used → ends (.trained bad) m.repaired (fails + 1)))
    ∧ ∀ w temps mon,
      let u : State := { s with mgmt := { s.mgmt with temps, monitors := mon } }
      (temps.length ≠ 64 → exec (.powerWindow w temps mon) s = .next s)
      ∧ (temps.length = 64 → (∃ t ∈ temps, 110 ≤ t) → exec (.powerWindow w temps mon) s = exec (.fatalError 4 0) u)
      ∧ (temps.length = 64 → (∀ t ∈ temps, t < 110) → s.time.toNat % 100 ≠ 0 → exec (.powerWindow w temps mon) s = .next u)
      ∧ (temps.length = 64 → (∀ t ∈ temps, t < 110) → s.time.toNat % 100 = 0 → ∃ t, exec (.powerWindow w temps mon) s = .next t
        ∧ t = { u with dies := t.dies } ∧ ∀ x, x < 4 →
          let slow : Prop := s.mgmt.capW < w ∨ ∃ i, i < 16 ∧ 95 ≤ temps.getD (16 * x + i) 0
          (slow → t.die x = { s.die x with mhz := max 550 ((s.die x).mhz - 50) })
          ∧ (¬ slow → t.die x = { s.die x with mhz := min 1100 ((s.die x).mhz + 50) }))

/-- R286, R391 to R397: the management subsystem. A bring-up after power good leaves the package at its reset, with what outlives one, its
logical cores on its healthy physical ones, and boots the marked firmware image, or the other where that one's signature or version
fails; a failed step is logged and reported, and the device is not ready. A warm reset, asked for in the mailbox, keeps the image and
the fatal dump, which the loss of main power loses. A mailbox request is answered once; a power cap is taken from 1200 to 2600 W; a
firmware update writes the slot not in use, and marks it when its signature and version hold. Every request on the I3C port is answered
there, or in the mailbox. The codes, which requests are read, when a request comes and the layouts of answers are the model's choices
(logs 11, 46, 50, 79, 102); the bytes of an answer that the manual leaves open are free. -/
def Obligations.ManagementServices : Prop :=
  ∀ s : State,
    let m := s.mgmt
    let cleared (t : State) : Prop := t.cores = [] ∧ t.teams = [] ∧ t.launches = [] ∧ t.queues = [] ∧ t.ctxs = [] ∧ t.recs = []
      ∧ (Keyed s.pcores → ∀ p, t.pcore p = if (s.pcore p).dead then { dead := true } else {})
      ∧ t.caps = [] ∧ t.time = 0 ∧ t.phase = 0 ∧ t.mgmt.stopped = false ∧ t.mgmt.powered = true ∧ t.inbox = s.inbox
      ∧ ∀ n, (t.stack n).dropped = (s.stack n).dropped ++ (s.stack n).pendingDrop
    let fresh (t : State) (dump : Option Fatal) (run : Nat) : Prop := cleared t ∧ t.mem = [] ∧ t.poison = []
      ∧ (∀ x, x < 4 → t.die x = s.mappedDie x) ∧ t.mgmt.running = run ∧ t.mgmt.fused = max m.fused (m.slotVersions.getD run 0)
      ∧ t.mgmt.ready = true ∧ t.mgmt.dump = dump ∧ t.mgmt.log = m.log
    let stuck (t : State) (n : Nat) (dump : Option Fatal) : Prop := cleared t ∧ t.mgmt.ready = false ∧ t.mgmt.failedStep = some n
      ∧ t.mgmt.dump = dump ∧ t.mgmt.i3c = [(0x200 + n, [])] ∧ (n < 6 → t.mem = s.mem) ∧ (n = 6 → t.mem = [])
      ∧ (n = 1 → t.mgmt.fused = m.fused)
    let fits (i : Nat) : Prop := m.slotSigned.getD i false = true ∧ m.fused ≤ m.slotVersions.getD i 0
    let boots (i : Nat) : Prop := fits i ∧ (i = m.marked ∨ i = 1 - m.marked ∧ ¬ fits m.marked)
    let answered (t : State) (i3c : Bool) (code cap : Nat) (bs : List Byte) : Prop := t = { s with mgmt := t.mgmt } ∧
      if i3c then t.mgmt = { m with i3c := m.i3c ++ [(code, bs)], requests := m.requests + 1, capW := cap }
      else t.mgmt = { m with mbox := bs.take 4032, mboxDone := true, pending := none, requests := m.requests + 1, capW := cap }
    let answers (i : Instr) (i3c : Bool) (code : Nat) (bs : List Byte) : Prop := ∃ t, exec i s = .next t ∧ answered t i3c code m.capW bs
    let open_ := Config.reply m.requests
    let spdm (i : Instr) (c : Bool) (code : Nat) (bs : List Byte) : Prop :=
      let come : Prop := c = true ∨ m.request.bind spdmCode = some code
      (come → answers i c code bs) ∧ (¬ come → exec i s = .next s)
    (∀ f, m.powered = true ∨ (∃ n, f = some n ∧ (n = 0 ∨ 6 < n)) → exec (.bringUp f) s = .next s)
    ∧ (m.powered = false →
      (∀ i, boots i → (∃ t, exec (.bringUp none) s = .next t ∧ fresh t none i)
        ∧ ∀ n, 1 ≤ n → n ≤ 6 → ∃ t, exec (.bringUp (some n)) s = .next t ∧ stuck t n none)
      ∧ (¬ fits m.marked → ¬ fits (1 - m.marked) → ∃ t, exec (.bringUp none) s = .next t ∧ stuck t 1 none))
    ∧ (m.pending = none → exec .warmReset s = .next s)
    ∧ (m.pending ≠ none →
      let n := Config.resetFails s.freeCtr
      (n < 2 ∨ 6 < n → ∃ t, exec .warmReset s = .next t ∧ fresh t m.dump m.running)
      ∧ (2 ≤ n → n ≤ 6 → ∃ t, exec .warmReset s = .next t ∧ stuck t n m.dump))
    ∧ exec .mainPowerLoss s = .next { s with mgmt := { m with powered := false, ready := false, dump := none } }
    ∧ (∀ n q r, m.pending = some n → m.request = some q →
      (spdmCode q = none → answers (.mailboxRequest n r) false 0 r)
      ∧ ∀ c, spdmCode q = some c →
        answers (.mailboxRequest n r) false 0 (s.spdm c (q.getD 3 0).toNat (BitVec.ofNat 256 (leNat ((q.drop 4).take 32)))))
    ∧ (∀ n r, m.pending ≠ some n → exec (.mailboxRequest n r) s = .next s)
    ∧ (∀ w, let cap := if 1200 ≤ w ∧ w ≤ 2600 then w else m.capW
      (∃ t, exec (.powerCap (.i3c w)) s = .next t ∧ answered t true 0x300 cap open_)
      ∧ (m.pending ≠ none → ∃ t, exec (.powerCap (.mailbox w)) s = .next t ∧ answered t false 0 cap open_)
      ∧ (m.pending = none → exec (.powerCap (.mailbox w)) s = .next s))
    ∧ (∀ v signed, let other := 1 - m.running
      ∃ t, exec (.firmwareUpdate v signed) s = .next t ∧ t = { s with mgmt := t.mgmt } ∧ t.mgmt.running = m.running ∧ t.mgmt.fused = m.fused
        ∧ (∀ j, j ≠ other → t.mgmt.slotVersions.getD j 0 = m.slotVersions.getD j 0 ∧ t.mgmt.slotSigned.getD j false = m.slotSigned.getD j false)
        ∧ (other < m.slotVersions.length → t.mgmt.slotVersions.getD other 0 = v)
        ∧ (other < m.slotSigned.length → t.mgmt.slotSigned.getD other false = signed)
        ∧ t.mgmt.marked = if signed = true ∧ m.fused ≤ v then other else m.running)
    ∧ (∀ c, spdm (.getVersion c) c 0x84 [0x10, 0x04, 0, 0, 0, 1, 0x00, 0x13])
    ∧ (∀ c, spdm (.getCapabilities c) c 0xE1 ([0x13, 0x61, 0, 0] ++ open_))
    ∧ (∀ c, spdm (.negotiateAlgorithms c) c 0xE3 ([0x13, 0x63, 0, 0] ++ leBytes 4 8 ++ leBytes 4 1))
    ∧ (∀ c, spdm (.getDigests c) c 0x81 ([0x13, 0x01, 0, 1] ++ Config.sha256 Config.chain))
    ∧ (∀ c, spdm (.getCertificate c) c 0x82 ([0x13, 0x02, 0, 0] ++ Config.chain))
    ∧ (∀ c (n : BitVec 256), let proof := Config.sha256 Config.chain ++ leBytes 32 n.toNat
      spdm (.challenge c n) c 0x83 ([0x13, 0x03, 0, 1] ++ proof ++ Config.sign m.requests proof))
    ∧ (∀ c, spdm (.getMeasurements c 0) c 0xE0 [0x13, 0x60, 4, 0]
      ∧ spdm (.getMeasurements c 255) c 0xE0 ([0x13, 0x60, 0, 0] ++ [1, 2, 3, 4].flatMap s.measurement)
      ∧ (∀ i, 1 ≤ i → i ≤ 4 → spdm (.getMeasurements c i) c 0xE0 ([0x13, 0x60, 0, 0] ++ s.measurement i))
      ∧ ∀ i, 4 < i → i ≠ 255 → spdm (.getMeasurements c i) c 0xE0 [0x13, 0x7F, 0x01, 0])
    ∧ (∀ c n, n ∉ spdmCodes → n < 256 → spdm (.unsupportedRequest c n) c n [0x13, 0x7F, 0x07, BitVec.ofNat 8 n])
    ∧ (∀ c n, n ∈ spdmCodes ∨ 256 ≤ n → exec (.unsupportedRequest c n) s = .next s)
    ∧ (∀ n v, m.readings[n]? = some v → answers (.i3cSensorRead n false) true (0x1000 + n) (leBytes 4 v))
    ∧ (∀ n, m.readings.length ≤ n → exec (.i3cSensorRead n false) s = .next s)
    ∧ ∀ n, answers (.i3cSensorRead n true) true 0x1FF (m.log.flatMap LogRec.bytes)

/-- R46, R47, R55, R58, R60, R62, R65, R69, R142, R319: with no act due and no input waiting, a step runs the word its turn falls to. Where
that word decodes to an instruction, the step is exec of it, on the state the fetch left, with the issue of the threads that stand
there; then its counts and its turn are noted, and the clock stays. The two halves of a pair run one after the other on the registers as
they stood, and its threads stand at the next word. The registers of the last eight words issued are noted (R81). That an issue comes
after the acts that are due and before those whose time is free, and the clock last, is the model's choice (log 19). -/
def Obligations.StepRunsDecodedWord : Prop :=
  ∀ (s s' : State) (p : Pick) (w : W64) (is : List Instr) (yld : Bool) (gap : Nat),
    let g := s.group p.core p.slot
    let now := s.now p.core
    let mask := maskOf fun l => s.position p.core g (g.thread l) == some p.at_
    s.inbox = [] → s.mgmt.powered = true → s.mgmt.ready = true → s.mgmt.stopped = false → s.mgmt.halved = false → s.upsets = [] →
    s.firstAct s.dueActs = none → s.nextPick = some p → p.issued = true →
    p.at_.2 ≠ 0 → (∀ l, mask.getLsbD l = true → (g.thread l).left ≠ 0) →
    s.fetch p.core g.quad (s.team g.team).ctx p.at_.1 = (s', .ok w) → wordCheck g.role g.budget p.at_.2 w = .ok (is, yld, gap) →
    let cur : Cur := { active := true, core := p.core, slot := p.slot, pc := p.at_.1, mask, first := now, last := now, word := w }
    let s1 : State := { s' with cur }
    let ended (v s3 : State) (e : Nat × Nat) (gp : Nat) : State :=
      let dests := is.flatMap fun (i : Instr) => if s3.lanesFor i == 0 then [] else (i.tab.map OpTab.vwrites).getD []
      (({ v with cur := {} } : State).updGroup p.core p.slot fun h =>
        if h.alloc == g.alloc then { h with recent := (dests :: g.recent).take 8, stop := none } else h).issued
        p.core p.slot g.quad 1 (now + e.1 - 1) e.2 gp yld
    let ends (lat : Sys2Proof.Lat) (scalar : Bool) (lanes : W32) : Nat × Nat := wordCycles lat scalar (laneCount lanes)
    step s = .next (s.inTime (s.aged p))
    ∧ (∀ i, is = [i] →
      let e := ends ((i.tab.map (·.lat)).getD .i) (scalarWord i) (s1.lanesFor i)
      decode w = .one i
      ∧ ∀ t, exec i { s1 with cur := { cur with last := now + e.1 - 1 } } = .next t →
        p.after = ended t { s1 with cur := { cur with last := now + e.1 - 1 } } e gap)
    ∧ ∀ lo hi, is = [lo, hi] →
      let e := ends .i false (s1.lanesFor lo ||| s1.lanesFor hi)
      let s3 : State := { s1 with cur := { cur with last := now + e.1 - 1 } }
      decode w = .pair lo hi yld
      ∧ ∀ t u, exec lo s3 = .next t → exec hi t = .next u →
        let ks := [lo, hi].flatMap fun i => if s3.lanesFor i == 0 then [] else Instr.kills i
        let ds := [lo, hi].flatMap fun (i : Instr) => (i.tab.map OpTab.vwrites).getD []
        let v := u.updGroup p.core p.slot fun g => ((ks.filter fun r => !ds.contains r).foldl Group.kill g).updThreads mask Thread.past
        p.after = ended v s3 e 0

/-- R381, R391: an act of the world outside that waits is the next step: exec of its event, the clock as it was but for a reset. A message
that accesses memory waits while accesses are delayed; after a fatal stop, or a failed bring-up, only the management subsystem's
acts count; without main power there is no step but its return. That such acts wait in a list, and
when (log 1), that a package without power answers a fault (log 56), and what goes on after a fatal stop (log 58), are the model's
choices. -/
def Obligations.StepTakesInput : Prop :=
  ∀ s : State,
    (s.inbox = [] → s.mgmt.powered = false → step s = .fault .noPower)
    ∧ ∀ i r, s.inbox = i :: r →
      let t : State := { s with inbox := r }
      (s.mgmt.powered = false → isPower i = false → step s = .fault .noPower)
      ∧ (s.mgmt.powered = true ∨ isPower i = true →
        (s.holds i = true → step s = .next s.onward)
        ∧ (s.holds i = false → isEvent i = false → step s = .next t)
        ∧ (s.holds i = false → s.mgmt.stopped = true ∨ s.mgmt.ready = false → isMgmt i = false → step s = .next t)
        ∧ ∀ u, s.holds i = false → isEvent i = true → (s.mgmt.stopped = false ∧ s.mgmt.ready = true) ∨ isMgmt i = true →
          exec i t = .next u → step s = .next (if isReset i then u else { u with phase := s.phase, time := s.time }))

/-- R1, R345: the clock keeps its range at every step, and %time stands, or rises by one as the last of a tick's eleven phases ends; a
reset alone begins it again. -/
def Obligations.ClockInvariant : Prop :=
  ∀ s t : State, ClockInv s → Goes s t → ClockInv t
    ∧ ((∀ i r, s.inbox = i :: r → isReset i = false) →
      (t.time = s.time ∧ (t.phase = s.phase ∨ t.phase = s.phase + 1)) ∨ (t.time = s.time + 1 ∧ s.phase = 10 ∧ t.phase = 0))

/-- R1, R171, R174, R276, R308, R342, R345, R358, R371, R375, R391: the package after reset: powered and ready, with nothing resident, no queue
enabled, no context in use, every counter and every byte of memory 0, BINTMR 256, PREDL 20,000, SDCTL DONE, and the clock in its
range. (That unlisted memory reads 0, and every register's value the manual does not give, are the model's: log 7, log 8, log 37; SDCTL's DONE
at reset is read from R276 by inference: log 9.) -/
def Obligations.ResetState : Prop :=
  let s := State.reset
  ClockInv s ∧ Powered s ∧ s.mgmt.ready = true ∧ s.mgmt.stopped = false ∧ s.time = 0 ∧ s.phase = 0 ∧ s.inbox = []
    ∧ core.reset = s ∧ Memory.wf s.mem = true ∧ (∀ a, memGet s.mem a = 0) ∧ s.poison = [] ∧ s.recs = [] ∧ s.plain ∧ KeyedCores s
    ∧ (∀ c k, s.group? c k = none) ∧ (∀ n, aget s.teams n = none) ∧ (∀ n, aget s.launches n = none)
    ∧ (∀ q, (s.queue q).st = .off ∧ (s.queue q).cfg = 0 ∧ (s.queue q).wr = 0 ∧ (s.queue q).rd = 0)
    ∧ (∀ c, (s.ctx c).inUse = false ∧ (s.ctx c).bintmr = 256 ∧ (s.ctx c).hcbase = 0 ∧ (s.ctx c).hcidx = 0 ∧ (s.ctx c).tqprod = 0)
    ∧ (∀ x, (s.die x).predl = 20000 ∧ (s.die x).mhz = 1100 ∧ (s.die x).clk = 0) ∧ s.sdctl = 0x100 ∧ s.capsel = 0 ∧ s.caps = []
    ∧ (∀ c n, aget (s.core c).counters n = none) ∧ (∀ p, (s.pcore p).suspicion = 0 ∧ (s.pcore p).quarantined = false)
    ∧ ∀ p, (s.port p).up = true ∧ (s.port p).outstanding = []

/-- R5, R179, R195: bytes written at a home are read back there, little-endian words among them, and every other byte stands; the memory
keeps its canonical form; what a die has cached of a line stays as it was until it takes the change in. -/
def Obligations.HomeMemory : Prop :=
  ∀ (s : State) (pa : Nat) (bs : List Byte), Memory.wf s.mem = true →
    let t := s.homeWr pa bs
    Memory.wf t.mem = true ∧ t.homeRd pa bs.length = bs
    ∧ (∀ a, a < pa ∨ pa + bs.length ≤ a → memGet t.mem a = memGet s.mem a)
    ∧ (∀ (v : W64) (n : Nat), n ≤ 8 → bs = leBytes n v.toNat → leNat (t.homeRd pa n) = v.toNat % 2 ^ (8 * n))
    ∧ (∀ x, (t.die x).copies = (s.die x).copies ∧ (t.die x).twins = (s.die x).twins ∧ (t.die x).clk = (s.die x).clk)
    ∧ (∀ x line c, aget (s.die x).copies line = some c → t.lineWords x line = s.lineWords x line
      ∧ (lineOf pa ≤ line → line < pa + bs.length → line ∈ (t.die x).stale))
    ∧ t = { s with mem := t.mem, dies := t.dies }

/-- R46 to R57, R62 to R69: the decoder reads back every word the encoder makes. A well-formed full-format instruction or header decodes
from its word to itself, with every operand; a word that decodes to an instruction is well formed and is that instruction's word (V2P's
mask 0 being its mask 0x7F). Two well-formed halves that keep R64 decode from their word to themselves. Every full-format instruction
has a word; a word of an OP that R67 does not list decodes to none. -/
def Obligations.EncodeRoundTrip : Prop :=
  (∀ i w, i.wf = true → encode i = some w → decode w = .one i)
  ∧ (∀ i, i.wf = true → i.tab.isSome = true → i.half = none → (encode i).isSome = true)
  ∧ (∀ i w, decode w = .one i → i.wf = true ∧ encode i = some (Raw.split w).norm.join)
  ∧ (∀ lo hi yld w, lo.wf = true → hi.wf = true → encodePair lo hi yld = some w → pairOk (fld w 1 31) (fld w 32 31) = true →
      decode w = .pair lo hi yld)
  ∧ (∀ lo hi yld w, decode w = .pair lo hi yld → lo.wf = true ∧ hi.wf = true ∧ encodePair lo hi yld = some w)
  ∧ ∀ w : W64, w.msb = false →
    (let op := (fld w 55 8).toNat
     op = 0 ∨ (0x4D ≤ op ∧ op ≤ 0x4F) ∨ (0x5C ≤ op ∧ op ≤ 0x5F) ∨ (0x6D ≤ op ∧ op ≤ 0x6F) ∨ (0x78 ≤ op ∧ op ≤ 0x7F) ∨ op = 0x87
      ∨ (0x8B ≤ op ∧ op ≤ 0x8F) ∨ (0x94 ≤ op ∧ op ≤ 0x9F) ∨ (0xAB ≤ op ∧ op ≤ 0xAF) ∨ (0xB5 ≤ op ∧ op ≤ 0xB7) ∨ (0xBB ≤ op ∧ op ≤ 0xBF)
      ∨ (0xC7 ≤ op ∧ op ≤ 0xCF) ∨ (0xD7 ≤ op ∧ op ≤ 0xDF) ∨ op = 0xEE ∨ op = 0xEF ∨ (0xFA ≤ op ∧ op ≤ 0xFE)) →
    decode w = .bad .illop

/-- R61, R66, R67, R135, R152, R168, R228, R243, R344: words the manual writes out decode to the instructions it says they are. -/
def Obligations.WordsDecode : Prop :=
  decode 0x7F8007F880000000 = .one (.clauseHeader 0 15 15 2)
  ∧ decode 0x01F0080400180001 = .one (.iaddImmediate { pg := 7, pn := false, yld := false, gap := 1, ka := true, kb := false, kc := false, fb := false } (.v 2) (.v 2) 1 .i false false)
  ∧ decode 0x1670500E0001FFF8 = .one (.saddImmediate { pg := 7, pn := false, yld := false, gap := 0, ka := false, kb := false, kc := false, fb := false } 20 7 0x1FFF8)
  ∧ decode 0x2810000000000003 = .one (.bra { pg := 1, pn := false, yld := false, gap := 0, ka := false, kb := false, kc := false, fb := false } 3)
  ∧ decode 0x307028160C000001 = .one (.faddRegisters { pg := 7, pn := false, yld := false, gap := 0, ka := false, kb := false, kc := false, fb := false } (.v 10) (.v 11) (.v 12) .rz false)
  ∧ decode 0x50700A8801000000 = .one (.ld { pg := 7, pn := false, yld := false, gap := 0, ka := false, kb := false, kc := false, fb := false } (.v 2) (.s 4) (.v 1) .b32 false .n false)
  ∧ decode 0x60F7029150015800 = .one (.cpyin { pg := 7, pn := false, yld := false, gap := 0, ka := false, kb := false, kc := false, fb := false } 8 16 24)
  ∧ decode 0x7975500148000000 = .one (.hcall { pg := 7, pn := false, yld := false, gap := 0, ka := false, kb := false, kc := false, fb := false } (.s 20) 1)
  ∧ decode 0xC80402F0080D43E0 = .pair
      (.halfIadd { da := .v 6, sb := .s 3, pg := 7, pn := false, ka := false, kb := false })
      (.halfFmul { da := .v 4, sb := .v 5, pg := 7, pn := false, ka := false, kb := false }) false
  ∧ decode 0 = .bad .illop
end

