-- ==== Sys2Proof/Laws/Codes.lean ====
section
/-! SUPPORT. Fields of words, and codes read back: what one decoding of one encoding gives (R47, R48, R51). -/
namespace Sys2Proof

@[simp] theorem fld_low {a b : Nat} (x : BitVec a) (y : BitVec b) (lo n : Nat) (h : lo + n ≤ b) : fld (no_index (x ++ y)) lo n = fld y lo n := by
  ext i hi
  simp [fld, BitVec.getElem_extractLsb', BitVec.getLsbD_append, show lo + i < b by omega]
@[simp] theorem fld_high {a b : Nat} (x : BitVec a) (y : BitVec b) (lo n : Nat) (h : b ≤ lo) : fld (no_index (x ++ y)) lo n = fld x (lo - b) n := by
  ext i hi
  simp [fld, BitVec.getElem_extractLsb', BitVec.getLsbD_append, show ¬ lo + i < b by omega, show lo + i - b = lo - b + i by omega]
@[simp] theorem fld_all {n : Nat} (x : BitVec n) : fld x 0 n = x := by
  ext i hi; simp [fld]
@[simp] theorem fld_zero {w : Nat} (lo n : Nat) : fld (0 : BitVec w) lo n = 0 := by simp [fld]
@[simp] theorem bitOf_low {a b : Nat} (x : BitVec a) (y : BitVec b) (i : Nat) (h : i < b) : bitOf (no_index (x ++ y)) i = bitOf y i := by
  simp [bitOf, BitVec.getLsbD_append, h]
@[simp] theorem bitOf_high {a b : Nat} (x : BitVec a) (y : BitVec b) (i : Nat) (h : b ≤ i) : bitOf (no_index (x ++ y)) i = bitOf x (i - b) := by
  simp [bitOf, BitVec.getLsbD_append, show ¬ i < b by omega]
@[simp] theorem bitOf_bit (b : Bool) : bitOf (bit b) 0 = b := by cases b <;> rfl

@[simp] theorem IntTy.code_ofCode (x : IntTy) : IntTy.ofCode x.code = x := by cases x <;> rfl
@[simp] theorem Cmp.code_ofCode (x : Cmp) : Cmp.ofCode x.code = x := by cases x <;> rfl
@[simp] theorem FCmp.code_ofCode (x : FCmp) : FCmp.ofCode x.code = x := by cases x <;> rfl
@[simp] theorem Comb.code_ofCode (x : Comb) : Comb.ofCode x.code = x := by cases x <;> rfl
@[simp] theorem Rm.code_ofCode (x : Rm) : Rm.ofCode x.code = x := by cases x <;> rfl
@[simp] theorem Pol.code_ofCode (x : Pol) : Pol.ofCode x.code = x := by cases x <;> rfl
@[simp] theorem Fmt.code_ofCode (x : Fmt) : Fmt.ofCode x.code = x := by cases x <;> rfl
@[simp] theorem ClassFmt.code_ofCode (x : ClassFmt) : ClassFmt.ofCode x.code = x := by cases x <;> rfl
@[simp] theorem ShflMode.code_ofCode (x : ShflMode) : ShflMode.ofCode x.code = x := by cases x <;> rfl
@[simp] theorem ShflSeg.code_ofCode (x : ShflSeg) : ShflSeg.ofCode x.code = x := by cases x <;> rfl
@[simp] theorem CensusMode.code_ofCode (x : CensusMode) : CensusMode.ofCode x.code = x := by cases x <;> rfl
@[simp] theorem GredOp.code_ofCode (x : GredOp) : GredOp.ofCode x.code = x := by cases x <;> rfl
@[simp] theorem GredTy.code_ofCode (x : GredTy) : GredTy.ofCode x.code = x := by cases x <;> rfl
@[simp] theorem Size.code_ofCode (x : Size) : Size.ofCode x.code = x := by cases x <;> rfl
@[simp] theorem Hint.code_ofCode (x : Hint) : Hint.ofCode x.code = x := by cases x <;> rfl
@[simp] theorem Scope.code_ofCode (x : Scope) : Scope.ofCode x.code = x := by cases x <;> rfl
@[simp] theorem Ord4.code_ofCode (x : Ord4) : Ord4.ofCode x.code = x := by cases x <;> rfl
@[simp] theorem FeMode.code_ofCode (x : FeMode) : FeMode.ofCode x.code = x := by cases x <;> rfl
@[simp] theorem AtomOp.code_ofCode (x : AtomOp) : AtomOp.ofCode x.code = x := by cases x <;> rfl
@[simp] theorem CpyRedOp.code_ofCode (x : CpyRedOp) : CpyRedOp.ofCode x.code = x := by cases x <;> rfl
@[simp] theorem CvtTy.code_ofCode (x : CvtTy) : CvtTy.ofCode x.code = x := by
  cases x with | el f => cases f <;> rfl | i32 => rfl | n32 => rfl | i64 => rfl | n64 => rfl
@[simp] theorem Opnd.code_ofCode (o : Opnd) (h : o.ok = true) : Opnd.ofCode o.code = o := by
  cases o with
  | v n =>
    have h : n < 320 := by simpa [Opnd.ok] using h
    have e : (BitVec.ofNat 9 n).toNat = n := by simp [BitVec.toNat_ofNat]; omega
    simp only [Opnd.code, Opnd.ofCode, e]
    split <;> first | omega | simp_all
  | s n =>
    have h : n < 128 := by simpa [Opnd.ok] using h
    have e : (BitVec.ofNat 9 (320 + n)).toNat = 320 + n := by simp [BitVec.toNat_ofNat]; omega
    simp only [Opnd.code, Opnd.ofCode, e]
    split <;> first | omega | skip
    rw [if_neg (by omega), if_pos (by omega), show 320 + n - 320 = n by omega]
  | zero => rfl
  | lane => rfl
  | ones => rfl
  | group => rfl
  | item => rfl

/-- The fields of a word are those it was made of (R47). -/
theorem Raw.split_join (r : Raw) : Raw.split r.join = r := by
  obtain ⟨op, pg, pn, dst, sa, sb, yld, gap, ka, kb, kc, tail⟩ := r
  simp [Raw.split, Raw.join, fld_low, fld_high, bitOf_low, bitOf_high, fld_all, bitOf_bit]
/-- A full-format word's top bit is 0 (R46). -/
theorem Raw.join_top (r : Raw) : bitOf r.join 63 = false := by
  simp [Raw.join, bitOf_low, bitOf_high]; rfl
theorem Raw.join_op (r : Raw) : fld r.join 55 8 = r.op := by
  simp [Raw.join, fld_low, fld_high, fld_all]
@[simp] theorem raw3_md (op : BitVec 8) (c : Ctl) (d a b s : BitVec 9) (m : BitVec 8) : (raw3 op c d a b s m).md = m := by
  simp [raw3, Raw.md, fld_low, fld_all]
@[simp] theorem raw3_sc (op : BitVec 8) (c : Ctl) (d a b s : BitVec 9) (m : BitVec 8) : (raw3 op c d a b s m).sc = s := by
  simp [raw3, Raw.sc, fld_high, fld_all]
@[simp] theorem raw3_ctl (op : BitVec 8) (c : Ctl) (d a b s : BitVec 9) (m : BitVec 8) (h : c.fb = false) :
    (raw3 op c d a b s m).ctl = c := by
  cases c; simp_all [raw3, Raw.ctl]
@[simp] theorem raw3_ctlL (op : BitVec 8) (c : Ctl) (d a b s : BitVec 9) (m : BitVec 8) (h : bitOf m 7 = c.fb) :
    (raw3 op c d a b s m).ctlL = c := by
  have := raw3_md op c d a b s m
  cases c; simp_all [Raw.ctlL, Raw.ctl, raw3]
@[simp] theorem rawI_md (op : BitVec 8) (c : Ctl) (d a : BitVec 9) (m : BitVec 8) (i : BitVec 17) : (rawI op c d a m i).mdI = m := by
  simp [rawI, Raw.mdI, fld_low, fld_all]
@[simp] theorem rawI_ctl (op : BitVec 8) (c : Ctl) (d a : BitVec 9) (m : BitVec 8) (i : BitVec 17) (h : c.fb = false) :
    (rawI op c d a m i).ctl = c := by
  cases c; simp_all [rawI, Raw.ctl]
theorem fld_split {n k : Nat} (x : BitVec (k + n)) : fld x n k ++ fld x 0 n = x := by
  ext i hi
  simp only [BitVec.getElem_append, fld, BitVec.getElem_extractLsb']
  split
  · simp [BitVec.getLsbD_eq_getElem, hi]
  · rw [show n + (i - n) = i by omega, BitVec.getLsbD_eq_getElem hi]
@[simp] theorem rawW_imm (op : BitVec 8) (c : Ctl) (d a : BitVec 9) (i : BitVec 26) : (rawW op c d a i).imm26 = i :=
  fld_split (n := 17) (k := 9) i
@[simp] theorem rawW_ctl (op : BitVec 8) (c : Ctl) (d a : BitVec 9) (i : BitVec 26) (h : c.fb = false) : (rawW op c d a i).ctl = c := by
  cases c; simp_all [rawW, Raw.ctl]

@[simp] theorem raw3_dst (op : BitVec 8) (c : Ctl) (d a b s : BitVec 9) (m : BitVec 8) : (raw3 op c d a b s m).dst = d := rfl
@[simp] theorem raw3_sa (op : BitVec 8) (c : Ctl) (d a b s : BitVec 9) (m : BitVec 8) : (raw3 op c d a b s m).sa = a := rfl
@[simp] theorem raw3_sb (op : BitVec 8) (c : Ctl) (d a b s : BitVec 9) (m : BitVec 8) : (raw3 op c d a b s m).sb = b := rfl
@[simp] theorem rawI_dst (op : BitVec 8) (c : Ctl) (d a : BitVec 9) (m : BitVec 8) (i : BitVec 17) : (rawI op c d a m i).dst = d := rfl
@[simp] theorem rawI_sa (op : BitVec 8) (c : Ctl) (d a : BitVec 9) (m : BitVec 8) (i : BitVec 17) : (rawI op c d a m i).sa = a := rfl
@[simp] theorem rawI_tail (op : BitVec 8) (c : Ctl) (d a : BitVec 9) (m : BitVec 8) (i : BitVec 17) : (rawI op c d a m i).tail = i := rfl
@[simp] theorem rawW_dst (op : BitVec 8) (c : Ctl) (d a : BitVec 9) (i : BitVec 26) : (rawW op c d a i).dst = d := rfl
@[simp] theorem rawW_sa (op : BitVec 8) (c : Ctl) (d a : BitVec 9) (i : BitVec 26) : (rawW op c d a i).sa = a := rfl
@[simp] theorem ofNat9_toNat (n : Nat) (h : n < 512) : (BitVec.ofNat 9 n).toNat = n := by
  simp [BitVec.toNat_ofNat]; omega
theorem s9 (n : Nat) (h : n < 128) : (320 + n) % 512 - 320 = n := by omega
@[simp] theorem blkCode_back (k : BitVec 4) : fld (blkCode k - 0x140#9) 3 4 = k := by revert k; decide

/-- What well-formedness gives: specifiers that the nine bits hold, the entry's limits, and no flag select outside class L. -/
structure Parts (t : OpTab) : Prop where
  a : t.a.all (fun p => p.2.ok) = true
  b : t.b.all (fun p => p.2.ok) = true
  e : t.e.all (fun p => p.2.ok) = true
  d : t.d.all (fun p => p.2.ok) = true
  ok : t.ok = true
  fb : t.lat ≠ .l → t.ctl.fb = false
theorem OpTab.parts {t : OpTab} (h : t.wf = true) : Parts t := by
  have hs (k : SrcKind) (o : Opnd) : k.ok o = true → o.ok = true := by simp only [SrcKind.ok, Bool.and_eq_true]; exact And.left
  have hd (k : DstKind) (o : Opnd) : k.ok o = true → o.ok = true := by simp only [DstKind.ok, Bool.and_eq_true]; exact And.left
  simp only [OpTab.wf, Bool.and_eq_true, Option.all_eq_true] at h
  obtain ⟨⟨⟨⟨⟨⟨⟨⟨ha, hb⟩, he⟩, hdd⟩, ho⟩, -⟩, -⟩, -⟩, hf⟩ := h
  refine ⟨?_, ?_, ?_, ?_, ho, ?_⟩
  · simp only [Option.all_eq_true]; exact fun p hp => hs _ _ (ha p hp)
  · simp only [Option.all_eq_true]; exact fun p hp => hs _ _ (hb p hp)
  · simp only [Option.all_eq_true]; exact fun p hp => hs _ _ (he p hp)
  · simp only [Option.all_eq_true]; exact fun p hp => hd _ _ (hdd p hp)
  · intro hl; simpa [hl] using hf

/-- A full-format word decodes to the instruction whose fields it holds (R47, R69). -/
theorem decode_join {i : Instr} {r : Raw} (hw : i.wf = true) (hr : i.raw = some r) (ho : r.op ≠ 0xFF#8) (hn : r.norm = r)
    (hp : parse r = some i) : decode r.join = .one i := by
  have h : (fld r.join 55 8 == 0xFF#8) = false := by rw [Raw.join_op]; simpa using ho
  simp [decode, Raw.join_top, h, decodeFull, Raw.split_join, hn, hp, hw, hr]

end Sys2Proof
end

