-- ==== Sys2Proof/Laws/State.lean ====
section
/-! SUPPORT. What each update of the state leaves: one lemma per field per update. -/
namespace Sys2Proof.Machine

section
variable (s : State) (n : Nat) (f : Core → Core)
@[simp] theorem State.updCore_phase : (s.updCore n f).phase = s.phase := rfl
@[simp] theorem State.updCore_time : (s.updCore n f).time = s.time := rfl
@[simp] theorem State.updCore_inbox : (s.updCore n f).inbox = s.inbox := rfl
@[simp] theorem State.updCore_upsets : (s.updCore n f).upsets = s.upsets := rfl
@[simp] theorem State.updCore_freeCtr : (s.updCore n f).freeCtr = s.freeCtr := rfl
@[simp] theorem State.updCore_serial : (s.updCore n f).serial = s.serial := rfl
@[simp] theorem State.updCore_cur : (s.updCore n f).cur = s.cur := rfl
@[simp] theorem State.updCore_mem : (s.updCore n f).mem = s.mem := rfl
@[simp] theorem State.updCore_poison : (s.updCore n f).poison = s.poison := rfl
@[simp] theorem State.updCore_dies : (s.updCore n f).dies = s.dies := rfl
@[simp] theorem State.updCore_hbm : (s.updCore n f).hbm = s.hbm := rfl
@[simp] theorem State.updCore_pcores : (s.updCore n f).pcores = s.pcores := rfl
@[simp] theorem State.updCore_recs : (s.updCore n f).recs = s.recs := rfl
@[simp] theorem State.updCore_teams : (s.updCore n f).teams = s.teams := rfl
@[simp] theorem State.updCore_launches : (s.updCore n f).launches = s.launches := rfl
@[simp] theorem State.updCore_queues : (s.updCore n f).queues = s.queues := rfl
@[simp] theorem State.updCore_ctxs : (s.updCore n f).ctxs = s.ctxs := rfl
@[simp] theorem State.updCore_tmpls : (s.updCore n f).tmpls = s.tmpls := rfl
@[simp] theorem State.updCore_devCounters : (s.updCore n f).devCounters = s.devCounters := rfl
@[simp] theorem State.updCore_sdva : (s.updCore n f).sdva = s.sdva := rfl
@[simp] theorem State.updCore_sdlen : (s.updCore n f).sdlen = s.sdlen := rfl
@[simp] theorem State.updCore_sdasid : (s.updCore n f).sdasid = s.sdasid := rfl
@[simp] theorem State.updCore_sdctl : (s.updCore n f).sdctl = s.sdctl := rfl
@[simp] theorem State.updCore_capsel : (s.updCore n f).capsel = s.capsel := rfl
@[simp] theorem State.updCore_caps : (s.updCore n f).caps = s.caps := rfl
@[simp] theorem State.updCore_nextCap : (s.updCore n f).nextCap = s.nextCap := rfl
@[simp] theorem State.updCore_pools : (s.updCore n f).pools = s.pools := rfl
@[simp] theorem State.updCore_poolUsed : (s.updCore n f).poolUsed = s.poolUsed := rfl
@[simp] theorem State.updCore_admitted : (s.updCore n f).admitted = s.admitted := rfl
@[simp] theorem State.updCore_migrating : (s.updCore n f).migrating = s.migrating := rfl
@[simp] theorem State.updCore_portbind : (s.updCore n f).portbind = s.portbind := rfl
@[simp] theorem State.updCore_ports : (s.updCore n f).ports = s.ports := rfl
@[simp] theorem State.updCore_msis : (s.updCore n f).msis = s.msis := rfl
@[simp] theorem State.updCore_audits : (s.updCore n f).audits = s.audits := rfl
@[simp] theorem State.updCore_later : (s.updCore n f).later = s.later := rfl
@[simp] theorem State.updCore_mgmt : (s.updCore n f).mgmt = s.mgmt := rfl
end
section
variable (s : State) (n : Nat) (f : Die → Die)
@[simp] theorem State.updDie_phase : (s.updDie n f).phase = s.phase := rfl
@[simp] theorem State.updDie_time : (s.updDie n f).time = s.time := rfl
@[simp] theorem State.updDie_inbox : (s.updDie n f).inbox = s.inbox := rfl
@[simp] theorem State.updDie_upsets : (s.updDie n f).upsets = s.upsets := rfl
@[simp] theorem State.updDie_freeCtr : (s.updDie n f).freeCtr = s.freeCtr := rfl
@[simp] theorem State.updDie_serial : (s.updDie n f).serial = s.serial := rfl
@[simp] theorem State.updDie_cur : (s.updDie n f).cur = s.cur := rfl
@[simp] theorem State.updDie_mem : (s.updDie n f).mem = s.mem := rfl
@[simp] theorem State.updDie_poison : (s.updDie n f).poison = s.poison := rfl
@[simp] theorem State.updDie_hbm : (s.updDie n f).hbm = s.hbm := rfl
@[simp] theorem State.updDie_cores : (s.updDie n f).cores = s.cores := rfl
@[simp] theorem State.updDie_pcores : (s.updDie n f).pcores = s.pcores := rfl
@[simp] theorem State.updDie_recs : (s.updDie n f).recs = s.recs := rfl
@[simp] theorem State.updDie_teams : (s.updDie n f).teams = s.teams := rfl
@[simp] theorem State.updDie_launches : (s.updDie n f).launches = s.launches := rfl
@[simp] theorem State.updDie_queues : (s.updDie n f).queues = s.queues := rfl
@[simp] theorem State.updDie_ctxs : (s.updDie n f).ctxs = s.ctxs := rfl
@[simp] theorem State.updDie_tmpls : (s.updDie n f).tmpls = s.tmpls := rfl
@[simp] theorem State.updDie_devCounters : (s.updDie n f).devCounters = s.devCounters := rfl
@[simp] theorem State.updDie_sdva : (s.updDie n f).sdva = s.sdva := rfl
@[simp] theorem State.updDie_sdlen : (s.updDie n f).sdlen = s.sdlen := rfl
@[simp] theorem State.updDie_sdasid : (s.updDie n f).sdasid = s.sdasid := rfl
@[simp] theorem State.updDie_sdctl : (s.updDie n f).sdctl = s.sdctl := rfl
@[simp] theorem State.updDie_capsel : (s.updDie n f).capsel = s.capsel := rfl
@[simp] theorem State.updDie_caps : (s.updDie n f).caps = s.caps := rfl
@[simp] theorem State.updDie_nextCap : (s.updDie n f).nextCap = s.nextCap := rfl
@[simp] theorem State.updDie_pools : (s.updDie n f).pools = s.pools := rfl
@[simp] theorem State.updDie_poolUsed : (s.updDie n f).poolUsed = s.poolUsed := rfl
@[simp] theorem State.updDie_admitted : (s.updDie n f).admitted = s.admitted := rfl
@[simp] theorem State.updDie_migrating : (s.updDie n f).migrating = s.migrating := rfl
@[simp] theorem State.updDie_portbind : (s.updDie n f).portbind = s.portbind := rfl
@[simp] theorem State.updDie_ports : (s.updDie n f).ports = s.ports := rfl
@[simp] theorem State.updDie_msis : (s.updDie n f).msis = s.msis := rfl
@[simp] theorem State.updDie_audits : (s.updDie n f).audits = s.audits := rfl
@[simp] theorem State.updDie_later : (s.updDie n f).later = s.later := rfl
@[simp] theorem State.updDie_mgmt : (s.updDie n f).mgmt = s.mgmt := rfl
end
section
variable (s : State) (n : Nat) (f : Team → Team)
@[simp] theorem State.updTeam_phase : (s.updTeam n f).phase = s.phase := rfl
@[simp] theorem State.updTeam_time : (s.updTeam n f).time = s.time := rfl
@[simp] theorem State.updTeam_inbox : (s.updTeam n f).inbox = s.inbox := rfl
@[simp] theorem State.updTeam_upsets : (s.updTeam n f).upsets = s.upsets := rfl
@[simp] theorem State.updTeam_freeCtr : (s.updTeam n f).freeCtr = s.freeCtr := rfl
@[simp] theorem State.updTeam_serial : (s.updTeam n f).serial = s.serial := rfl
@[simp] theorem State.updTeam_cur : (s.updTeam n f).cur = s.cur := rfl
@[simp] theorem State.updTeam_mem : (s.updTeam n f).mem = s.mem := rfl
@[simp] theorem State.updTeam_poison : (s.updTeam n f).poison = s.poison := rfl
@[simp] theorem State.updTeam_dies : (s.updTeam n f).dies = s.dies := rfl
@[simp] theorem State.updTeam_hbm : (s.updTeam n f).hbm = s.hbm := rfl
@[simp] theorem State.updTeam_cores : (s.updTeam n f).cores = s.cores := rfl
@[simp] theorem State.updTeam_pcores : (s.updTeam n f).pcores = s.pcores := rfl
@[simp] theorem State.updTeam_recs : (s.updTeam n f).recs = s.recs := rfl
@[simp] theorem State.updTeam_launches : (s.updTeam n f).launches = s.launches := rfl
@[simp] theorem State.updTeam_queues : (s.updTeam n f).queues = s.queues := rfl
@[simp] theorem State.updTeam_ctxs : (s.updTeam n f).ctxs = s.ctxs := rfl
@[simp] theorem State.updTeam_tmpls : (s.updTeam n f).tmpls = s.tmpls := rfl
@[simp] theorem State.updTeam_devCounters : (s.updTeam n f).devCounters = s.devCounters := rfl
@[simp] theorem State.updTeam_sdva : (s.updTeam n f).sdva = s.sdva := rfl
@[simp] theorem State.updTeam_sdlen : (s.updTeam n f).sdlen = s.sdlen := rfl
@[simp] theorem State.updTeam_sdasid : (s.updTeam n f).sdasid = s.sdasid := rfl
@[simp] theorem State.updTeam_sdctl : (s.updTeam n f).sdctl = s.sdctl := rfl
@[simp] theorem State.updTeam_capsel : (s.updTeam n f).capsel = s.capsel := rfl
@[simp] theorem State.updTeam_caps : (s.updTeam n f).caps = s.caps := rfl
@[simp] theorem State.updTeam_nextCap : (s.updTeam n f).nextCap = s.nextCap := rfl
@[simp] theorem State.updTeam_pools : (s.updTeam n f).pools = s.pools := rfl
@[simp] theorem State.updTeam_poolUsed : (s.updTeam n f).poolUsed = s.poolUsed := rfl
@[simp] theorem State.updTeam_admitted : (s.updTeam n f).admitted = s.admitted := rfl
@[simp] theorem State.updTeam_migrating : (s.updTeam n f).migrating = s.migrating := rfl
@[simp] theorem State.updTeam_portbind : (s.updTeam n f).portbind = s.portbind := rfl
@[simp] theorem State.updTeam_ports : (s.updTeam n f).ports = s.ports := rfl
@[simp] theorem State.updTeam_msis : (s.updTeam n f).msis = s.msis := rfl
@[simp] theorem State.updTeam_audits : (s.updTeam n f).audits = s.audits := rfl
@[simp] theorem State.updTeam_later : (s.updTeam n f).later = s.later := rfl
@[simp] theorem State.updTeam_mgmt : (s.updTeam n f).mgmt = s.mgmt := rfl
end
section
variable (s : State) (n : Nat) (f : Launch → Launch)
@[simp] theorem State.updLaunch_phase : (s.updLaunch n f).phase = s.phase := rfl
@[simp] theorem State.updLaunch_time : (s.updLaunch n f).time = s.time := rfl
@[simp] theorem State.updLaunch_inbox : (s.updLaunch n f).inbox = s.inbox := rfl
@[simp] theorem State.updLaunch_upsets : (s.updLaunch n f).upsets = s.upsets := rfl
@[simp] theorem State.updLaunch_freeCtr : (s.updLaunch n f).freeCtr = s.freeCtr := rfl
@[simp] theorem State.updLaunch_serial : (s.updLaunch n f).serial = s.serial := rfl
@[simp] theorem State.updLaunch_cur : (s.updLaunch n f).cur = s.cur := rfl
@[simp] theorem State.updLaunch_mem : (s.updLaunch n f).mem = s.mem := rfl
@[simp] theorem State.updLaunch_poison : (s.updLaunch n f).poison = s.poison := rfl
@[simp] theorem State.updLaunch_dies : (s.updLaunch n f).dies = s.dies := rfl
@[simp] theorem State.updLaunch_hbm : (s.updLaunch n f).hbm = s.hbm := rfl
@[simp] theorem State.updLaunch_cores : (s.updLaunch n f).cores = s.cores := rfl
@[simp] theorem State.updLaunch_pcores : (s.updLaunch n f).pcores = s.pcores := rfl
@[simp] theorem State.updLaunch_recs : (s.updLaunch n f).recs = s.recs := rfl
@[simp] theorem State.updLaunch_teams : (s.updLaunch n f).teams = s.teams := rfl
@[simp] theorem State.updLaunch_queues : (s.updLaunch n f).queues = s.queues := rfl
@[simp] theorem State.updLaunch_ctxs : (s.updLaunch n f).ctxs = s.ctxs := rfl
@[simp] theorem State.updLaunch_tmpls : (s.updLaunch n f).tmpls = s.tmpls := rfl
@[simp] theorem State.updLaunch_devCounters : (s.updLaunch n f).devCounters = s.devCounters := rfl
@[simp] theorem State.updLaunch_sdva : (s.updLaunch n f).sdva = s.sdva := rfl
@[simp] theorem State.updLaunch_sdlen : (s.updLaunch n f).sdlen = s.sdlen := rfl
@[simp] theorem State.updLaunch_sdasid : (s.updLaunch n f).sdasid = s.sdasid := rfl
@[simp] theorem State.updLaunch_sdctl : (s.updLaunch n f).sdctl = s.sdctl := rfl
@[simp] theorem State.updLaunch_capsel : (s.updLaunch n f).capsel = s.capsel := rfl
@[simp] theorem State.updLaunch_caps : (s.updLaunch n f).caps = s.caps := rfl
@[simp] theorem State.updLaunch_nextCap : (s.updLaunch n f).nextCap = s.nextCap := rfl
@[simp] theorem State.updLaunch_pools : (s.updLaunch n f).pools = s.pools := rfl
@[simp] theorem State.updLaunch_poolUsed : (s.updLaunch n f).poolUsed = s.poolUsed := rfl
@[simp] theorem State.updLaunch_admitted : (s.updLaunch n f).admitted = s.admitted := rfl
@[simp] theorem State.updLaunch_migrating : (s.updLaunch n f).migrating = s.migrating := rfl
@[simp] theorem State.updLaunch_portbind : (s.updLaunch n f).portbind = s.portbind := rfl
@[simp] theorem State.updLaunch_ports : (s.updLaunch n f).ports = s.ports := rfl
@[simp] theorem State.updLaunch_msis : (s.updLaunch n f).msis = s.msis := rfl
@[simp] theorem State.updLaunch_audits : (s.updLaunch n f).audits = s.audits := rfl
@[simp] theorem State.updLaunch_later : (s.updLaunch n f).later = s.later := rfl
@[simp] theorem State.updLaunch_mgmt : (s.updLaunch n f).mgmt = s.mgmt := rfl
end
section
variable (s : State) (n : Nat) (f : Queue → Queue)
@[simp] theorem State.updQueue_phase : (s.updQueue n f).phase = s.phase := rfl
@[simp] theorem State.updQueue_time : (s.updQueue n f).time = s.time := rfl
@[simp] theorem State.updQueue_inbox : (s.updQueue n f).inbox = s.inbox := rfl
@[simp] theorem State.updQueue_upsets : (s.updQueue n f).upsets = s.upsets := rfl
@[simp] theorem State.updQueue_freeCtr : (s.updQueue n f).freeCtr = s.freeCtr := rfl
@[simp] theorem State.updQueue_serial : (s.updQueue n f).serial = s.serial := rfl
@[simp] theorem State.updQueue_cur : (s.updQueue n f).cur = s.cur := rfl
@[simp] theorem State.updQueue_mem : (s.updQueue n f).mem = s.mem := rfl
@[simp] theorem State.updQueue_poison : (s.updQueue n f).poison = s.poison := rfl
@[simp] theorem State.updQueue_dies : (s.updQueue n f).dies = s.dies := rfl
@[simp] theorem State.updQueue_hbm : (s.updQueue n f).hbm = s.hbm := rfl
@[simp] theorem State.updQueue_cores : (s.updQueue n f).cores = s.cores := rfl
@[simp] theorem State.updQueue_pcores : (s.updQueue n f).pcores = s.pcores := rfl
@[simp] theorem State.updQueue_recs : (s.updQueue n f).recs = s.recs := rfl
@[simp] theorem State.updQueue_teams : (s.updQueue n f).teams = s.teams := rfl
@[simp] theorem State.updQueue_launches : (s.updQueue n f).launches = s.launches := rfl
@[simp] theorem State.updQueue_ctxs : (s.updQueue n f).ctxs = s.ctxs := rfl
@[simp] theorem State.updQueue_tmpls : (s.updQueue n f).tmpls = s.tmpls := rfl
@[simp] theorem State.updQueue_devCounters : (s.updQueue n f).devCounters = s.devCounters := rfl
@[simp] theorem State.updQueue_sdva : (s.updQueue n f).sdva = s.sdva := rfl
@[simp] theorem State.updQueue_sdlen : (s.updQueue n f).sdlen = s.sdlen := rfl
@[simp] theorem State.updQueue_sdasid : (s.updQueue n f).sdasid = s.sdasid := rfl
@[simp] theorem State.updQueue_sdctl : (s.updQueue n f).sdctl = s.sdctl := rfl
@[simp] theorem State.updQueue_capsel : (s.updQueue n f).capsel = s.capsel := rfl
@[simp] theorem State.updQueue_caps : (s.updQueue n f).caps = s.caps := rfl
@[simp] theorem State.updQueue_nextCap : (s.updQueue n f).nextCap = s.nextCap := rfl
@[simp] theorem State.updQueue_pools : (s.updQueue n f).pools = s.pools := rfl
@[simp] theorem State.updQueue_poolUsed : (s.updQueue n f).poolUsed = s.poolUsed := rfl
@[simp] theorem State.updQueue_admitted : (s.updQueue n f).admitted = s.admitted := rfl
@[simp] theorem State.updQueue_migrating : (s.updQueue n f).migrating = s.migrating := rfl
@[simp] theorem State.updQueue_portbind : (s.updQueue n f).portbind = s.portbind := rfl
@[simp] theorem State.updQueue_ports : (s.updQueue n f).ports = s.ports := rfl
@[simp] theorem State.updQueue_msis : (s.updQueue n f).msis = s.msis := rfl
@[simp] theorem State.updQueue_audits : (s.updQueue n f).audits = s.audits := rfl
@[simp] theorem State.updQueue_later : (s.updQueue n f).later = s.later := rfl
@[simp] theorem State.updQueue_mgmt : (s.updQueue n f).mgmt = s.mgmt := rfl
end
section
variable (s : State) (n : Nat) (f : Ctx → Ctx)
@[simp] theorem State.updCtx_phase : (s.updCtx n f).phase = s.phase := rfl
@[simp] theorem State.updCtx_time : (s.updCtx n f).time = s.time := rfl
@[simp] theorem State.updCtx_inbox : (s.updCtx n f).inbox = s.inbox := rfl
@[simp] theorem State.updCtx_upsets : (s.updCtx n f).upsets = s.upsets := rfl
@[simp] theorem State.updCtx_freeCtr : (s.updCtx n f).freeCtr = s.freeCtr := rfl
@[simp] theorem State.updCtx_serial : (s.updCtx n f).serial = s.serial := rfl
@[simp] theorem State.updCtx_cur : (s.updCtx n f).cur = s.cur := rfl
@[simp] theorem State.updCtx_mem : (s.updCtx n f).mem = s.mem := rfl
@[simp] theorem State.updCtx_poison : (s.updCtx n f).poison = s.poison := rfl
@[simp] theorem State.updCtx_dies : (s.updCtx n f).dies = s.dies := rfl
@[simp] theorem State.updCtx_hbm : (s.updCtx n f).hbm = s.hbm := rfl
@[simp] theorem State.updCtx_cores : (s.updCtx n f).cores = s.cores := rfl
@[simp] theorem State.updCtx_pcores : (s.updCtx n f).pcores = s.pcores := rfl
@[simp] theorem State.updCtx_recs : (s.updCtx n f).recs = s.recs := rfl
@[simp] theorem State.updCtx_teams : (s.updCtx n f).teams = s.teams := rfl
@[simp] theorem State.updCtx_launches : (s.updCtx n f).launches = s.launches := rfl
@[simp] theorem State.updCtx_queues : (s.updCtx n f).queues = s.queues := rfl
@[simp] theorem State.updCtx_tmpls : (s.updCtx n f).tmpls = s.tmpls := rfl
@[simp] theorem State.updCtx_devCounters : (s.updCtx n f).devCounters = s.devCounters := rfl
@[simp] theorem State.updCtx_sdva : (s.updCtx n f).sdva = s.sdva := rfl
@[simp] theorem State.updCtx_sdlen : (s.updCtx n f).sdlen = s.sdlen := rfl
@[simp] theorem State.updCtx_sdasid : (s.updCtx n f).sdasid = s.sdasid := rfl
@[simp] theorem State.updCtx_sdctl : (s.updCtx n f).sdctl = s.sdctl := rfl
@[simp] theorem State.updCtx_capsel : (s.updCtx n f).capsel = s.capsel := rfl
@[simp] theorem State.updCtx_caps : (s.updCtx n f).caps = s.caps := rfl
@[simp] theorem State.updCtx_nextCap : (s.updCtx n f).nextCap = s.nextCap := rfl
@[simp] theorem State.updCtx_pools : (s.updCtx n f).pools = s.pools := rfl
@[simp] theorem State.updCtx_poolUsed : (s.updCtx n f).poolUsed = s.poolUsed := rfl
@[simp] theorem State.updCtx_admitted : (s.updCtx n f).admitted = s.admitted := rfl
@[simp] theorem State.updCtx_migrating : (s.updCtx n f).migrating = s.migrating := rfl
@[simp] theorem State.updCtx_portbind : (s.updCtx n f).portbind = s.portbind := rfl
@[simp] theorem State.updCtx_ports : (s.updCtx n f).ports = s.ports := rfl
@[simp] theorem State.updCtx_msis : (s.updCtx n f).msis = s.msis := rfl
@[simp] theorem State.updCtx_audits : (s.updCtx n f).audits = s.audits := rfl
@[simp] theorem State.updCtx_later : (s.updCtx n f).later = s.later := rfl
@[simp] theorem State.updCtx_mgmt : (s.updCtx n f).mgmt = s.mgmt := rfl
end
section
variable (s : State) (n : Nat) (f : Stack → Stack)
@[simp] theorem State.updStack_phase : (s.updStack n f).phase = s.phase := rfl
@[simp] theorem State.updStack_time : (s.updStack n f).time = s.time := rfl
@[simp] theorem State.updStack_inbox : (s.updStack n f).inbox = s.inbox := rfl
@[simp] theorem State.updStack_upsets : (s.updStack n f).upsets = s.upsets := rfl
@[simp] theorem State.updStack_freeCtr : (s.updStack n f).freeCtr = s.freeCtr := rfl
@[simp] theorem State.updStack_serial : (s.updStack n f).serial = s.serial := rfl
@[simp] theorem State.updStack_cur : (s.updStack n f).cur = s.cur := rfl
@[simp] theorem State.updStack_mem : (s.updStack n f).mem = s.mem := rfl
@[simp] theorem State.updStack_poison : (s.updStack n f).poison = s.poison := rfl
@[simp] theorem State.updStack_dies : (s.updStack n f).dies = s.dies := rfl
@[simp] theorem State.updStack_cores : (s.updStack n f).cores = s.cores := rfl
@[simp] theorem State.updStack_pcores : (s.updStack n f).pcores = s.pcores := rfl
@[simp] theorem State.updStack_recs : (s.updStack n f).recs = s.recs := rfl
@[simp] theorem State.updStack_teams : (s.updStack n f).teams = s.teams := rfl
@[simp] theorem State.updStack_launches : (s.updStack n f).launches = s.launches := rfl
@[simp] theorem State.updStack_queues : (s.updStack n f).queues = s.queues := rfl
@[simp] theorem State.updStack_ctxs : (s.updStack n f).ctxs = s.ctxs := rfl
@[simp] theorem State.updStack_tmpls : (s.updStack n f).tmpls = s.tmpls := rfl
@[simp] theorem State.updStack_devCounters : (s.updStack n f).devCounters = s.devCounters := rfl
@[simp] theorem State.updStack_sdva : (s.updStack n f).sdva = s.sdva := rfl
@[simp] theorem State.updStack_sdlen : (s.updStack n f).sdlen = s.sdlen := rfl
@[simp] theorem State.updStack_sdasid : (s.updStack n f).sdasid = s.sdasid := rfl
@[simp] theorem State.updStack_sdctl : (s.updStack n f).sdctl = s.sdctl := rfl
@[simp] theorem State.updStack_capsel : (s.updStack n f).capsel = s.capsel := rfl
@[simp] theorem State.updStack_caps : (s.updStack n f).caps = s.caps := rfl
@[simp] theorem State.updStack_nextCap : (s.updStack n f).nextCap = s.nextCap := rfl
@[simp] theorem State.updStack_pools : (s.updStack n f).pools = s.pools := rfl
@[simp] theorem State.updStack_poolUsed : (s.updStack n f).poolUsed = s.poolUsed := rfl
@[simp] theorem State.updStack_admitted : (s.updStack n f).admitted = s.admitted := rfl
@[simp] theorem State.updStack_migrating : (s.updStack n f).migrating = s.migrating := rfl
@[simp] theorem State.updStack_portbind : (s.updStack n f).portbind = s.portbind := rfl
@[simp] theorem State.updStack_ports : (s.updStack n f).ports = s.ports := rfl
@[simp] theorem State.updStack_msis : (s.updStack n f).msis = s.msis := rfl
@[simp] theorem State.updStack_audits : (s.updStack n f).audits = s.audits := rfl
@[simp] theorem State.updStack_later : (s.updStack n f).later = s.later := rfl
@[simp] theorem State.updStack_mgmt : (s.updStack n f).mgmt = s.mgmt := rfl
end
section
variable (s : State) (n : Nat) (f : Port → Port)
@[simp] theorem State.updPort_phase : (s.updPort n f).phase = s.phase := rfl
@[simp] theorem State.updPort_time : (s.updPort n f).time = s.time := rfl
@[simp] theorem State.updPort_inbox : (s.updPort n f).inbox = s.inbox := rfl
@[simp] theorem State.updPort_upsets : (s.updPort n f).upsets = s.upsets := rfl
@[simp] theorem State.updPort_freeCtr : (s.updPort n f).freeCtr = s.freeCtr := rfl
@[simp] theorem State.updPort_serial : (s.updPort n f).serial = s.serial := rfl
@[simp] theorem State.updPort_cur : (s.updPort n f).cur = s.cur := rfl
@[simp] theorem State.updPort_mem : (s.updPort n f).mem = s.mem := rfl
@[simp] theorem State.updPort_poison : (s.updPort n f).poison = s.poison := rfl
@[simp] theorem State.updPort_dies : (s.updPort n f).dies = s.dies := rfl
@[simp] theorem State.updPort_hbm : (s.updPort n f).hbm = s.hbm := rfl
@[simp] theorem State.updPort_cores : (s.updPort n f).cores = s.cores := rfl
@[simp] theorem State.updPort_pcores : (s.updPort n f).pcores = s.pcores := rfl
@[simp] theorem State.updPort_recs : (s.updPort n f).recs = s.recs := rfl
@[simp] theorem State.updPort_teams : (s.updPort n f).teams = s.teams := rfl
@[simp] theorem State.updPort_launches : (s.updPort n f).launches = s.launches := rfl
@[simp] theorem State.updPort_queues : (s.updPort n f).queues = s.queues := rfl
@[simp] theorem State.updPort_ctxs : (s.updPort n f).ctxs = s.ctxs := rfl
@[simp] theorem State.updPort_tmpls : (s.updPort n f).tmpls = s.tmpls := rfl
@[simp] theorem State.updPort_devCounters : (s.updPort n f).devCounters = s.devCounters := rfl
@[simp] theorem State.updPort_sdva : (s.updPort n f).sdva = s.sdva := rfl
@[simp] theorem State.updPort_sdlen : (s.updPort n f).sdlen = s.sdlen := rfl
@[simp] theorem State.updPort_sdasid : (s.updPort n f).sdasid = s.sdasid := rfl
@[simp] theorem State.updPort_sdctl : (s.updPort n f).sdctl = s.sdctl := rfl
@[simp] theorem State.updPort_capsel : (s.updPort n f).capsel = s.capsel := rfl
@[simp] theorem State.updPort_caps : (s.updPort n f).caps = s.caps := rfl
@[simp] theorem State.updPort_nextCap : (s.updPort n f).nextCap = s.nextCap := rfl
@[simp] theorem State.updPort_pools : (s.updPort n f).pools = s.pools := rfl
@[simp] theorem State.updPort_poolUsed : (s.updPort n f).poolUsed = s.poolUsed := rfl
@[simp] theorem State.updPort_admitted : (s.updPort n f).admitted = s.admitted := rfl
@[simp] theorem State.updPort_migrating : (s.updPort n f).migrating = s.migrating := rfl
@[simp] theorem State.updPort_portbind : (s.updPort n f).portbind = s.portbind := rfl
@[simp] theorem State.updPort_msis : (s.updPort n f).msis = s.msis := rfl
@[simp] theorem State.updPort_audits : (s.updPort n f).audits = s.audits := rfl
@[simp] theorem State.updPort_later : (s.updPort n f).later = s.later := rfl
@[simp] theorem State.updPort_mgmt : (s.updPort n f).mgmt = s.mgmt := rfl
end
section
variable (s : State) (n : Nat) (f : PCore → PCore)
@[simp] theorem State.updPcore_phase : (s.updPcore n f).phase = s.phase := rfl
@[simp] theorem State.updPcore_time : (s.updPcore n f).time = s.time := rfl
@[simp] theorem State.updPcore_inbox : (s.updPcore n f).inbox = s.inbox := rfl
@[simp] theorem State.updPcore_upsets : (s.updPcore n f).upsets = s.upsets := rfl
@[simp] theorem State.updPcore_freeCtr : (s.updPcore n f).freeCtr = s.freeCtr := rfl
@[simp] theorem State.updPcore_serial : (s.updPcore n f).serial = s.serial := rfl
@[simp] theorem State.updPcore_cur : (s.updPcore n f).cur = s.cur := rfl
@[simp] theorem State.updPcore_mem : (s.updPcore n f).mem = s.mem := rfl
@[simp] theorem State.updPcore_poison : (s.updPcore n f).poison = s.poison := rfl
@[simp] theorem State.updPcore_dies : (s.updPcore n f).dies = s.dies := rfl
@[simp] theorem State.updPcore_hbm : (s.updPcore n f).hbm = s.hbm := rfl
@[simp] theorem State.updPcore_cores : (s.updPcore n f).cores = s.cores := rfl
@[simp] theorem State.updPcore_recs : (s.updPcore n f).recs = s.recs := rfl
@[simp] theorem State.updPcore_teams : (s.updPcore n f).teams = s.teams := rfl
@[simp] theorem State.updPcore_launches : (s.updPcore n f).launches = s.launches := rfl
@[simp] theorem State.updPcore_queues : (s.updPcore n f).queues = s.queues := rfl
@[simp] theorem State.updPcore_ctxs : (s.updPcore n f).ctxs = s.ctxs := rfl
@[simp] theorem State.updPcore_tmpls : (s.updPcore n f).tmpls = s.tmpls := rfl
@[simp] theorem State.updPcore_devCounters : (s.updPcore n f).devCounters = s.devCounters := rfl
@[simp] theorem State.updPcore_sdva : (s.updPcore n f).sdva = s.sdva := rfl
@[simp] theorem State.updPcore_sdlen : (s.updPcore n f).sdlen = s.sdlen := rfl
@[simp] theorem State.updPcore_sdasid : (s.updPcore n f).sdasid = s.sdasid := rfl
@[simp] theorem State.updPcore_sdctl : (s.updPcore n f).sdctl = s.sdctl := rfl
@[simp] theorem State.updPcore_capsel : (s.updPcore n f).capsel = s.capsel := rfl
@[simp] theorem State.updPcore_caps : (s.updPcore n f).caps = s.caps := rfl
@[simp] theorem State.updPcore_nextCap : (s.updPcore n f).nextCap = s.nextCap := rfl
@[simp] theorem State.updPcore_pools : (s.updPcore n f).pools = s.pools := rfl
@[simp] theorem State.updPcore_poolUsed : (s.updPcore n f).poolUsed = s.poolUsed := rfl
@[simp] theorem State.updPcore_admitted : (s.updPcore n f).admitted = s.admitted := rfl
@[simp] theorem State.updPcore_migrating : (s.updPcore n f).migrating = s.migrating := rfl
@[simp] theorem State.updPcore_portbind : (s.updPcore n f).portbind = s.portbind := rfl
@[simp] theorem State.updPcore_ports : (s.updPcore n f).ports = s.ports := rfl
@[simp] theorem State.updPcore_msis : (s.updPcore n f).msis = s.msis := rfl
@[simp] theorem State.updPcore_audits : (s.updPcore n f).audits = s.audits := rfl
@[simp] theorem State.updPcore_later : (s.updPcore n f).later = s.later := rfl
@[simp] theorem State.updPcore_mgmt : (s.updPcore n f).mgmt = s.mgmt := rfl
end
section
variable (s : State) (c k : Nat) (f : Group → Group)
@[simp] theorem State.updGroup_phase : (s.updGroup c k f).phase = s.phase := by unfold State.updGroup; split <;> rfl
@[simp] theorem State.updGroup_time : (s.updGroup c k f).time = s.time := by unfold State.updGroup; split <;> rfl
@[simp] theorem State.updGroup_inbox : (s.updGroup c k f).inbox = s.inbox := by unfold State.updGroup; split <;> rfl
@[simp] theorem State.updGroup_upsets : (s.updGroup c k f).upsets = s.upsets := by unfold State.updGroup; split <;> rfl
@[simp] theorem State.updGroup_freeCtr : (s.updGroup c k f).freeCtr = s.freeCtr := by unfold State.updGroup; split <;> rfl
@[simp] theorem State.updGroup_serial : (s.updGroup c k f).serial = s.serial := by unfold State.updGroup; split <;> rfl
@[simp] theorem State.updGroup_cur : (s.updGroup c k f).cur = s.cur := by unfold State.updGroup; split <;> rfl
@[simp] theorem State.updGroup_mem : (s.updGroup c k f).mem = s.mem := by unfold State.updGroup; split <;> rfl
@[simp] theorem State.updGroup_poison : (s.updGroup c k f).poison = s.poison := by unfold State.updGroup; split <;> rfl
@[simp] theorem State.updGroup_dies : (s.updGroup c k f).dies = s.dies := by unfold State.updGroup; split <;> rfl
@[simp] theorem State.updGroup_hbm : (s.updGroup c k f).hbm = s.hbm := by unfold State.updGroup; split <;> rfl
@[simp] theorem State.updGroup_pcores : (s.updGroup c k f).pcores = s.pcores := by unfold State.updGroup; split <;> rfl
@[simp] theorem State.updGroup_recs : (s.updGroup c k f).recs = s.recs := by unfold State.updGroup; split <;> rfl
@[simp] theorem State.updGroup_teams : (s.updGroup c k f).teams = s.teams := by unfold State.updGroup; split <;> rfl
@[simp] theorem State.updGroup_launches : (s.updGroup c k f).launches = s.launches := by unfold State.updGroup; split <;> rfl
@[simp] theorem State.updGroup_queues : (s.updGroup c k f).queues = s.queues := by unfold State.updGroup; split <;> rfl
@[simp] theorem State.updGroup_ctxs : (s.updGroup c k f).ctxs = s.ctxs := by unfold State.updGroup; split <;> rfl
@[simp] theorem State.updGroup_tmpls : (s.updGroup c k f).tmpls = s.tmpls := by unfold State.updGroup; split <;> rfl
@[simp] theorem State.updGroup_devCounters : (s.updGroup c k f).devCounters = s.devCounters := by unfold State.updGroup; split <;> rfl
@[simp] theorem State.updGroup_sdva : (s.updGroup c k f).sdva = s.sdva := by unfold State.updGroup; split <;> rfl
@[simp] theorem State.updGroup_sdlen : (s.updGroup c k f).sdlen = s.sdlen := by unfold State.updGroup; split <;> rfl
@[simp] theorem State.updGroup_sdasid : (s.updGroup c k f).sdasid = s.sdasid := by unfold State.updGroup; split <;> rfl
@[simp] theorem State.updGroup_sdctl : (s.updGroup c k f).sdctl = s.sdctl := by unfold State.updGroup; split <;> rfl
@[simp] theorem State.updGroup_capsel : (s.updGroup c k f).capsel = s.capsel := by unfold State.updGroup; split <;> rfl
@[simp] theorem State.updGroup_caps : (s.updGroup c k f).caps = s.caps := by unfold State.updGroup; split <;> rfl
@[simp] theorem State.updGroup_nextCap : (s.updGroup c k f).nextCap = s.nextCap := by unfold State.updGroup; split <;> rfl
@[simp] theorem State.updGroup_pools : (s.updGroup c k f).pools = s.pools := by unfold State.updGroup; split <;> rfl
@[simp] theorem State.updGroup_poolUsed : (s.updGroup c k f).poolUsed = s.poolUsed := by unfold State.updGroup; split <;> rfl
@[simp] theorem State.updGroup_admitted : (s.updGroup c k f).admitted = s.admitted := by unfold State.updGroup; split <;> rfl
@[simp] theorem State.updGroup_migrating : (s.updGroup c k f).migrating = s.migrating := by unfold State.updGroup; split <;> rfl
@[simp] theorem State.updGroup_portbind : (s.updGroup c k f).portbind = s.portbind := by unfold State.updGroup; split <;> rfl
@[simp] theorem State.updGroup_ports : (s.updGroup c k f).ports = s.ports := by unfold State.updGroup; split <;> rfl
@[simp] theorem State.updGroup_msis : (s.updGroup c k f).msis = s.msis := by unfold State.updGroup; split <;> rfl
@[simp] theorem State.updGroup_audits : (s.updGroup c k f).audits = s.audits := by unfold State.updGroup; split <;> rfl
@[simp] theorem State.updGroup_later : (s.updGroup c k f).later = s.later := by unfold State.updGroup; split <;> rfl
@[simp] theorem State.updGroup_mgmt : (s.updGroup c k f).mgmt = s.mgmt := by unfold State.updGroup; split <;> rfl
end
section
variable (s : State) (f : Group → Group)
@[simp] theorem State.updG_phase : (s.updG f).phase = s.phase := State.updGroup_phase ..
@[simp] theorem State.updG_time : (s.updG f).time = s.time := State.updGroup_time ..
@[simp] theorem State.updG_inbox : (s.updG f).inbox = s.inbox := State.updGroup_inbox ..
@[simp] theorem State.updG_upsets : (s.updG f).upsets = s.upsets := State.updGroup_upsets ..
@[simp] theorem State.updG_freeCtr : (s.updG f).freeCtr = s.freeCtr := State.updGroup_freeCtr ..
@[simp] theorem State.updG_serial : (s.updG f).serial = s.serial := State.updGroup_serial ..
@[simp] theorem State.updG_cur : (s.updG f).cur = s.cur := State.updGroup_cur ..
@[simp] theorem State.updG_mem : (s.updG f).mem = s.mem := State.updGroup_mem ..
@[simp] theorem State.updG_poison : (s.updG f).poison = s.poison := State.updGroup_poison ..
@[simp] theorem State.updG_dies : (s.updG f).dies = s.dies := State.updGroup_dies ..
@[simp] theorem State.updG_hbm : (s.updG f).hbm = s.hbm := State.updGroup_hbm ..
@[simp] theorem State.updG_pcores : (s.updG f).pcores = s.pcores := State.updGroup_pcores ..
@[simp] theorem State.updG_recs : (s.updG f).recs = s.recs := State.updGroup_recs ..
@[simp] theorem State.updG_teams : (s.updG f).teams = s.teams := State.updGroup_teams ..
@[simp] theorem State.updG_launches : (s.updG f).launches = s.launches := State.updGroup_launches ..
@[simp] theorem State.updG_queues : (s.updG f).queues = s.queues := State.updGroup_queues ..
@[simp] theorem State.updG_ctxs : (s.updG f).ctxs = s.ctxs := State.updGroup_ctxs ..
@[simp] theorem State.updG_tmpls : (s.updG f).tmpls = s.tmpls := State.updGroup_tmpls ..
@[simp] theorem State.updG_devCounters : (s.updG f).devCounters = s.devCounters := State.updGroup_devCounters ..
@[simp] theorem State.updG_sdva : (s.updG f).sdva = s.sdva := State.updGroup_sdva ..
@[simp] theorem State.updG_sdlen : (s.updG f).sdlen = s.sdlen := State.updGroup_sdlen ..
@[simp] theorem State.updG_sdasid : (s.updG f).sdasid = s.sdasid := State.updGroup_sdasid ..
@[simp] theorem State.updG_sdctl : (s.updG f).sdctl = s.sdctl := State.updGroup_sdctl ..
@[simp] theorem State.updG_capsel : (s.updG f).capsel = s.capsel := State.updGroup_capsel ..
@[simp] theorem State.updG_caps : (s.updG f).caps = s.caps := State.updGroup_caps ..
@[simp] theorem State.updG_nextCap : (s.updG f).nextCap = s.nextCap := State.updGroup_nextCap ..
@[simp] theorem State.updG_pools : (s.updG f).pools = s.pools := State.updGroup_pools ..
@[simp] theorem State.updG_poolUsed : (s.updG f).poolUsed = s.poolUsed := State.updGroup_poolUsed ..
@[simp] theorem State.updG_admitted : (s.updG f).admitted = s.admitted := State.updGroup_admitted ..
@[simp] theorem State.updG_migrating : (s.updG f).migrating = s.migrating := State.updGroup_migrating ..
@[simp] theorem State.updG_portbind : (s.updG f).portbind = s.portbind := State.updGroup_portbind ..
@[simp] theorem State.updG_ports : (s.updG f).ports = s.ports := State.updGroup_ports ..
@[simp] theorem State.updG_msis : (s.updG f).msis = s.msis := State.updGroup_msis ..
@[simp] theorem State.updG_audits : (s.updG f).audits = s.audits := State.updGroup_audits ..
@[simp] theorem State.updG_later : (s.updG f).later = s.later := State.updGroup_later ..
@[simp] theorem State.updG_mgmt : (s.updG f).mgmt = s.mgmt := State.updGroup_mgmt ..
end
section
variable (s : State) (pa : Nat) (bs : List Byte)
@[simp] theorem State.homeWr_phase : (s.homeWr pa bs).phase = s.phase := rfl
@[simp] theorem State.homeWr_time : (s.homeWr pa bs).time = s.time := rfl
@[simp] theorem State.homeWr_inbox : (s.homeWr pa bs).inbox = s.inbox := rfl
@[simp] theorem State.homeWr_upsets : (s.homeWr pa bs).upsets = s.upsets := rfl
@[simp] theorem State.homeWr_freeCtr : (s.homeWr pa bs).freeCtr = s.freeCtr := rfl
@[simp] theorem State.homeWr_serial : (s.homeWr pa bs).serial = s.serial := rfl
@[simp] theorem State.homeWr_cur : (s.homeWr pa bs).cur = s.cur := rfl
@[simp] theorem State.homeWr_poison : (s.homeWr pa bs).poison = s.poison := rfl
@[simp] theorem State.homeWr_hbm : (s.homeWr pa bs).hbm = s.hbm := rfl
@[simp] theorem State.homeWr_cores : (s.homeWr pa bs).cores = s.cores := rfl
@[simp] theorem State.homeWr_pcores : (s.homeWr pa bs).pcores = s.pcores := rfl
@[simp] theorem State.homeWr_recs : (s.homeWr pa bs).recs = s.recs := rfl
@[simp] theorem State.homeWr_teams : (s.homeWr pa bs).teams = s.teams := rfl
@[simp] theorem State.homeWr_launches : (s.homeWr pa bs).launches = s.launches := rfl
@[simp] theorem State.homeWr_queues : (s.homeWr pa bs).queues = s.queues := rfl
@[simp] theorem State.homeWr_ctxs : (s.homeWr pa bs).ctxs = s.ctxs := rfl
@[simp] theorem State.homeWr_tmpls : (s.homeWr pa bs).tmpls = s.tmpls := rfl
@[simp] theorem State.homeWr_devCounters : (s.homeWr pa bs).devCounters = s.devCounters := rfl
@[simp] theorem State.homeWr_sdva : (s.homeWr pa bs).sdva = s.sdva := rfl
@[simp] theorem State.homeWr_sdlen : (s.homeWr pa bs).sdlen = s.sdlen := rfl
@[simp] theorem State.homeWr_sdasid : (s.homeWr pa bs).sdasid = s.sdasid := rfl
@[simp] theorem State.homeWr_sdctl : (s.homeWr pa bs).sdctl = s.sdctl := rfl
@[simp] theorem State.homeWr_capsel : (s.homeWr pa bs).capsel = s.capsel := rfl
@[simp] theorem State.homeWr_caps : (s.homeWr pa bs).caps = s.caps := rfl
@[simp] theorem State.homeWr_nextCap : (s.homeWr pa bs).nextCap = s.nextCap := rfl
@[simp] theorem State.homeWr_pools : (s.homeWr pa bs).pools = s.pools := rfl
@[simp] theorem State.homeWr_poolUsed : (s.homeWr pa bs).poolUsed = s.poolUsed := rfl
@[simp] theorem State.homeWr_admitted : (s.homeWr pa bs).admitted = s.admitted := rfl
@[simp] theorem State.homeWr_migrating : (s.homeWr pa bs).migrating = s.migrating := rfl
@[simp] theorem State.homeWr_portbind : (s.homeWr pa bs).portbind = s.portbind := rfl
@[simp] theorem State.homeWr_ports : (s.homeWr pa bs).ports = s.ports := rfl
@[simp] theorem State.homeWr_msis : (s.homeWr pa bs).msis = s.msis := rfl
@[simp] theorem State.homeWr_audits : (s.homeWr pa bs).audits = s.audits := rfl
@[simp] theorem State.homeWr_later : (s.homeWr pa bs).later = s.later := rfl
@[simp] theorem State.homeWr_mgmt : (s.homeWr pa bs).mgmt = s.mgmt := rfl
@[simp] theorem State.homeWr_mem : (s.homeWr pa bs).mem = memWr s.mem pa bs := rfl
end

/-- A table entry read back after a write, and the others. -/
@[simp] theorem aget_aset_same {α : Type} (l : List (Nat × α)) (n : Nat) (v : α) : aget (aset l n v) n = some v := by
  induction l with
  | nil => simp [aset, aget]
  | cons p r ih =>
    obtain ⟨k, w⟩ := p
    simp only [aset]
    split
    · simp [aget]
    · split
      · simp [aget]
      · simp [aget, ih, show ¬ k = n by omega]
theorem aget_aset_ne {α : Type} (l : List (Nat × α)) (n m : Nat) (v : α) (h : m ≠ n) : aget (aset l n v) m = aget l m := by
  induction l with
  | nil => simp [aset, aget, Ne.symm h]
  | cons p r ih =>
    obtain ⟨k, w⟩ := p
    simp only [aset]
    split
    · simp [aget, Ne.symm h]
    · split
      · next h1 h2 => subst h2; simp [aget, Ne.symm h]
      · simp only [aget, ih]
theorem aget_filter_ne {α : Type} (l : List (Nat × α)) (n m : Nat) (h : m ≠ n) : aget (adel l n) m = aget l m := by
  induction l with
  | nil => rfl
  | cons p r ih =>
    obtain ⟨k, w⟩ := p
    simp only [adel] at ih
    by_cases hk : k = n
    · subst hk; simp [adel, aget, ih, Ne.symm h]
    · simp [adel, aget, ih, hk]
@[simp] theorem aget_adel_same {α : Type} (l : List (Nat × α)) (n : Nat) : aget (adel l n) n = none := by
  induction l with
  | nil => rfl
  | cons p r ih =>
    obtain ⟨k, w⟩ := p
    simp only [adel] at ih
    by_cases hk : k = n
    · subst hk; simp [adel, ih]
    · simp [adel, aget, ih, hk]

section
variable (s : State) (n m : Nat)
@[simp] theorem State.core_updCore (f : Core → Core) : (s.updCore n f).core n = f (s.core n) := by simp [State.core, State.updCore]
theorem State.core_updCore_ne (f : Core → Core) (h : m ≠ n) : (s.updCore n f).core m = s.core m := by
  simp [State.core, State.updCore, aget_aset_ne _ _ _ _ h]
@[simp] theorem State.die_updDie (f : Die → Die) : (s.updDie n f).die n = f (s.die n) := by simp [State.die, State.updDie]
theorem State.die_updDie_ne (f : Die → Die) (h : m ≠ n) : (s.updDie n f).die m = s.die m := by
  simp [State.die, State.updDie, aget_aset_ne _ _ _ _ h]
@[simp] theorem State.team_updTeam (f : Team → Team) : (s.updTeam n f).team n = f (s.team n) := by simp [State.team, State.updTeam]
@[simp] theorem State.queue_updQueue (f : Queue → Queue) : (s.updQueue n f).queue n = f (s.queue n) := by
  simp [State.queue, State.updQueue]
@[simp] theorem State.ctx_updCtx (f : Ctx → Ctx) : (s.updCtx n f).ctx n = f (s.ctx n) := by simp [State.ctx, State.updCtx]
@[simp] theorem State.port_updPort (f : Port → Port) : (s.updPort n f).port n = f (s.port n) := by simp [State.port, State.updPort]
@[simp] theorem State.pcore_updPcore (f : PCore → PCore) : (s.updPcore n f).pcore n = f (s.pcore n) := by
  simp [State.pcore, State.updPcore]
@[simp] theorem State.launchRec_updLaunch (f : Launch → Launch) : (s.updLaunch n f).launchRec n = f (s.launchRec n) := by
  simp [State.launchRec, State.updLaunch]
end

/-- The group that issues after a change to it. -/
theorem State.group?_updGroup (s : State) (c k : Nat) (f : Group → Group) :
    (s.updGroup c k f).group? c k = (s.group? c k).map f := by
  unfold State.updGroup
  split
  · next g h => simp [State.group?] at h ⊢; simp [h]
  · next h => simp [h]
theorem State.group?_updGroup_slot (s : State) (c k j : Nat) (f : Group → Group) (h : j ≠ k) :
    (s.updGroup c k f).group? c j = s.group? c j := by
  unfold State.updGroup
  split
  · simp [State.group?, aget_aset_ne _ _ _ _ h]
  · rfl
theorem State.group?_updGroup_core (s : State) (c k d j : Nat) (f : Group → Group) (h : d ≠ c) :
    (s.updGroup c k f).group? d j = s.group? d j := by
  unfold State.updGroup
  split
  · simp [State.group?, State.core_updCore_ne _ _ _ _ h]
  · rfl
theorem State.g_updG (s : State) (f : Group → Group) (h : (s.group? s.cur.core s.cur.slot).isSome = true) :
    (s.updG f).g = f s.g := by
  obtain ⟨g, hg⟩ := Option.isSome_iff_exists.mp h
  simp [State.g, State.group, State.updG, State.group?_updGroup, hg]
theorem State.live_updG (s : State) (f : Group → Group) :
    ((s.updG f).group? (s.updG f).cur.core (s.updG f).cur.slot).isSome = (s.group? s.cur.core s.cur.slot).isSome := by
  simp [State.updG, State.group?_updGroup]

end Sys2Proof.Machine
end

