-- ==== Sys2Proof/Laws/Memory.lean ====
section
/-! SUPPORT. Lists of cells: the canonical form is kept by every write, and a read after a write gives what was written. -/
namespace Sys2Proof.Machine

theorem Memory.wf_cons (k : Nat) (v : Byte) (r : List Host.Cell) :
    Memory.wf ((k, v) :: r) = true ↔ v ≠ 0 ∧ (∀ p ∈ r.head?, k < p.1) ∧ Memory.wf r = true := by
  cases r with
  | nil => simp [Memory.wf]
  | cons p r => obtain ⟨k', v'⟩ := p; simp [Memory.wf, and_assoc]
/-- The head of a written list is an old head or the written cell. -/
theorem memSet_head (m : List Host.Cell) (a : Nat) (b : Byte) (n : Nat) (hn : n < a) (h : ∀ p ∈ m.head?, n < p.1)
    (hw : Memory.wf m = true) : ∀ p ∈ (memSet m a b).head?, n < p.1 := by
  cases m with
  | nil => simp only [memSet]; split <;> simp [hn]
  | cons q r =>
    obtain ⟨k, v⟩ := q
    simp only [List.head?_cons, Option.mem_some_iff, forall_eq'] at h
    simp only [memSet]
    split
    · split <;> simp [hn, h]
    · split
      · split
        · obtain ⟨-, h2, -⟩ := (Memory.wf_cons k v r).mp hw
          intro p hp
          exact Nat.lt_trans h (h2 p hp)
        · simp [hn]
      · simp [h]
/-- A write keeps the canonical form. -/
theorem memSet_wf (m : List Host.Cell) (a : Nat) (b : Byte) (h : Memory.wf m = true) : Memory.wf (memSet m a b) = true := by
  induction m with
  | nil => simp only [memSet]; split <;> simp_all [Memory.wf]
  | cons q r ih =>
    obtain ⟨k, v⟩ := q
    obtain ⟨h1, h2, h3⟩ := (Memory.wf_cons k v r).mp h
    simp only [memSet]
    split
    · next ha =>
      split
      · exact h
      · next hb => exact (Memory.wf_cons a b _).mpr ⟨hb, by simp [ha], h⟩
    · split
      · next ha =>
        split
        · exact h3
        · next hb => exact (Memory.wf_cons a b r).mpr ⟨hb, by subst ha; exact h2, h3⟩
      · exact (Memory.wf_cons k v _).mpr ⟨h1, memSet_head r a b k (by omega) h2 h3, ih h3⟩
theorem memWr_wf (m : List Host.Cell) (a : Nat) (bs : List Byte) (h : Memory.wf m = true) : Memory.wf (memWr m a bs) = true := by
  induction bs generalizing m a with
  | nil => exact h
  | cons b r ih => exact ih _ _ (memSet_wf m a b h)
/-- An address below every listed one reads as 0. -/
theorem memGet_below (m : List Host.Cell) (a : Nat) (h : Memory.wf m = true) (ha : ∀ p ∈ m.head?, a < p.1) : memGet m a = 0 := by
  induction m with
  | nil => rfl
  | cons q r ih =>
    obtain ⟨k, v⟩ := q
    obtain ⟨-, h2, h3⟩ := (Memory.wf_cons k v r).mp h
    simp only [List.head?_cons, Option.mem_some_iff, forall_eq'] at ha
    simp only [memGet, show ¬ k = a by omega, if_false]
    exact ih h3 fun p hp => Nat.lt_trans ha (h2 p hp)
/-- A byte read after a byte is written (R5). -/
theorem memGet_memSet (m : List Host.Cell) (a x : Nat) (b : Byte) (h : Memory.wf m = true) :
    memGet (memSet m a b) x = if x = a then b else memGet m x := by
  induction m with
  | nil =>
    simp only [memSet]
    split
    · next hb => simp [memGet, hb]
    · simp [memGet, eq_comm]
  | cons q r ih =>
    obtain ⟨k, v⟩ := q
    obtain ⟨-, h2, h3⟩ := (Memory.wf_cons k v r).mp h
    simp only [memSet]
    split
    · next ha =>
      split
      · next hb =>
        by_cases hx : x = a
        · subst hx
          rw [if_pos rfl, hb]
          exact memGet_below _ _ h (by simp [ha])
        · simp [hx]
      · by_cases hx : x = a
        · simp [memGet, hx]
        · simp [memGet, hx, Ne.symm hx]
    · split
      · next ha =>
        subst ha
        split
        · next hb =>
          by_cases hx : x = a
          · subst hx
            rw [if_pos rfl, hb]
            exact memGet_below _ _ h3 h2
          · simp [memGet, hx, Ne.symm hx]
        · by_cases hx : x = a
          · simp [memGet, hx]
          · simp [memGet, hx, Ne.symm hx]
      · next ha1 ha2 =>
        by_cases hk : k = x
        · subst hk
          simp [memGet, Ne.symm ha2]
        · simp [memGet, hk, ih h3]
/-- A byte read after several are written. -/
theorem memGet_memWr (m : List Host.Cell) (a x : Nat) (bs : List Byte) (h : Memory.wf m = true) :
    memGet (memWr m a bs) x = if a ≤ x ∧ x < a + bs.length then bs.getD (x - a) 0 else memGet m x := by
  induction bs generalizing m a with
  | nil => simp only [memWr, List.length_nil]; rw [if_neg (by omega)]
  | cons b r ih =>
    simp only [memWr, List.length_cons]
    rw [ih _ _ (memSet_wf m a b h), memGet_memSet m a x b h]
    by_cases h1 : x = a
    · subst h1
      simp [show ¬ (x + 1 ≤ x) by omega]
    · by_cases h2 : a + 1 ≤ x ∧ x < a + 1 + r.length
      · rw [if_pos h2, if_pos (by omega), show x - a = (x - (a + 1)) + 1 by omega, List.getD_cons_succ]
      · rw [if_neg h2, if_neg h1, if_neg (by omega)]
/-- Bytes read back where they were written. -/
theorem memRd_memWr (m : List Host.Cell) (a : Nat) (bs : List Byte) (h : Memory.wf m = true) :
    memRd (memWr m a bs) a bs.length = bs := by
  apply List.ext_getElem
  · simp [memRd]
  · intro i h1 h2
    simp only [memRd, List.getElem_map, List.getElem_range, memGet_memWr m a _ bs h]
    rw [if_pos (by omega), show a + i - a = i by omega]
    simp [h2]

end Sys2Proof.Machine
end

