-- ==== Sys2Proof/Laws/PerInstr.lean ====
section
/-! SUPPORT. One lemma per constructor: the fields of a well-formed instruction's word give the instruction back. -/
set_option linter.unusedSimpArgs false
namespace Sys2Proof.Laws.Encoding

/-- The word's fields are no header's, are not another spelling, and parse to the instruction (R46, R47, R67). -/
def Statement (i : Instr) : Prop :=
  i.wf = true → ∀ r, i.raw = some r → r.op ≠ 0xFF#8 ∧ r.norm = r ∧ parse r = some i

theorem nop (c : Ctl) : Statement (.nop c) := by
  intro hw rw_ hr
  obtain rfl := Option.some.inj hr
  have pp := OpTab.parts (t := (Instr.nop c).tab.getD default) hw
  have hf : c.fb = false := pp.fb nofun
  refine ⟨by simp [raw3, rawI, rawW], rfl, ?_⟩
  refine Eq.trans (b := some (let rw_ := raw3 0x01 c 448#9 0 0 0 0; .nop rw_.ctl)) rfl ?_
  simp [*]
theorem iaddRegisters (c : Ctl) (d a b : Opnd) (t : IntTy) (sat w : Bool) : Statement (.iaddRegisters c d a b t sat w) := by
  intro hw rw_ hr
  obtain rfl := Option.some.inj hr
  have pp := OpTab.parts (t := (Instr.iaddRegisters c d a b t sat w).tab.getD default) hw
  have hf : c.fb = false := pp.fb nofun
  have ha : Opnd.ok a = true := pp.a
  have hb : Opnd.ok b = true := pp.b
  have hd : Opnd.ok d = true := pp.d
  refine ⟨by simp [raw3, rawI, rawW], rfl, ?_⟩
  refine Eq.trans (b := some (let rw_ := raw3 0x02 c d.code a.code b.code 0 (0#1 ++ (bit w) ++ 0#4 ++ (bit sat) ++ t.code); .iaddRegisters rw_.ctl (.ofCode rw_.dst) (.ofCode rw_.sa) (.ofCode rw_.sb) (.ofCode (fld rw_.md 0 1)) (bitOf rw_.md 1) (bitOf rw_.md 6))) rfl ?_
  simp [*]
theorem iaddImmediate (c : Ctl) (d a : Opnd) (imm : BitVec 17) (t : IntTy) (sat w : Bool) : Statement (.iaddImmediate c d a imm t sat w) := by
  intro hw rw_ hr
  obtain rfl := Option.some.inj hr
  have pp := OpTab.parts (t := (Instr.iaddImmediate c d a imm t sat w).tab.getD default) hw
  have hf : c.fb = false := pp.fb nofun
  have ha : Opnd.ok a = true := pp.a
  have hd : Opnd.ok d = true := pp.d
  refine ⟨by simp [raw3, rawI, rawW], rfl, ?_⟩
  refine Eq.trans (b := some (let rw_ := rawI 0x03 c d.code a.code (0#1 ++ (bit w) ++ 0#4 ++ (bit sat) ++ t.code) imm; .iaddImmediate rw_.ctl (.ofCode rw_.dst) (.ofCode rw_.sa) rw_.tail (.ofCode (fld rw_.mdI 0 1)) (bitOf rw_.mdI 1) (bitOf rw_.mdI 6))) rfl ?_
  simp [*]
theorem isub (c : Ctl) (d a b : Opnd) (t : IntTy) (sat w : Bool) : Statement (.isub c d a b t sat w) := by
  intro hw rw_ hr
  obtain rfl := Option.some.inj hr
  have pp := OpTab.parts (t := (Instr.isub c d a b t sat w).tab.getD default) hw
  have hf : c.fb = false := pp.fb nofun
  have ha : Opnd.ok a = true := pp.a
  have hb : Opnd.ok b = true := pp.b
  have hd : Opnd.ok d = true := pp.d
  refine ⟨by simp [raw3, rawI, rawW], rfl, ?_⟩
  refine Eq.trans (b := some (let rw_ := raw3 0x04 c d.code a.code b.code 0 (0#1 ++ (bit w) ++ 0#4 ++ (bit sat) ++ t.code); .isub rw_.ctl (.ofCode rw_.dst) (.ofCode rw_.sa) (.ofCode rw_.sb) (.ofCode (fld rw_.md 0 1)) (bitOf rw_.md 1) (bitOf rw_.md 6))) rfl ?_
  simp [*]
theorem imulRegisters (c : Ctl) (d a b : Opnd) : Statement (.imulRegisters c d a b) := by
  intro hw rw_ hr
  obtain rfl := Option.some.inj hr
  have pp := OpTab.parts (t := (Instr.imulRegisters c d a b).tab.getD default) hw
  have hf : c.fb = false := pp.fb nofun
  have ha : Opnd.ok a = true := pp.a
  have hb : Opnd.ok b = true := pp.b
  have hd : Opnd.ok d = true := pp.d
  refine ⟨by simp [raw3, rawI, rawW], rfl, ?_⟩
  refine Eq.trans (b := some (let rw_ := raw3 0x05 c d.code a.code b.code 0 0; .imulRegisters rw_.ctl (.ofCode rw_.dst) (.ofCode rw_.sa) (.ofCode rw_.sb))) rfl ?_
  simp [*]
theorem imulImmediate (c : Ctl) (d a : Opnd) (imm : BitVec 17) : Statement (.imulImmediate c d a imm) := by
  intro hw rw_ hr
  obtain rfl := Option.some.inj hr
  have pp := OpTab.parts (t := (Instr.imulImmediate c d a imm).tab.getD default) hw
  have hf : c.fb = false := pp.fb nofun
  have ha : Opnd.ok a = true := pp.a
  have hd : Opnd.ok d = true := pp.d
  refine ⟨by simp [raw3, rawI, rawW], rfl, ?_⟩
  refine Eq.trans (b := some (let rw_ := rawI 0x06 c d.code a.code 0 imm; .imulImmediate rw_.ctl (.ofCode rw_.dst) (.ofCode rw_.sa) rw_.tail)) rfl ?_
  simp [*]
theorem imulh (c : Ctl) (d a b : Opnd) (t : IntTy) : Statement (.imulh c d a b t) := by
  intro hw rw_ hr
  obtain rfl := Option.some.inj hr
  have pp := OpTab.parts (t := (Instr.imulh c d a b t).tab.getD default) hw
  have hf : c.fb = false := pp.fb nofun
  have ha : Opnd.ok a = true := pp.a
  have hb : Opnd.ok b = true := pp.b
  have hd : Opnd.ok d = true := pp.d
  refine ⟨by simp [raw3, rawI, rawW], rfl, ?_⟩
  refine Eq.trans (b := some (let rw_ := raw3 0x07 c d.code a.code b.code 0 (0#7 ++ t.code); .imulh rw_.ctl (.ofCode rw_.dst) (.ofCode rw_.sa) (.ofCode rw_.sb) (.ofCode (fld rw_.md 0 1)))) rfl ?_
  simp [*]
theorem imad (c : Ctl) (d a b e : Opnd) : Statement (.imad c d a b e) := by
  intro hw rw_ hr
  obtain rfl := Option.some.inj hr
  have pp := OpTab.parts (t := (Instr.imad c d a b e).tab.getD default) hw
  have hf : c.fb = false := pp.fb nofun
  have ha : Opnd.ok a = true := pp.a
  have hb : Opnd.ok b = true := pp.b
  have he : Opnd.ok e = true := pp.e
  have hd : Opnd.ok d = true := pp.d
  refine ⟨by simp [raw3, rawI, rawW], rfl, ?_⟩
  refine Eq.trans (b := some (let rw_ := raw3 0x08 c d.code a.code b.code e.code 0; .imad rw_.ctl (.ofCode rw_.dst) (.ofCode rw_.sa) (.ofCode rw_.sb) (.ofCode rw_.sc))) rfl ?_
  simp [*]
theorem imadw (c : Ctl) (d a b e : Opnd) (t : IntTy) : Statement (.imadw c d a b e t) := by
  intro hw rw_ hr
  obtain rfl := Option.some.inj hr
  have pp := OpTab.parts (t := (Instr.imadw c d a b e t).tab.getD default) hw
  have hf : c.fb = false := pp.fb nofun
  have ha : Opnd.ok a = true := pp.a
  have hb : Opnd.ok b = true := pp.b
  have he : Opnd.ok e = true := pp.e
  have hd : Opnd.ok d = true := pp.d
  refine ⟨by simp [raw3, rawI, rawW], rfl, ?_⟩
  refine Eq.trans (b := some (let rw_ := raw3 0x09 c d.code a.code b.code e.code (0#7 ++ t.code); .imadw rw_.ctl (.ofCode rw_.dst) (.ofCode rw_.sa) (.ofCode rw_.sb) (.ofCode rw_.sc) (.ofCode (fld rw_.md 0 1)))) rfl ?_
  simp [*]
theorem idiv (c : Ctl) (d a b : Opnd) (t : IntTy) : Statement (.idiv c d a b t) := by
  intro hw rw_ hr
  obtain rfl := Option.some.inj hr
  have pp := OpTab.parts (t := (Instr.idiv c d a b t).tab.getD default) hw
  have hf : c.fb = false := pp.fb nofun
  have ha : Opnd.ok a = true := pp.a
  have hb : Opnd.ok b = true := pp.b
  have hd : Opnd.ok d = true := pp.d
  refine ⟨by simp [raw3, rawI, rawW], rfl, ?_⟩
  refine Eq.trans (b := some (let rw_ := raw3 0x0A c d.code a.code b.code 0 (0#7 ++ t.code); .idiv rw_.ctl (.ofCode rw_.dst) (.ofCode rw_.sa) (.ofCode rw_.sb) (.ofCode (fld rw_.md 0 1)))) rfl ?_
  simp [*]
theorem irem (c : Ctl) (d a b : Opnd) (t : IntTy) : Statement (.irem c d a b t) := by
  intro hw rw_ hr
  obtain rfl := Option.some.inj hr
  have pp := OpTab.parts (t := (Instr.irem c d a b t).tab.getD default) hw
  have hf : c.fb = false := pp.fb nofun
  have ha : Opnd.ok a = true := pp.a
  have hb : Opnd.ok b = true := pp.b
  have hd : Opnd.ok d = true := pp.d
  refine ⟨by simp [raw3, rawI, rawW], rfl, ?_⟩
  refine Eq.trans (b := some (let rw_ := raw3 0x0B c d.code a.code b.code 0 (0#7 ++ t.code); .irem rw_.ctl (.ofCode rw_.dst) (.ofCode rw_.sa) (.ofCode rw_.sb) (.ofCode (fld rw_.md 0 1)))) rfl ?_
  simp [*]
theorem imin (c : Ctl) (d a b : Opnd) (t : IntTy) : Statement (.imin c d a b t) := by
  intro hw rw_ hr
  obtain rfl := Option.some.inj hr
  have pp := OpTab.parts (t := (Instr.imin c d a b t).tab.getD default) hw
  have hf : c.fb = false := pp.fb nofun
  have ha : Opnd.ok a = true := pp.a
  have hb : Opnd.ok b = true := pp.b
  have hd : Opnd.ok d = true := pp.d
  refine ⟨by simp [raw3, rawI, rawW], rfl, ?_⟩
  refine Eq.trans (b := some (let rw_ := raw3 0x0C c d.code a.code b.code 0 (0#7 ++ t.code); .imin rw_.ctl (.ofCode rw_.dst) (.ofCode rw_.sa) (.ofCode rw_.sb) (.ofCode (fld rw_.md 0 1)))) rfl ?_
  simp [*]
theorem imax (c : Ctl) (d a b : Opnd) (t : IntTy) : Statement (.imax c d a b t) := by
  intro hw rw_ hr
  obtain rfl := Option.some.inj hr
  have pp := OpTab.parts (t := (Instr.imax c d a b t).tab.getD default) hw
  have hf : c.fb = false := pp.fb nofun
  have ha : Opnd.ok a = true := pp.a
  have hb : Opnd.ok b = true := pp.b
  have hd : Opnd.ok d = true := pp.d
  refine ⟨by simp [raw3, rawI, rawW], rfl, ?_⟩
  refine Eq.trans (b := some (let rw_ := raw3 0x0D c d.code a.code b.code 0 (0#7 ++ t.code); .imax rw_.ctl (.ofCode rw_.dst) (.ofCode rw_.sa) (.ofCode rw_.sb) (.ofCode (fld rw_.md 0 1)))) rfl ?_
  simp [*]
theorem iabs (c : Ctl) (d a : Opnd) (sat : Bool) : Statement (.iabs c d a sat) := by
  intro hw rw_ hr
  obtain rfl := Option.some.inj hr
  have pp := OpTab.parts (t := (Instr.iabs c d a sat).tab.getD default) hw
  have hf : c.fb = false := pp.fb nofun
  have ha : Opnd.ok a = true := pp.a
  have hd : Opnd.ok d = true := pp.d
  refine ⟨by simp [raw3, rawI, rawW], rfl, ?_⟩
  refine Eq.trans (b := some (let rw_ := raw3 0x0E c d.code a.code 0 0 (0#6 ++ (bit sat) ++ 0#1); .iabs rw_.ctl (.ofCode rw_.dst) (.ofCode rw_.sa) (bitOf rw_.md 1))) rfl ?_
  simp [*]
theorem isad (c : Ctl) (d a b e : Opnd) (t : IntTy) : Statement (.isad c d a b e t) := by
  intro hw rw_ hr
  obtain rfl := Option.some.inj hr
  have pp := OpTab.parts (t := (Instr.isad c d a b e t).tab.getD default) hw
  have hf : c.fb = false := pp.fb nofun
  have ha : Opnd.ok a = true := pp.a
  have hb : Opnd.ok b = true := pp.b
  have he : Opnd.ok e = true := pp.e
  have hd : Opnd.ok d = true := pp.d
  refine ⟨by simp [raw3, rawI, rawW], rfl, ?_⟩
  refine Eq.trans (b := some (let rw_ := raw3 0x0F c d.code a.code b.code e.code (0#7 ++ t.code); .isad rw_.ctl (.ofCode rw_.dst) (.ofCode rw_.sa) (.ofCode rw_.sb) (.ofCode rw_.sc) (.ofCode (fld rw_.md 0 1)))) rfl ?_
  simp [*]
theorem shlRegisters (c : Ctl) (d a b : Opnd) : Statement (.shlRegisters c d a b) := by
  intro hw rw_ hr
  obtain rfl := Option.some.inj hr
  have pp := OpTab.parts (t := (Instr.shlRegisters c d a b).tab.getD default) hw
  have hf : c.fb = false := pp.fb nofun
  have ha : Opnd.ok a = true := pp.a
  have hb : Opnd.ok b = true := pp.b
  have hd : Opnd.ok d = true := pp.d
  refine ⟨by simp [raw3, rawI, rawW], rfl, ?_⟩
  refine Eq.trans (b := some (let rw_ := raw3 0x10 c d.code a.code b.code 0 0; .shlRegisters rw_.ctl (.ofCode rw_.dst) (.ofCode rw_.sa) (.ofCode rw_.sb))) rfl ?_
  simp [*]
theorem shlImmediate (c : Ctl) (d a : Opnd) (n : BitVec 5) : Statement (.shlImmediate c d a n) := by
  intro hw rw_ hr
  obtain rfl := Option.some.inj hr
  have pp := OpTab.parts (t := (Instr.shlImmediate c d a n).tab.getD default) hw
  have hf : c.fb = false := pp.fb nofun
  have ha : Opnd.ok a = true := pp.a
  have hd : Opnd.ok d = true := pp.d
  refine ⟨by simp [raw3, rawI, rawW], rfl, ?_⟩
  refine Eq.trans (b := some (let rw_ := rawI 0x11 c d.code a.code 0 (0#12 ++ n); .shlImmediate rw_.ctl (.ofCode rw_.dst) (.ofCode rw_.sa) (fld rw_.tail 0 5))) rfl ?_
  simp [*]
theorem shrRegisters (c : Ctl) (d a b : Opnd) : Statement (.shrRegisters c d a b) := by
  intro hw rw_ hr
  obtain rfl := Option.some.inj hr
  have pp := OpTab.parts (t := (Instr.shrRegisters c d a b).tab.getD default) hw
  have hf : c.fb = false := pp.fb nofun
  have ha : Opnd.ok a = true := pp.a
  have hb : Opnd.ok b = true := pp.b
  have hd : Opnd.ok d = true := pp.d
  refine ⟨by simp [raw3, rawI, rawW], rfl, ?_⟩
  refine Eq.trans (b := some (let rw_ := raw3 0x12 c d.code a.code b.code 0 0; .shrRegisters rw_.ctl (.ofCode rw_.dst) (.ofCode rw_.sa) (.ofCode rw_.sb))) rfl ?_
  simp [*]
theorem shrImmediate (c : Ctl) (d a : Opnd) (n : BitVec 5) : Statement (.shrImmediate c d a n) := by
  intro hw rw_ hr
  obtain rfl := Option.some.inj hr
  have pp := OpTab.parts (t := (Instr.shrImmediate c d a n).tab.getD default) hw
  have hf : c.fb = false := pp.fb nofun
  have ha : Opnd.ok a = true := pp.a
  have hd : Opnd.ok d = true := pp.d
  refine ⟨by simp [raw3, rawI, rawW], rfl, ?_⟩
  refine Eq.trans (b := some (let rw_ := rawI 0x13 c d.code a.code 0 (0#12 ++ n); .shrImmediate rw_.ctl (.ofCode rw_.dst) (.ofCode rw_.sa) (fld rw_.tail 0 5))) rfl ?_
  simp [*]
theorem sraRegisters (c : Ctl) (d a b : Opnd) : Statement (.sraRegisters c d a b) := by
  intro hw rw_ hr
  obtain rfl := Option.some.inj hr
  have pp := OpTab.parts (t := (Instr.sraRegisters c d a b).tab.getD default) hw
  have hf : c.fb = false := pp.fb nofun
  have ha : Opnd.ok a = true := pp.a
  have hb : Opnd.ok b = true := pp.b
  have hd : Opnd.ok d = true := pp.d
  refine ⟨by simp [raw3, rawI, rawW], rfl, ?_⟩
  refine Eq.trans (b := some (let rw_ := raw3 0x14 c d.code a.code b.code 0 0; .sraRegisters rw_.ctl (.ofCode rw_.dst) (.ofCode rw_.sa) (.ofCode rw_.sb))) rfl ?_
  simp [*]
theorem sraImmediate (c : Ctl) (d a : Opnd) (n : BitVec 5) : Statement (.sraImmediate c d a n) := by
  intro hw rw_ hr
  obtain rfl := Option.some.inj hr
  have pp := OpTab.parts (t := (Instr.sraImmediate c d a n).tab.getD default) hw
  have hf : c.fb = false := pp.fb nofun
  have ha : Opnd.ok a = true := pp.a
  have hd : Opnd.ok d = true := pp.d
  refine ⟨by simp [raw3, rawI, rawW], rfl, ?_⟩
  refine Eq.trans (b := some (let rw_ := rawI 0x15 c d.code a.code 0 (0#12 ++ n); .sraImmediate rw_.ctl (.ofCode rw_.dst) (.ofCode rw_.sa) (fld rw_.tail 0 5))) rfl ?_
  simp [*]
theorem shf (c : Ctl) (d a b e : Opnd) (right : Bool) : Statement (.shf c d a b e right) := by
  intro hw rw_ hr
  obtain rfl := Option.some.inj hr
  have pp := OpTab.parts (t := (Instr.shf c d a b e right).tab.getD default) hw
  have hf : c.fb = false := pp.fb nofun
  have ha : Opnd.ok a = true := pp.a
  have hb : Opnd.ok b = true := pp.b
  have he : Opnd.ok e = true := pp.e
  have hd : Opnd.ok d = true := pp.d
  refine ⟨by simp [raw3, rawI, rawW], rfl, ?_⟩
  refine Eq.trans (b := some (let rw_ := raw3 0x16 c d.code a.code b.code e.code (0#7 ++ (bit right)); .shf rw_.ctl (.ofCode rw_.dst) (.ofCode rw_.sa) (.ofCode rw_.sb) (.ofCode rw_.sc) (bitOf rw_.md 0))) rfl ?_
  simp [*]
theorem rot (c : Ctl) (d a b : Opnd) (right : Bool) : Statement (.rot c d a b right) := by
  intro hw rw_ hr
  obtain rfl := Option.some.inj hr
  have pp := OpTab.parts (t := (Instr.rot c d a b right).tab.getD default) hw
  have hf : c.fb = false := pp.fb nofun
  have ha : Opnd.ok a = true := pp.a
  have hb : Opnd.ok b = true := pp.b
  have hd : Opnd.ok d = true := pp.d
  refine ⟨by simp [raw3, rawI, rawW], rfl, ?_⟩
  refine Eq.trans (b := some (let rw_ := raw3 0x17 c d.code a.code b.code 0 (0#7 ++ (bit right)); .rot rw_.ctl (.ofCode rw_.dst) (.ofCode rw_.sa) (.ofCode rw_.sb) (bitOf rw_.md 0))) rfl ?_
  simp [*]
theorem andRegisters (c : Ctl) (d a b : Opnd) : Statement (.andRegisters c d a b) := by
  intro hw rw_ hr
  obtain rfl := Option.some.inj hr
  have pp := OpTab.parts (t := (Instr.andRegisters c d a b).tab.getD default) hw
  have hf : c.fb = false := pp.fb nofun
  have ha : Opnd.ok a = true := pp.a
  have hb : Opnd.ok b = true := pp.b
  have hd : Opnd.ok d = true := pp.d
  refine ⟨by simp [raw3, rawI, rawW], rfl, ?_⟩
  refine Eq.trans (b := some (let rw_ := raw3 0x18 c d.code a.code b.code 0 0; .andRegisters rw_.ctl (.ofCode rw_.dst) (.ofCode rw_.sa) (.ofCode rw_.sb))) rfl ?_
  simp [*]
theorem andImmediate (c : Ctl) (d a : Opnd) (imm : BitVec 17) : Statement (.andImmediate c d a imm) := by
  intro hw rw_ hr
  obtain rfl := Option.some.inj hr
  have pp := OpTab.parts (t := (Instr.andImmediate c d a imm).tab.getD default) hw
  have hf : c.fb = false := pp.fb nofun
  have ha : Opnd.ok a = true := pp.a
  have hd : Opnd.ok d = true := pp.d
  refine ⟨by simp [raw3, rawI, rawW], rfl, ?_⟩
  refine Eq.trans (b := some (let rw_ := rawI 0x19 c d.code a.code 0 imm; .andImmediate rw_.ctl (.ofCode rw_.dst) (.ofCode rw_.sa) rw_.tail)) rfl ?_
  simp [*]
theorem orRegisters (c : Ctl) (d a b : Opnd) : Statement (.orRegisters c d a b) := by
  intro hw rw_ hr
  obtain rfl := Option.some.inj hr
  have pp := OpTab.parts (t := (Instr.orRegisters c d a b).tab.getD default) hw
  have hf : c.fb = false := pp.fb nofun
  have ha : Opnd.ok a = true := pp.a
  have hb : Opnd.ok b = true := pp.b
  have hd : Opnd.ok d = true := pp.d
  refine ⟨by simp [raw3, rawI, rawW], rfl, ?_⟩
  refine Eq.trans (b := some (let rw_ := raw3 0x1A c d.code a.code b.code 0 0; .orRegisters rw_.ctl (.ofCode rw_.dst) (.ofCode rw_.sa) (.ofCode rw_.sb))) rfl ?_
  simp [*]
theorem orImmediate (c : Ctl) (d a : Opnd) (imm : BitVec 17) : Statement (.orImmediate c d a imm) := by
  intro hw rw_ hr
  obtain rfl := Option.some.inj hr
  have pp := OpTab.parts (t := (Instr.orImmediate c d a imm).tab.getD default) hw
  have hf : c.fb = false := pp.fb nofun
  have ha : Opnd.ok a = true := pp.a
  have hd : Opnd.ok d = true := pp.d
  refine ⟨by simp [raw3, rawI, rawW], rfl, ?_⟩
  refine Eq.trans (b := some (let rw_ := rawI 0x1B c d.code a.code 0 imm; .orImmediate rw_.ctl (.ofCode rw_.dst) (.ofCode rw_.sa) rw_.tail)) rfl ?_
  simp [*]
theorem xorRegisters (c : Ctl) (d a b : Opnd) : Statement (.xorRegisters c d a b) := by
  intro hw rw_ hr
  obtain rfl := Option.some.inj hr
  have pp := OpTab.parts (t := (Instr.xorRegisters c d a b).tab.getD default) hw
  have hf : c.fb = false := pp.fb nofun
  have ha : Opnd.ok a = true := pp.a
  have hb : Opnd.ok b = true := pp.b
  have hd : Opnd.ok d = true := pp.d
  refine ⟨by simp [raw3, rawI, rawW], rfl, ?_⟩
  refine Eq.trans (b := some (let rw_ := raw3 0x1C c d.code a.code b.code 0 0; .xorRegisters rw_.ctl (.ofCode rw_.dst) (.ofCode rw_.sa) (.ofCode rw_.sb))) rfl ?_
  simp [*]
theorem xorImmediate (c : Ctl) (d a : Opnd) (imm : BitVec 17) : Statement (.xorImmediate c d a imm) := by
  intro hw rw_ hr
  obtain rfl := Option.some.inj hr
  have pp := OpTab.parts (t := (Instr.xorImmediate c d a imm).tab.getD default) hw
  have hf : c.fb = false := pp.fb nofun
  have ha : Opnd.ok a = true := pp.a
  have hd : Opnd.ok d = true := pp.d
  refine ⟨by simp [raw3, rawI, rawW], rfl, ?_⟩
  refine Eq.trans (b := some (let rw_ := rawI 0x1D c d.code a.code 0 imm; .xorImmediate rw_.ctl (.ofCode rw_.dst) (.ofCode rw_.sa) rw_.tail)) rfl ?_
  simp [*]
theorem bool3 (c : Ctl) (d a b e : Opnd) (g0 g1 : BitVec 4) : Statement (.bool3 c d a b e g0 g1) := by
  intro hw rw_ hr
  obtain rfl := Option.some.inj hr
  have pp := OpTab.parts (t := (Instr.bool3 c d a b e g0 g1).tab.getD default) hw
  have hf : c.fb = false := pp.fb nofun
  have ha : Opnd.ok a = true := pp.a
  have hb : Opnd.ok b = true := pp.b
  have he : Opnd.ok e = true := pp.e
  have hd : Opnd.ok d = true := pp.d
  refine ⟨by simp [raw3, rawI, rawW], rfl, ?_⟩
  refine Eq.trans (b := some (let rw_ := raw3 0x1E c d.code a.code b.code e.code (g0 ++ g1); .bool3 rw_.ctl (.ofCode rw_.dst) (.ofCode rw_.sa) (.ofCode rw_.sb) (.ofCode rw_.sc) (fld rw_.md 4 4) (fld rw_.md 0 4))) rfl ?_
  simp [*]
theorem popc (c : Ctl) (d a : Opnd) : Statement (.popc c d a) := by
  intro hw rw_ hr
  obtain rfl := Option.some.inj hr
  have pp := OpTab.parts (t := (Instr.popc c d a).tab.getD default) hw
  have hf : c.fb = false := pp.fb nofun
  have ha : Opnd.ok a = true := pp.a
  have hd : Opnd.ok d = true := pp.d
  refine ⟨by simp [raw3, rawI, rawW], rfl, ?_⟩
  refine Eq.trans (b := some (let rw_ := raw3 0x1F c d.code a.code 0 0 0; .popc rw_.ctl (.ofCode rw_.dst) (.ofCode rw_.sa))) rfl ?_
  simp [*]
theorem clz (c : Ctl) (d a : Opnd) : Statement (.clz c d a) := by
  intro hw rw_ hr
  obtain rfl := Option.some.inj hr
  have pp := OpTab.parts (t := (Instr.clz c d a).tab.getD default) hw
  have hf : c.fb = false := pp.fb nofun
  have ha : Opnd.ok a = true := pp.a
  have hd : Opnd.ok d = true := pp.d
  refine ⟨by simp [raw3, rawI, rawW], rfl, ?_⟩
  refine Eq.trans (b := some (let rw_ := raw3 0x20 c d.code a.code 0 0 0; .clz rw_.ctl (.ofCode rw_.dst) (.ofCode rw_.sa))) rfl ?_
  simp [*]
theorem ctz (c : Ctl) (d a : Opnd) : Statement (.ctz c d a) := by
  intro hw rw_ hr
  obtain rfl := Option.some.inj hr
  have pp := OpTab.parts (t := (Instr.ctz c d a).tab.getD default) hw
  have hf : c.fb = false := pp.fb nofun
  have ha : Opnd.ok a = true := pp.a
  have hd : Opnd.ok d = true := pp.d
  refine ⟨by simp [raw3, rawI, rawW], rfl, ?_⟩
  refine Eq.trans (b := some (let rw_ := raw3 0x21 c d.code a.code 0 0 0; .ctz rw_.ctl (.ofCode rw_.dst) (.ofCode rw_.sa))) rfl ?_
  simp [*]
theorem brev (c : Ctl) (d a : Opnd) : Statement (.brev c d a) := by
  intro hw rw_ hr
  obtain rfl := Option.some.inj hr
  have pp := OpTab.parts (t := (Instr.brev c d a).tab.getD default) hw
  have hf : c.fb = false := pp.fb nofun
  have ha : Opnd.ok a = true := pp.a
  have hd : Opnd.ok d = true := pp.d
  refine ⟨by simp [raw3, rawI, rawW], rfl, ?_⟩
  refine Eq.trans (b := some (let rw_ := raw3 0x22 c d.code a.code 0 0 0; .brev rw_.ctl (.ofCode rw_.dst) (.ofCode rw_.sa))) rfl ?_
  simp [*]
theorem bfx (c : Ctl) (d a b e : Opnd) (t : IntTy) : Statement (.bfx c d a b e t) := by
  intro hw rw_ hr
  obtain rfl := Option.some.inj hr
  have pp := OpTab.parts (t := (Instr.bfx c d a b e t).tab.getD default) hw
  have hf : c.fb = false := pp.fb nofun
  have ha : Opnd.ok a = true := pp.a
  have hb : Opnd.ok b = true := pp.b
  have he : Opnd.ok e = true := pp.e
  have hd : Opnd.ok d = true := pp.d
  refine ⟨by simp [raw3, rawI, rawW], rfl, ?_⟩
  refine Eq.trans (b := some (let rw_ := raw3 0x23 c d.code a.code b.code e.code (0#7 ++ t.code); .bfx rw_.ctl (.ofCode rw_.dst) (.ofCode rw_.sa) (.ofCode rw_.sb) (.ofCode rw_.sc) (.ofCode (fld rw_.md 0 1)))) rfl ?_
  simp [*]
theorem bfi (c : Ctl) (d a b e : Opnd) : Statement (.bfi c d a b e) := by
  intro hw rw_ hr
  obtain rfl := Option.some.inj hr
  have pp := OpTab.parts (t := (Instr.bfi c d a b e).tab.getD default) hw
  have hf : c.fb = false := pp.fb nofun
  have ha : Opnd.ok a = true := pp.a
  have hb : Opnd.ok b = true := pp.b
  have he : Opnd.ok e = true := pp.e
  have hd : Opnd.ok d = true := pp.d
  refine ⟨by simp [raw3, rawI, rawW], rfl, ?_⟩
  refine Eq.trans (b := some (let rw_ := raw3 0x24 c d.code a.code b.code e.code 0; .bfi rw_.ctl (.ofCode rw_.dst) (.ofCode rw_.sa) (.ofCode rw_.sb) (.ofCode rw_.sc))) rfl ?_
  simp [*]
theorem bshuf (c : Ctl) (d a b e : Opnd) : Statement (.bshuf c d a b e) := by
  intro hw rw_ hr
  obtain rfl := Option.some.inj hr
  have pp := OpTab.parts (t := (Instr.bshuf c d a b e).tab.getD default) hw
  have hf : c.fb = false := pp.fb nofun
  have ha : Opnd.ok a = true := pp.a
  have hb : Opnd.ok b = true := pp.b
  have he : Opnd.ok e = true := pp.e
  have hd : Opnd.ok d = true := pp.d
  refine ⟨by simp [raw3, rawI, rawW], rfl, ?_⟩
  refine Eq.trans (b := some (let rw_ := raw3 0x25 c d.code a.code b.code e.code 0; .bshuf rw_.ctl (.ofCode rw_.dst) (.ofCode rw_.sa) (.ofCode rw_.sb) (.ofCode rw_.sc))) rfl ?_
  simp [*]
theorem leaRegisters (c : Ctl) (d a b e : Opnd) (n : BitVec 5) : Statement (.leaRegisters c d a b e n) := by
  intro hw rw_ hr
  obtain rfl := Option.some.inj hr
  have pp := OpTab.parts (t := (Instr.leaRegisters c d a b e n).tab.getD default) hw
  have hf : c.fb = false := pp.fb nofun
  have ha : Opnd.ok a = true := pp.a
  have hb : Opnd.ok b = true := pp.b
  have he : Opnd.ok e = true := pp.e
  have hd : Opnd.ok d = true := pp.d
  refine ⟨by simp [raw3, rawI, rawW], rfl, ?_⟩
  refine Eq.trans (b := some (let rw_ := raw3 0x26 c d.code a.code b.code e.code (0#3 ++ n); .leaRegisters rw_.ctl (.ofCode rw_.dst) (.ofCode rw_.sa) (.ofCode rw_.sb) (.ofCode rw_.sc) (fld rw_.md 0 5))) rfl ?_
  simp [*]
theorem leaImmediate (c : Ctl) (d a : Opnd) (imm : BitVec 17) (n : BitVec 5) : Statement (.leaImmediate c d a imm n) := by
  intro hw rw_ hr
  obtain rfl := Option.some.inj hr
  have pp := OpTab.parts (t := (Instr.leaImmediate c d a imm n).tab.getD default) hw
  have hf : c.fb = false := pp.fb nofun
  have ha : Opnd.ok a = true := pp.a
  have hd : Opnd.ok d = true := pp.d
  refine ⟨by simp [raw3, rawI, rawW], rfl, ?_⟩
  refine Eq.trans (b := some (let rw_ := rawI 0x27 c d.code a.code (0#3 ++ n) imm; .leaImmediate rw_.ctl (.ofCode rw_.dst) (.ofCode rw_.sa) rw_.tail (fld rw_.mdI 0 5))) rfl ?_
  simp [*]
theorem mov (c : Ctl) (d a : Opnd) (w : Bool) : Statement (.mov c d a w) := by
  intro hw rw_ hr
  obtain rfl := Option.some.inj hr
  have pp := OpTab.parts (t := (Instr.mov c d a w).tab.getD default) hw
  have hf : c.fb = false := pp.fb nofun
  have ha : Opnd.ok a = true := pp.a
  have hd : Opnd.ok d = true := pp.d
  refine ⟨by simp [raw3, rawI, rawW], rfl, ?_⟩
  refine Eq.trans (b := some (let rw_ := raw3 0x28 c d.code a.code 0 0 (0#1 ++ (bit w) ++ 0#6); .mov rw_.ctl (.ofCode rw_.dst) (.ofCode rw_.sa) (bitOf rw_.md 6))) rfl ?_
  simp [*]
theorem movi (c : Ctl) (d : Opnd) (m : MoviMode) : Statement (.movi c d m) := by
  cases m with
  | const k =>
    intro hw rw_ hr
    obtain rfl := Option.some.inj hr
    have pp := OpTab.parts (t := (Instr.movi c d (.const k)).tab.getD default) hw
    have hf : c.fb = false := pp.fb nofun
    have hd : Opnd.ok d = true := pp.d
    refine ⟨by simp [raw3, rawI, rawW], rfl, ?_⟩
    refine Eq.trans (b := some (let rw_ := rawW 0x29 c d.code ((.const k) : MoviMode).saCode ((.const k) : MoviMode).imm; .movi rw_.ctl (.ofCode rw_.dst) (.ofRaw rw_))) rfl ?_
    simp [*, MoviMode.ofRaw, MoviMode.saCode, MoviMode.imm, SmoviMode.ofRaw, SmoviMode.saCode, SmoviMode.imm, PDst.code, PDst.isPred, optCode, optSCode] <;> decide
  | ins x k =>
    intro hw rw_ hr
    obtain rfl := Option.some.inj hr
    have pp := OpTab.parts (t := (Instr.movi c d (.ins x k)).tab.getD default) hw
    have hf : c.fb = false := pp.fb nofun
    have ha : Opnd.ok x = true := pp.a
    have hd : Opnd.ok d = true := pp.d
    refine ⟨by simp [raw3, rawI, rawW], rfl, ?_⟩
    refine Eq.trans (b := some (let rw_ := rawW 0x29 c d.code ((.ins x k) : MoviMode).saCode ((.ins x k) : MoviMode).imm; .movi rw_.ctl (.ofCode rw_.dst) (.ofRaw rw_))) rfl ?_
    simp [*, MoviMode.ofRaw, MoviMode.saCode, MoviMode.imm, SmoviMode.ofRaw, SmoviMode.saCode, SmoviMode.imm, PDst.code, PDst.isPred, optCode, optSCode] <;> decide
theorem sel (c : Ctl) (d a b : Opnd) (p : BitVec 3) (neg w : Bool) : Statement (.sel c d a b p neg w) := by
  intro hw rw_ hr
  obtain rfl := Option.some.inj hr
  have pp := OpTab.parts (t := (Instr.sel c d a b p neg w).tab.getD default) hw
  have hf : c.fb = false := pp.fb nofun
  have ha : Opnd.ok a = true := pp.a
  have hb : Opnd.ok b = true := pp.b
  have hd : Opnd.ok d = true := pp.d
  refine ⟨by simp [raw3, rawI, rawW], rfl, ?_⟩
  refine Eq.trans (b := some (let rw_ := raw3 0x2A c d.code a.code b.code 0 (0#1 ++ (bit w) ++ 0#2 ++ (bit neg) ++ p); .sel rw_.ctl (.ofCode rw_.dst) (.ofCode rw_.sa) (.ofCode rw_.sb) (fld rw_.md 0 3) (bitOf rw_.md 3) (bitOf rw_.md 6))) rfl ?_
  simp [*]
theorem saddRegisters (c : Ctl) (d a b : Nat) : Statement (.saddRegisters c d a b) := by
  intro hw rw_ hr
  obtain rfl := Option.some.inj hr
  have pp := OpTab.parts (t := (Instr.saddRegisters c d a b).tab.getD default) hw
  have hf : c.fb = false := pp.fb nofun
  have ho : (scOk ([d] ++ [a, b])) = true := pp.ok
  simp [scOk] at ho
  have hd9 : d < 512 := by omega
  have ha9 : a < 512 := by omega
  have hb9 : b < 512 := by omega
  refine ⟨by simp [raw3, rawI, rawW], rfl, ?_⟩
  refine Eq.trans (b := some (let rw_ := raw3 0x2B c (.ofNat 9 d) (.ofNat 9 a) (.ofNat 9 b) 0 0; .saddRegisters rw_.ctl rw_.dst.toNat rw_.sa.toNat rw_.sb.toNat)) rfl ?_
  simp [*]
theorem saddImmediate (c : Ctl) (d a : Nat) (imm : BitVec 17) : Statement (.saddImmediate c d a imm) := by
  intro hw rw_ hr
  obtain rfl := Option.some.inj hr
  have pp := OpTab.parts (t := (Instr.saddImmediate c d a imm).tab.getD default) hw
  have hf : c.fb = false := pp.fb nofun
  have ho : (scOk ([d] ++ [a])) = true := pp.ok
  simp [scOk] at ho
  have hd9 : d < 512 := by omega
  have ha9 : a < 512 := by omega
  refine ⟨by simp [raw3, rawI, rawW], rfl, ?_⟩
  refine Eq.trans (b := some (let rw_ := rawI 0x2C c (.ofNat 9 d) (.ofNat 9 a) 0 imm; .saddImmediate rw_.ctl rw_.dst.toNat rw_.sa.toNat rw_.tail)) rfl ?_
  simp [*]
theorem ssub (c : Ctl) (d a b : Nat) : Statement (.ssub c d a b) := by
  intro hw rw_ hr
  obtain rfl := Option.some.inj hr
  have pp := OpTab.parts (t := (Instr.ssub c d a b).tab.getD default) hw
  have hf : c.fb = false := pp.fb nofun
  have ho : (scOk ([d] ++ [a, b])) = true := pp.ok
  simp [scOk] at ho
  have hd9 : d < 512 := by omega
  have ha9 : a < 512 := by omega
  have hb9 : b < 512 := by omega
  refine ⟨by simp [raw3, rawI, rawW], rfl, ?_⟩
  refine Eq.trans (b := some (let rw_ := raw3 0x2D c (.ofNat 9 d) (.ofNat 9 a) (.ofNat 9 b) 0 0; .ssub rw_.ctl rw_.dst.toNat rw_.sa.toNat rw_.sb.toNat)) rfl ?_
  simp [*]
theorem smul (c : Ctl) (d a b : Nat) : Statement (.smul c d a b) := by
  intro hw rw_ hr
  obtain rfl := Option.some.inj hr
  have pp := OpTab.parts (t := (Instr.smul c d a b).tab.getD default) hw
  have hf : c.fb = false := pp.fb nofun
  have ho : (scOk ([d] ++ [a, b])) = true := pp.ok
  simp [scOk] at ho
  have hd9 : d < 512 := by omega
  have ha9 : a < 512 := by omega
  have hb9 : b < 512 := by omega
  refine ⟨by simp [raw3, rawI, rawW], rfl, ?_⟩
  refine Eq.trans (b := some (let rw_ := raw3 0x2E c (.ofNat 9 d) (.ofNat 9 a) (.ofNat 9 b) 0 0; .smul rw_.ctl rw_.dst.toNat rw_.sa.toNat rw_.sb.toNat)) rfl ?_
  simp [*]
theorem smulh (c : Ctl) (d a b : Nat) (t : IntTy) : Statement (.smulh c d a b t) := by
  intro hw rw_ hr
  obtain rfl := Option.some.inj hr
  have pp := OpTab.parts (t := (Instr.smulh c d a b t).tab.getD default) hw
  have hf : c.fb = false := pp.fb nofun
  have ho : (scOk ([d] ++ [a, b])) = true := pp.ok
  simp [scOk] at ho
  have hd9 : d < 512 := by omega
  have ha9 : a < 512 := by omega
  have hb9 : b < 512 := by omega
  refine ⟨by simp [raw3, rawI, rawW], rfl, ?_⟩
  refine Eq.trans (b := some (let rw_ := raw3 0x2F c (.ofNat 9 d) (.ofNat 9 a) (.ofNat 9 b) 0 (0#7 ++ t.code); .smulh rw_.ctl rw_.dst.toNat rw_.sa.toNat rw_.sb.toNat (.ofCode (fld rw_.md 0 1)))) rfl ?_
  simp [*]
theorem sandRegisters (c : Ctl) (d a b : Nat) : Statement (.sandRegisters c d a b) := by
  intro hw rw_ hr
  obtain rfl := Option.some.inj hr
  have pp := OpTab.parts (t := (Instr.sandRegisters c d a b).tab.getD default) hw
  have hf : c.fb = false := pp.fb nofun
  have ho : (scOk ([d] ++ [a, b])) = true := pp.ok
  simp [scOk] at ho
  have hd9 : d < 512 := by omega
  have ha9 : a < 512 := by omega
  have hb9 : b < 512 := by omega
  refine ⟨by simp [raw3, rawI, rawW], rfl, ?_⟩
  refine Eq.trans (b := some (let rw_ := raw3 0x30 c (.ofNat 9 d) (.ofNat 9 a) (.ofNat 9 b) 0 0; .sandRegisters rw_.ctl rw_.dst.toNat rw_.sa.toNat rw_.sb.toNat)) rfl ?_
  simp [*]
theorem sandImmediate (c : Ctl) (d a : Nat) (imm : BitVec 17) : Statement (.sandImmediate c d a imm) := by
  intro hw rw_ hr
  obtain rfl := Option.some.inj hr
  have pp := OpTab.parts (t := (Instr.sandImmediate c d a imm).tab.getD default) hw
  have hf : c.fb = false := pp.fb nofun
  have ho : (scOk ([d] ++ [a])) = true := pp.ok
  simp [scOk] at ho
  have hd9 : d < 512 := by omega
  have ha9 : a < 512 := by omega
  refine ⟨by simp [raw3, rawI, rawW], rfl, ?_⟩
  refine Eq.trans (b := some (let rw_ := rawI 0x31 c (.ofNat 9 d) (.ofNat 9 a) 0 imm; .sandImmediate rw_.ctl rw_.dst.toNat rw_.sa.toNat rw_.tail)) rfl ?_
  simp [*]
theorem sor (c : Ctl) (d a b : Nat) : Statement (.sor c d a b) := by
  intro hw rw_ hr
  obtain rfl := Option.some.inj hr
  have pp := OpTab.parts (t := (Instr.sor c d a b).tab.getD default) hw
  have hf : c.fb = false := pp.fb nofun
  have ho : (scOk ([d] ++ [a, b])) = true := pp.ok
  simp [scOk] at ho
  have hd9 : d < 512 := by omega
  have ha9 : a < 512 := by omega
  have hb9 : b < 512 := by omega
  refine ⟨by simp [raw3, rawI, rawW], rfl, ?_⟩
  refine Eq.trans (b := some (let rw_ := raw3 0x32 c (.ofNat 9 d) (.ofNat 9 a) (.ofNat 9 b) 0 0; .sor rw_.ctl rw_.dst.toNat rw_.sa.toNat rw_.sb.toNat)) rfl ?_
  simp [*]
theorem sxor (c : Ctl) (d a b : Nat) : Statement (.sxor c d a b) := by
  intro hw rw_ hr
  obtain rfl := Option.some.inj hr
  have pp := OpTab.parts (t := (Instr.sxor c d a b).tab.getD default) hw
  have hf : c.fb = false := pp.fb nofun
  have ho : (scOk ([d] ++ [a, b])) = true := pp.ok
  simp [scOk] at ho
  have hd9 : d < 512 := by omega
  have ha9 : a < 512 := by omega
  have hb9 : b < 512 := by omega
  refine ⟨by simp [raw3, rawI, rawW], rfl, ?_⟩
  refine Eq.trans (b := some (let rw_ := raw3 0x33 c (.ofNat 9 d) (.ofNat 9 a) (.ofNat 9 b) 0 0; .sxor rw_.ctl rw_.dst.toNat rw_.sa.toNat rw_.sb.toNat)) rfl ?_
  simp [*]
theorem sshlRegisters (c : Ctl) (d a b : Nat) : Statement (.sshlRegisters c d a b) := by
  intro hw rw_ hr
  obtain rfl := Option.some.inj hr
  have pp := OpTab.parts (t := (Instr.sshlRegisters c d a b).tab.getD default) hw
  have hf : c.fb = false := pp.fb nofun
  have ho : (scOk ([d] ++ [a, b])) = true := pp.ok
  simp [scOk] at ho
  have hd9 : d < 512 := by omega
  have ha9 : a < 512 := by omega
  have hb9 : b < 512 := by omega
  refine ⟨by simp [raw3, rawI, rawW], rfl, ?_⟩
  refine Eq.trans (b := some (let rw_ := raw3 0x34 c (.ofNat 9 d) (.ofNat 9 a) (.ofNat 9 b) 0 0; .sshlRegisters rw_.ctl rw_.dst.toNat rw_.sa.toNat rw_.sb.toNat)) rfl ?_
  simp [*]
theorem sshlImmediate (c : Ctl) (d a : Nat) (n : BitVec 6) : Statement (.sshlImmediate c d a n) := by
  intro hw rw_ hr
  obtain rfl := Option.some.inj hr
  have pp := OpTab.parts (t := (Instr.sshlImmediate c d a n).tab.getD default) hw
  have hf : c.fb = false := pp.fb nofun
  have ho : (scOk ([d] ++ [a])) = true := pp.ok
  simp [scOk] at ho
  have hd9 : d < 512 := by omega
  have ha9 : a < 512 := by omega
  refine ⟨by simp [raw3, rawI, rawW], rfl, ?_⟩
  refine Eq.trans (b := some (let rw_ := rawI 0x35 c (.ofNat 9 d) (.ofNat 9 a) 0 (0#11 ++ n); .sshlImmediate rw_.ctl rw_.dst.toNat rw_.sa.toNat (fld rw_.tail 0 6))) rfl ?_
  simp [*]
theorem sshrRegisters (c : Ctl) (d a b : Nat) : Statement (.sshrRegisters c d a b) := by
  intro hw rw_ hr
  obtain rfl := Option.some.inj hr
  have pp := OpTab.parts (t := (Instr.sshrRegisters c d a b).tab.getD default) hw
  have hf : c.fb = false := pp.fb nofun
  have ho : (scOk ([d] ++ [a, b])) = true := pp.ok
  simp [scOk] at ho
  have hd9 : d < 512 := by omega
  have ha9 : a < 512 := by omega
  have hb9 : b < 512 := by omega
  refine ⟨by simp [raw3, rawI, rawW], rfl, ?_⟩
  refine Eq.trans (b := some (let rw_ := raw3 0x36 c (.ofNat 9 d) (.ofNat 9 a) (.ofNat 9 b) 0 0; .sshrRegisters rw_.ctl rw_.dst.toNat rw_.sa.toNat rw_.sb.toNat)) rfl ?_
  simp [*]
theorem sshrImmediate (c : Ctl) (d a : Nat) (n : BitVec 6) : Statement (.sshrImmediate c d a n) := by
  intro hw rw_ hr
  obtain rfl := Option.some.inj hr
  have pp := OpTab.parts (t := (Instr.sshrImmediate c d a n).tab.getD default) hw
  have hf : c.fb = false := pp.fb nofun
  have ho : (scOk ([d] ++ [a])) = true := pp.ok
  simp [scOk] at ho
  have hd9 : d < 512 := by omega
  have ha9 : a < 512 := by omega
  refine ⟨by simp [raw3, rawI, rawW], rfl, ?_⟩
  refine Eq.trans (b := some (let rw_ := rawI 0x37 c (.ofNat 9 d) (.ofNat 9 a) 0 (0#11 ++ n); .sshrImmediate rw_.ctl rw_.dst.toNat rw_.sa.toNat (fld rw_.tail 0 6))) rfl ?_
  simp [*]
theorem ssra (c : Ctl) (d a b : Nat) : Statement (.ssra c d a b) := by
  intro hw rw_ hr
  obtain rfl := Option.some.inj hr
  have pp := OpTab.parts (t := (Instr.ssra c d a b).tab.getD default) hw
  have hf : c.fb = false := pp.fb nofun
  have ho : (scOk ([d] ++ [a, b])) = true := pp.ok
  simp [scOk] at ho
  have hd9 : d < 512 := by omega
  have ha9 : a < 512 := by omega
  have hb9 : b < 512 := by omega
  refine ⟨by simp [raw3, rawI, rawW], rfl, ?_⟩
  refine Eq.trans (b := some (let rw_ := raw3 0x38 c (.ofNat 9 d) (.ofNat 9 a) (.ofNat 9 b) 0 0; .ssra rw_.ctl rw_.dst.toNat rw_.sa.toNat rw_.sb.toNat)) rfl ?_
  simp [*]
theorem smin (c : Ctl) (d a b : Nat) (t : IntTy) : Statement (.smin c d a b t) := by
  intro hw rw_ hr
  obtain rfl := Option.some.inj hr
  have pp := OpTab.parts (t := (Instr.smin c d a b t).tab.getD default) hw
  have hf : c.fb = false := pp.fb nofun
  have ho : (scOk ([d] ++ [a, b])) = true := pp.ok
  simp [scOk] at ho
  have hd9 : d < 512 := by omega
  have ha9 : a < 512 := by omega
  have hb9 : b < 512 := by omega
  refine ⟨by simp [raw3, rawI, rawW], rfl, ?_⟩
  refine Eq.trans (b := some (let rw_ := raw3 0x39 c (.ofNat 9 d) (.ofNat 9 a) (.ofNat 9 b) 0 (0#7 ++ t.code); .smin rw_.ctl rw_.dst.toNat rw_.sa.toNat rw_.sb.toNat (.ofCode (fld rw_.md 0 1)))) rfl ?_
  simp [*]
theorem smax (c : Ctl) (d a b : Nat) (t : IntTy) : Statement (.smax c d a b t) := by
  intro hw rw_ hr
  obtain rfl := Option.some.inj hr
  have pp := OpTab.parts (t := (Instr.smax c d a b t).tab.getD default) hw
  have hf : c.fb = false := pp.fb nofun
  have ho : (scOk ([d] ++ [a, b])) = true := pp.ok
  simp [scOk] at ho
  have hd9 : d < 512 := by omega
  have ha9 : a < 512 := by omega
  have hb9 : b < 512 := by omega
  refine ⟨by simp [raw3, rawI, rawW], rfl, ?_⟩
  refine Eq.trans (b := some (let rw_ := raw3 0x3A c (.ofNat 9 d) (.ofNat 9 a) (.ofNat 9 b) 0 (0#7 ++ t.code); .smax rw_.ctl rw_.dst.toNat rw_.sa.toNat rw_.sb.toNat (.ofCode (fld rw_.md 0 1)))) rfl ?_
  simp [*]
theorem sset (c : Ctl) (d a b : Nat) (cmp : Cmp) (t : IntTy) : Statement (.sset c d a b cmp t) := by
  intro hw rw_ hr
  obtain rfl := Option.some.inj hr
  have pp := OpTab.parts (t := (Instr.sset c d a b cmp t).tab.getD default) hw
  have hf : c.fb = false := pp.fb nofun
  have ho : (scOk ([d] ++ [a, b])) = true := pp.ok
  simp [scOk] at ho
  have hd9 : d < 512 := by omega
  have ha9 : a < 512 := by omega
  have hb9 : b < 512 := by omega
  refine ⟨by simp [raw3, rawI, rawW], rfl, ?_⟩
  refine Eq.trans (b := some (let rw_ := raw3 0x3B c (.ofNat 9 d) (.ofNat 9 a) (.ofNat 9 b) 0 (0#4 ++ t.code ++ cmp.code); .sset rw_.ctl rw_.dst.toNat rw_.sa.toNat rw_.sb.toNat (.ofCode (fld rw_.md 0 3)) (.ofCode (fld rw_.md 3 1)))) rfl ?_
  simp [*]
theorem ssel (c : Ctl) (d a b : Nat) (all : Bool) : Statement (.ssel c d a b all) := by
  intro hw rw_ hr
  obtain rfl := Option.some.inj hr
  have pp := OpTab.parts (t := (Instr.ssel c d a b all).tab.getD default) hw
  have hf : c.fb = false := pp.fb nofun
  have ho : (scOk ([d] ++ [a, b])) = true := pp.ok
  simp [scOk] at ho
  have hd9 : d < 512 := by omega
  have ha9 : a < 512 := by omega
  have hb9 : b < 512 := by omega
  refine ⟨by simp [raw3, rawI, rawW], rfl, ?_⟩
  refine Eq.trans (b := some (let rw_ := raw3 0x3C c (.ofNat 9 d) (.ofNat 9 a) (.ofNat 9 b) 0 (0#7 ++ (bit all)); .ssel rw_.ctl rw_.dst.toNat rw_.sa.toNat rw_.sb.toNat (bitOf rw_.md 0))) rfl ?_
  simp [*]
theorem smov (c : Ctl) (d a : Nat) : Statement (.smov c d a) := by
  intro hw rw_ hr
  obtain rfl := Option.some.inj hr
  have pp := OpTab.parts (t := (Instr.smov c d a).tab.getD default) hw
  have hf : c.fb = false := pp.fb nofun
  have ho : (scOk ([d] ++ [a])) = true := pp.ok
  simp [scOk] at ho
  have hd9 : d < 512 := by omega
  have ha9 : a < 512 := by omega
  refine ⟨by simp [raw3, rawI, rawW], rfl, ?_⟩
  refine Eq.trans (b := some (let rw_ := raw3 0x3D c (.ofNat 9 d) (.ofNat 9 a) 0 0 0; .smov rw_.ctl rw_.dst.toNat rw_.sa.toNat)) rfl ?_
  simp [*]
theorem smovi (c : Ctl) (d : Nat) (m : SmoviMode) : Statement (.smovi c d m) := by
  cases m with
  | const k =>
    intro hw rw_ hr
    obtain rfl := Option.some.inj hr
    have pp := OpTab.parts (t := (Instr.smovi c d (.const k)).tab.getD default) hw
    have hf : c.fb = false := pp.fb nofun
    have ho : (scOk [d]) = true := pp.ok
    simp [scOk] at ho
    have hd9 : d < 512 := by omega
    refine ⟨by simp [raw3, rawI, rawW], rfl, ?_⟩
    refine Eq.trans (b := some (let rw_ := rawW 0x3E c (.ofNat 9 d) ((.const k) : SmoviMode).saCode ((.const k) : SmoviMode).imm; .smovi rw_.ctl rw_.dst.toNat (.ofRaw rw_))) rfl ?_
    simp [*, MoviMode.ofRaw, MoviMode.saCode, MoviMode.imm, SmoviMode.ofRaw, SmoviMode.saCode, SmoviMode.imm, PDst.code, PDst.isPred, optCode, optSCode] <;> decide
  | ins x k =>
    intro hw rw_ hr
    obtain rfl := Option.some.inj hr
    have pp := OpTab.parts (t := (Instr.smovi c d (.ins x k)).tab.getD default) hw
    have hf : c.fb = false := pp.fb nofun
    have ho : (scOk [d, x]) = true := pp.ok
    simp [scOk] at ho
    have hd9 : d < 512 := by omega
    have hx9 : x < 512 := Nat.lt_trans ho.2 (by decide)
    refine ⟨by simp [raw3, rawI, rawW], rfl, ?_⟩
    refine Eq.trans (b := some (let rw_ := rawW 0x3E c (.ofNat 9 d) ((.ins x k) : SmoviMode).saCode ((.ins x k) : SmoviMode).imm; .smovi rw_.ctl rw_.dst.toNat (.ofRaw rw_))) rfl ?_
    simp [*, MoviMode.ofRaw, MoviMode.saCode, MoviMode.imm, SmoviMode.ofRaw, SmoviMode.saCode, SmoviMode.imm, PDst.code, PDst.isPred, optCode, optSCode] <;> (rw [if_pos (by rfl), Nat.mod_eq_of_lt hx9])
theorem slea (c : Ctl) (d a b e : Nat) (n : BitVec 6) : Statement (.slea c d a b e n) := by
  intro hw rw_ hr
  obtain rfl := Option.some.inj hr
  have pp := OpTab.parts (t := (Instr.slea c d a b e n).tab.getD default) hw
  have hf : c.fb = false := pp.fb nofun
  have ho : (scOk ([d] ++ [a, b, e])) = true := pp.ok
  simp [scOk] at ho
  have hd9 : d < 512 := by omega
  have ha9 : a < 512 := by omega
  have hb9 : b < 512 := by omega
  have he9 : e < 512 := by omega
  refine ⟨by simp [raw3, rawI, rawW], rfl, ?_⟩
  refine Eq.trans (b := some (let rw_ := raw3 0x3F c (.ofNat 9 d) (.ofNat 9 a) (.ofNat 9 b) (.ofNat 9 e) (0#2 ++ n); .slea rw_.ctl rw_.dst.toNat rw_.sa.toNat rw_.sb.toNat rw_.sc.toNat (fld rw_.md 0 6))) rfl ?_
  simp [*]
theorem isetRegisters (c : Ctl) (p : BitVec 3) (a b : Opnd) (cmp : Cmp) (t : IntTy) (comb : Comb) : Statement (.isetRegisters c p a b cmp t comb) := by
  intro hw rw_ hr
  obtain rfl := Option.some.inj hr
  have pp := OpTab.parts (t := (Instr.isetRegisters c p a b cmp t comb).tab.getD default) hw
  have hf : c.fb = false := pp.fb nofun
  have ha : Opnd.ok a = true := pp.a
  have hb : Opnd.ok b = true := pp.b
  refine ⟨by simp [raw3, rawI, rawW], rfl, ?_⟩
  refine Eq.trans (b := some (let rw_ := raw3 0x40 c (0#6 ++ p) a.code b.code 0 (0#2 ++ comb.code ++ t.code ++ cmp.code); .isetRegisters rw_.ctl (fld rw_.dst 0 3) (.ofCode rw_.sa) (.ofCode rw_.sb) (.ofCode (fld rw_.md 0 3)) (.ofCode (fld rw_.md 3 1)) (.ofCode (fld rw_.md 4 2)))) rfl ?_
  simp [*]
theorem isetImmediate (c : Ctl) (p : BitVec 3) (a : Opnd) (imm : BitVec 17) (cmp : Cmp) (t : IntTy) (comb : Comb) : Statement (.isetImmediate c p a imm cmp t comb) := by
  intro hw rw_ hr
  obtain rfl := Option.some.inj hr
  have pp := OpTab.parts (t := (Instr.isetImmediate c p a imm cmp t comb).tab.getD default) hw
  have hf : c.fb = false := pp.fb nofun
  have ha : Opnd.ok a = true := pp.a
  refine ⟨by simp [raw3, rawI, rawW], rfl, ?_⟩
  refine Eq.trans (b := some (let rw_ := rawI 0x41 c (0#6 ++ p) a.code (0#2 ++ comb.code ++ t.code ++ cmp.code) imm; .isetImmediate rw_.ctl (fld rw_.dst 0 3) (.ofCode rw_.sa) rw_.tail (.ofCode (fld rw_.mdI 0 3)) (.ofCode (fld rw_.mdI 3 1)) (.ofCode (fld rw_.mdI 4 2)))) rfl ?_
  simp [*]
theorem plop (c : Ctl) (p pa pb : BitVec 3) (lut : BitVec 4) : Statement (.plop c p pa pb lut) := by
  intro hw rw_ hr
  obtain rfl := Option.some.inj hr
  have pp := OpTab.parts (t := (Instr.plop c p pa pb lut).tab.getD default) hw
  have hf : c.fb = false := pp.fb nofun
  refine ⟨by simp [raw3, rawI, rawW], rfl, ?_⟩
  refine Eq.trans (b := some (let rw_ := raw3 0x42 c (0#6 ++ p) (0#6 ++ pa) (0#6 ++ pb) 0 (0#4 ++ lut); .plop rw_.ctl (fld rw_.dst 0 3) (fld rw_.sa 0 3) (fld rw_.sb 0 3) (fld rw_.md 0 4))) rfl ?_
  simp [*]
theorem p2v (c : Ctl) (d : Opnd) : Statement (.p2v c d) := by
  intro hw rw_ hr
  obtain rfl := Option.some.inj hr
  have pp := OpTab.parts (t := (Instr.p2v c d).tab.getD default) hw
  have hf : c.fb = false := pp.fb nofun
  have hd : Opnd.ok d = true := pp.d
  refine ⟨by simp [raw3, rawI, rawW], rfl, ?_⟩
  refine Eq.trans (b := some (let rw_ := raw3 0x43 c d.code 0 0 0 0; .p2v rw_.ctl (.ofCode rw_.dst))) rfl ?_
  simp [*]
theorem v2p (c : Ctl) (a : Opnd) (mask : BitVec 7) : Statement (.v2p c a mask) := by
  intro hw rw_ hr
  obtain rfl := Option.some.inj hr
  have pp := OpTab.parts (t := (Instr.v2p c a mask).tab.getD default) hw
  have hf : c.fb = false := pp.fb nofun
  have ha : Opnd.ok a = true := pp.a
  refine ⟨by simp [raw3, rawI, rawW], ?_, ?_⟩
  · have hm : mask ≠ 0 := by
      have ho : (mask != 0) = true := pp.ok
      simpa using ho
    have hm2 : (0#1 ++ mask : BitVec 8) ≠ 0#8 := by clear pp hr hw; revert mask; decide
    simp [Raw.norm, hm2]
  refine Eq.trans (b := some (let rw_ := raw3 0x44 c 448#9 a.code 0 0 (0#1 ++ mask); .v2p rw_.ctl (.ofCode rw_.sa) (fld rw_.md 0 7))) rfl ?_
  simp [*]
theorem vshape (c : Ctl) (d a : Opnd) : Statement (.vshape c d a) := by
  intro hw rw_ hr
  obtain rfl := Option.some.inj hr
  have pp := OpTab.parts (t := (Instr.vshape c d a).tab.getD default) hw
  have hf : c.fb = false := pp.fb nofun
  have ha : Opnd.ok a = true := pp.a
  have hd : Opnd.ok d = true := pp.d
  refine ⟨by simp [raw3, rawI, rawW], rfl, ?_⟩
  refine Eq.trans (b := some (let rw_ := raw3 0x45 c d.code a.code 0 0 0; .vshape rw_.ctl (.ofCode rw_.dst) (.ofCode rw_.sa))) rfl ?_
  simp [*]
theorem vwiden (c : Ctl) (d a : Opnd) : Statement (.vwiden c d a) := by
  intro hw rw_ hr
  obtain rfl := Option.some.inj hr
  have pp := OpTab.parts (t := (Instr.vwiden c d a).tab.getD default) hw
  have hf : c.fb = false := pp.fb nofun
  have ha : Opnd.ok a = true := pp.a
  have hd : Opnd.ok d = true := pp.d
  refine ⟨by simp [raw3, rawI, rawW], rfl, ?_⟩
  refine Eq.trans (b := some (let rw_ := raw3 0x46 c d.code a.code 0 0 0; .vwiden rw_.ctl (.ofCode rw_.dst) (.ofCode rw_.sa))) rfl ?_
  simp [*]
theorem shfl (c : Ctl) (d a b : Opnd) (mode : ShflMode) (seg : ShflSeg) : Statement (.shfl c d a b mode seg) := by
  intro hw rw_ hr
  obtain rfl := Option.some.inj hr
  have pp := OpTab.parts (t := (Instr.shfl c d a b mode seg).tab.getD default) hw
  have hf : c.fb = false := pp.fb nofun
  have ha : Opnd.ok a = true := pp.a
  have hb : Opnd.ok b = true := pp.b
  have hd : Opnd.ok d = true := pp.d
  refine ⟨by simp [raw3, rawI, rawW], rfl, ?_⟩
  refine Eq.trans (b := some (let rw_ := raw3 0x47 c d.code a.code b.code 0 (0#3 ++ seg.code ++ mode.code); .shfl rw_.ctl (.ofCode rw_.dst) (.ofCode rw_.sa) (.ofCode rw_.sb) (.ofCode (fld rw_.md 0 2)) (.ofCode (fld rw_.md 2 3)))) rfl ?_
  simp [*]
theorem census (c : Ctl) (d : PDst) (mode : CensusMode) (q : BitVec 3) (neg : Bool) : Statement (.census c d mode q neg) := by
  cases d with
  | pred x =>
    intro hw rw_ hr
    obtain rfl := Option.some.inj hr
    have pp := OpTab.parts (t := (Instr.census c (.pred x) mode q neg).tab.getD default) hw
    have hf : c.fb = false := pp.fb nofun
    have ho := pp.ok
    simp only [Instr.tab, Option.getD_some] at ho
    have hm : mode.code.toNat ≤ 2 := by cases mode <;> first | decide | simp at ho
    refine ⟨by simp [raw3, rawI, rawW], rfl, ?_⟩
    refine Eq.trans (b := some (let rw_ := raw3 0x48 c ((.pred x) : PDst).code 0 0 0 (0#1 ++ (bit neg) ++ q ++ mode.code); .census rw_.ctl (if (decide (2 < (fld rw_.md 0 3).toNat)) then .reg (.ofCode rw_.dst) else .pred (fld rw_.dst 0 3)) (.ofCode (fld rw_.md 0 3)) (fld rw_.md 3 3) (bitOf rw_.md 6))) rfl ?_
    simp [*, MoviMode.ofRaw, MoviMode.saCode, MoviMode.imm, SmoviMode.ofRaw, SmoviMode.saCode, SmoviMode.imm, PDst.code, PDst.isPred, optCode, optSCode]
  | reg x =>
    intro hw rw_ hr
    obtain rfl := Option.some.inj hr
    have pp := OpTab.parts (t := (Instr.census c (.reg x) mode q neg).tab.getD default) hw
    have hf : c.fb = false := pp.fb nofun
    have hd : Opnd.ok x = true := pp.d
    have ho := pp.ok
    simp only [Instr.tab, Option.getD_some] at ho
    have hm : mode.code.toNat > 2 := by cases mode <;> first | decide | simp at ho
    refine ⟨by simp [raw3, rawI, rawW], rfl, ?_⟩
    refine Eq.trans (b := some (let rw_ := raw3 0x48 c ((.reg x) : PDst).code 0 0 0 (0#1 ++ (bit neg) ++ q ++ mode.code); .census rw_.ctl (if (decide (2 < (fld rw_.md 0 3).toNat)) then .reg (.ofCode rw_.dst) else .pred (fld rw_.dst 0 3)) (.ofCode (fld rw_.md 0 3)) (fld rw_.md 3 3) (bitOf rw_.md 6))) rfl ?_
    simp [*, MoviMode.ofRaw, MoviMode.saCode, MoviMode.imm, SmoviMode.ofRaw, SmoviMode.saCode, SmoviMode.imm, PDst.code, PDst.isPred, optCode, optSCode]
theorem gred (c : Ctl) (d a : Opnd) (op : GredOp) (ty : GredTy) : Statement (.gred c d a op ty) := by
  intro hw rw_ hr
  obtain rfl := Option.some.inj hr
  have pp := OpTab.parts (t := (Instr.gred c d a op ty).tab.getD default) hw
  have hf : c.fb = false := pp.fb nofun
  have ha : Opnd.ok a = true := pp.a
  have hd : Opnd.ok d = true := pp.d
  refine ⟨by simp [raw3, rawI, rawW], rfl, ?_⟩
  refine Eq.trans (b := some (let rw_ := raw3 0x49 c d.code a.code 0 0 (0#3 ++ ty.code ++ op.code); .gred rw_.ctl (.ofCode rw_.dst) (.ofCode rw_.sa) (.ofCode (fld rw_.md 0 3)) (.ofCode (fld rw_.md 3 2)))) rfl ?_
  simp [*]
theorem matchLanes (c : Ctl) (d : PDst) (a : Opnd) (w : Bool) : Statement (.matchLanes c d a w) := by
  cases d with
  | pred x =>
    intro hw rw_ hr
    obtain rfl := Option.some.inj hr
    have pp := OpTab.parts (t := (Instr.matchLanes c (.pred x) a w).tab.getD default) hw
    have hf : c.fb = false := pp.fb nofun
    have ha : Opnd.ok a = true := pp.a
    refine ⟨by simp [raw3, rawI, rawW], rfl, ?_⟩
    refine Eq.trans (b := some (let rw_ := raw3 0x4A c ((.pred x) : PDst).code a.code 0 0 (0#6 ++ (bit ((.pred x) : PDst).isPred) ++ (bit w)); .matchLanes rw_.ctl (if (!bitOf rw_.md 1) then .reg (.ofCode rw_.dst) else .pred (fld rw_.dst 0 3)) (.ofCode rw_.sa) (bitOf rw_.md 0))) rfl ?_
    simp [*, MoviMode.ofRaw, MoviMode.saCode, MoviMode.imm, SmoviMode.ofRaw, SmoviMode.saCode, SmoviMode.imm, PDst.code, PDst.isPred, optCode, optSCode]
  | reg x =>
    intro hw rw_ hr
    obtain rfl := Option.some.inj hr
    have pp := OpTab.parts (t := (Instr.matchLanes c (.reg x) a w).tab.getD default) hw
    have hf : c.fb = false := pp.fb nofun
    have ha : Opnd.ok a = true := pp.a
    have hd : Opnd.ok x = true := pp.d
    refine ⟨by simp [raw3, rawI, rawW], rfl, ?_⟩
    refine Eq.trans (b := some (let rw_ := raw3 0x4A c ((.reg x) : PDst).code a.code 0 0 (0#6 ++ (bit ((.reg x) : PDst).isPred) ++ (bit w)); .matchLanes rw_.ctl (if (!bitOf rw_.md 1) then .reg (.ofCode rw_.dst) else .pred (fld rw_.dst 0 3)) (.ofCode rw_.sa) (bitOf rw_.md 0))) rfl ?_
    simp [*, MoviMode.ofRaw, MoviMode.saCode, MoviMode.imm, SmoviMode.ofRaw, SmoviMode.saCode, SmoviMode.imm, PDst.code, PDst.isPred, optCode, optSCode]
theorem vbcast (c : Ctl) (d a b : Opnd) : Statement (.vbcast c d a b) := by
  intro hw rw_ hr
  obtain rfl := Option.some.inj hr
  have pp := OpTab.parts (t := (Instr.vbcast c d a b).tab.getD default) hw
  have hf : c.fb = false := pp.fb nofun
  have ha : Opnd.ok a = true := pp.a
  have hb : Opnd.ok b = true := pp.b
  have hd : Opnd.ok d = true := pp.d
  refine ⟨by simp [raw3, rawI, rawW], rfl, ?_⟩
  refine Eq.trans (b := some (let rw_ := raw3 0x4B c d.code a.code b.code 0 0; .vbcast rw_.ctl (.ofCode rw_.dst) (.ofCode rw_.sa) (.ofCode rw_.sb))) rfl ?_
  simp [*]
theorem vlane (c : Ctl) (d a b : Opnd) : Statement (.vlane c d a b) := by
  intro hw rw_ hr
  obtain rfl := Option.some.inj hr
  have pp := OpTab.parts (t := (Instr.vlane c d a b).tab.getD default) hw
  have hf : c.fb = false := pp.fb nofun
  have ha : Opnd.ok a = true := pp.a
  have hb : Opnd.ok b = true := pp.b
  have hd : Opnd.ok d = true := pp.d
  refine ⟨by simp [raw3, rawI, rawW], rfl, ?_⟩
  refine Eq.trans (b := some (let rw_ := raw3 0x4C c d.code a.code b.code 0 0; .vlane rw_.ctl (.ofCode rw_.dst) (.ofCode rw_.sa) (.ofCode rw_.sb))) rfl ?_
  simp [*]
theorem bra (c : Ctl) (imm : BitVec 26) : Statement (.bra c imm) := by
  intro hw rw_ hr
  obtain rfl := Option.some.inj hr
  have pp := OpTab.parts (t := (Instr.bra c imm).tab.getD default) hw
  have hf : c.fb = false := pp.fb nofun
  refine ⟨by simp [raw3, rawI, rawW], rfl, ?_⟩
  refine Eq.trans (b := some (let rw_ := rawW 0x50 c 0 0 imm; .bra rw_.ctl rw_.imm26)) rfl ?_
  simp [*]
theorem brx (c : Ctl) (a : Opnd) : Statement (.brx c a) := by
  intro hw rw_ hr
  obtain rfl := Option.some.inj hr
  have pp := OpTab.parts (t := (Instr.brx c a).tab.getD default) hw
  have hf : c.fb = false := pp.fb nofun
  have ha : Opnd.ok a = true := pp.a
  refine ⟨by simp [raw3, rawI, rawW], rfl, ?_⟩
  refine Eq.trans (b := some (let rw_ := raw3 0x51 c 448#9 a.code 0 0 0; .brx rw_.ctl (.ofCode rw_.sa))) rfl ?_
  simp [*]
theorem call (c : Ctl) (d : Opnd) (imm : BitVec 26) : Statement (.call c d imm) := by
  intro hw rw_ hr
  obtain rfl := Option.some.inj hr
  have pp := OpTab.parts (t := (Instr.call c d imm).tab.getD default) hw
  have hf : c.fb = false := pp.fb nofun
  have hd : Opnd.ok d = true := pp.d
  refine ⟨by simp [raw3, rawI, rawW], rfl, ?_⟩
  refine Eq.trans (b := some (let rw_ := rawW 0x52 c d.code 0 imm; .call rw_.ctl (.ofCode rw_.dst) rw_.imm26)) rfl ?_
  simp [*]
theorem callx (c : Ctl) (d a : Opnd) : Statement (.callx c d a) := by
  intro hw rw_ hr
  obtain rfl := Option.some.inj hr
  have pp := OpTab.parts (t := (Instr.callx c d a).tab.getD default) hw
  have hf : c.fb = false := pp.fb nofun
  have ha : Opnd.ok a = true := pp.a
  have hd : Opnd.ok d = true := pp.d
  refine ⟨by simp [raw3, rawI, rawW], rfl, ?_⟩
  refine Eq.trans (b := some (let rw_ := raw3 0x53 c d.code a.code 0 0 0; .callx rw_.ctl (.ofCode rw_.dst) (.ofCode rw_.sa))) rfl ?_
  simp [*]
theorem ret (c : Ctl) (a : Opnd) : Statement (.ret c a) := by
  intro hw rw_ hr
  obtain rfl := Option.some.inj hr
  have pp := OpTab.parts (t := (Instr.ret c a).tab.getD default) hw
  have hf : c.fb = false := pp.fb nofun
  have ha : Opnd.ok a = true := pp.a
  refine ⟨by simp [raw3, rawI, rawW], rfl, ?_⟩
  refine Eq.trans (b := some (let rw_ := raw3 0x54 c 448#9 a.code 0 0 0; .ret rw_.ctl (.ofCode rw_.sa))) rfl ?_
  simp [*]
theorem exit (c : Ctl) : Statement (.exit c) := by
  intro hw rw_ hr
  obtain rfl := Option.some.inj hr
  have pp := OpTab.parts (t := (Instr.exit c).tab.getD default) hw
  have hf : c.fb = false := pp.fb nofun
  refine ⟨by simp [raw3, rawI, rawW], rfl, ?_⟩
  refine Eq.trans (b := some (let rw_ := raw3 0x55 c 448#9 0 0 0 0; .exit rw_.ctl)) rfl ?_
  simp [*]
theorem jset (c : Ctl) (n : BitVec 4) (src : Option Opnd) : Statement (.jset c n src) := by
  cases src with
  | none =>
    intro hw rw_ hr
    obtain rfl := Option.some.inj hr
    have pp := OpTab.parts (t := (Instr.jset c n (none)).tab.getD default) hw
    have hf : c.fb = false := pp.fb nofun
    refine ⟨by simp [raw3, rawI, rawW], rfl, ?_⟩
    refine Eq.trans (b := some (let rw_ := raw3 0x56 c (0#5 ++ n) (optCode ((none) : Option Opnd)) 0 0 (0#7 ++ (bit ((none) : Option Opnd).isSome)); .jset rw_.ctl (fld rw_.dst 0 4) (if bitOf rw_.md 0 then some (.ofCode rw_.sa) else none))) rfl ?_
    simp [*, MoviMode.ofRaw, MoviMode.saCode, MoviMode.imm, SmoviMode.ofRaw, SmoviMode.saCode, SmoviMode.imm, PDst.code, PDst.isPred, optCode, optSCode]
  | some x =>
    intro hw rw_ hr
    obtain rfl := Option.some.inj hr
    have pp := OpTab.parts (t := (Instr.jset c n (some x)).tab.getD default) hw
    have hf : c.fb = false := pp.fb nofun
    have ha : Opnd.ok x = true := pp.a
    refine ⟨by simp [raw3, rawI, rawW], rfl, ?_⟩
    refine Eq.trans (b := some (let rw_ := raw3 0x56 c (0#5 ++ n) (optCode ((some x) : Option Opnd)) 0 0 (0#7 ++ (bit ((some x) : Option Opnd).isSome)); .jset rw_.ctl (fld rw_.dst 0 4) (if bitOf rw_.md 0 then some (.ofCode rw_.sa) else none))) rfl ?_
    simp [*, MoviMode.ofRaw, MoviMode.saCode, MoviMode.imm, SmoviMode.ofRaw, SmoviMode.saCode, SmoviMode.imm, PDst.code, PDst.isPred, optCode, optSCode]
theorem jarr (c : Ctl) (n : BitVec 4) : Statement (.jarr c n) := by
  intro hw rw_ hr
  obtain rfl := Option.some.inj hr
  have pp := OpTab.parts (t := (Instr.jarr c n).tab.getD default) hw
  have hf : c.fb = false := pp.fb nofun
  refine ⟨by simp [raw3, rawI, rawW], rfl, ?_⟩
  refine Eq.trans (b := some (let rw_ := raw3 0x57 c (0#5 ++ n) 0 0 0 0; .jarr rw_.ctl (fld rw_.dst 0 4))) rfl ?_
  simp [*]
theorem jdrop (c : Ctl) (n : BitVec 4) : Statement (.jdrop c n) := by
  intro hw rw_ hr
  obtain rfl := Option.some.inj hr
  have pp := OpTab.parts (t := (Instr.jdrop c n).tab.getD default) hw
  have hf : c.fb = false := pp.fb nofun
  refine ⟨by simp [raw3, rawI, rawW], rfl, ?_⟩
  refine Eq.trans (b := some (let rw_ := raw3 0x58 c (0#5 ++ n) 0 0 0 0; .jdrop rw_.ctl (fld rw_.dst 0 4))) rfl ?_
  simp [*]
theorem jread (c : Ctl) (d : Opnd) (n : BitVec 4) : Statement (.jread c d n) := by
  intro hw rw_ hr
  obtain rfl := Option.some.inj hr
  have pp := OpTab.parts (t := (Instr.jread c d n).tab.getD default) hw
  have hf : c.fb = false := pp.fb nofun
  have hd : Opnd.ok d = true := pp.d
  refine ⟨by simp [raw3, rawI, rawW], rfl, ?_⟩
  refine Eq.trans (b := some (let rw_ := raw3 0x59 c d.code (0#5 ++ n) 0 0 0; .jread rw_.ctl (.ofCode rw_.dst) (fld rw_.sa 0 4))) rfl ?_
  simp [*]
theorem waitf (c : Ctl) (mask : BitVec 12) : Statement (.waitf c mask) := by
  intro hw rw_ hr
  obtain rfl := Option.some.inj hr
  have pp := OpTab.parts (t := (Instr.waitf c mask).tab.getD default) hw
  have hf : c.fb = false := pp.fb nofun
  refine ⟨by simp [raw3, rawI, rawW], rfl, ?_⟩
  refine Eq.trans (b := some (let rw_ := raw3 0x5A c 448#9 0 (0#5 ++ fld mask 8 4) 0 (fld mask 0 8); .waitf rw_.ctl (fld rw_.sb 0 4 ++ rw_.md))) rfl ?_
  simp [*, fld_split]; exact fld_split (n := 8) (k := 4) mask
theorem sleep (c : Ctl) (a : Opnd) : Statement (.sleep c a) := by
  intro hw rw_ hr
  obtain rfl := Option.some.inj hr
  have pp := OpTab.parts (t := (Instr.sleep c a).tab.getD default) hw
  have hf : c.fb = false := pp.fb nofun
  have ha : Opnd.ok a = true := pp.a
  refine ⟨by simp [raw3, rawI, rawW], rfl, ?_⟩
  refine Eq.trans (b := some (let rw_ := raw3 0x5B c 448#9 a.code 0 0 0; .sleep rw_.ctl (.ofCode rw_.sa))) rfl ?_
  simp [*]
theorem faddRegisters (c : Ctl) (d a b : Opnd) (rm : Rm) (f19 : Bool) : Statement (.faddRegisters c d a b rm f19) := by
  intro hw rw_ hr
  obtain rfl := Option.some.inj hr
  have pp := OpTab.parts (t := (Instr.faddRegisters c d a b rm f19).tab.getD default) hw
  have hf : c.fb = false := pp.fb nofun
  have ha : Opnd.ok a = true := pp.a
  have hb : Opnd.ok b = true := pp.b
  have hd : Opnd.ok d = true := pp.d
  refine ⟨by simp [raw3, rawI, rawW], rfl, ?_⟩
  refine Eq.trans (b := some (let rw_ := raw3 0x60 c d.code a.code b.code 0 (0#5 ++ (bit f19) ++ rm.code); .faddRegisters rw_.ctl (.ofCode rw_.dst) (.ofCode rw_.sa) (.ofCode rw_.sb) (.ofCode (fld rw_.md 0 2)) (bitOf rw_.md 2))) rfl ?_
  simp [*]
theorem faddImmediate (c : Ctl) (d a : Opnd) (imm : BitVec 17) (rm : Rm) (f19 : Bool) : Statement (.faddImmediate c d a imm rm f19) := by
  intro hw rw_ hr
  obtain rfl := Option.some.inj hr
  have pp := OpTab.parts (t := (Instr.faddImmediate c d a imm rm f19).tab.getD default) hw
  have hf : c.fb = false := pp.fb nofun
  have ha : Opnd.ok a = true := pp.a
  have hd : Opnd.ok d = true := pp.d
  refine ⟨by simp [raw3, rawI, rawW], rfl, ?_⟩
  refine Eq.trans (b := some (let rw_ := rawI 0x61 c d.code a.code (0#5 ++ (bit f19) ++ rm.code) imm; .faddImmediate rw_.ctl (.ofCode rw_.dst) (.ofCode rw_.sa) rw_.tail (.ofCode (fld rw_.mdI 0 2)) (bitOf rw_.mdI 2))) rfl ?_
  simp [*]
theorem fsub (c : Ctl) (d a b : Opnd) (rm : Rm) (f19 : Bool) : Statement (.fsub c d a b rm f19) := by
  intro hw rw_ hr
  obtain rfl := Option.some.inj hr
  have pp := OpTab.parts (t := (Instr.fsub c d a b rm f19).tab.getD default) hw
  have hf : c.fb = false := pp.fb nofun
  have ha : Opnd.ok a = true := pp.a
  have hb : Opnd.ok b = true := pp.b
  have hd : Opnd.ok d = true := pp.d
  refine ⟨by simp [raw3, rawI, rawW], rfl, ?_⟩
  refine Eq.trans (b := some (let rw_ := raw3 0x62 c d.code a.code b.code 0 (0#5 ++ (bit f19) ++ rm.code); .fsub rw_.ctl (.ofCode rw_.dst) (.ofCode rw_.sa) (.ofCode rw_.sb) (.ofCode (fld rw_.md 0 2)) (bitOf rw_.md 2))) rfl ?_
  simp [*]
theorem fmulRegisters (c : Ctl) (d a b : Opnd) (rm : Rm) (f19 : Bool) : Statement (.fmulRegisters c d a b rm f19) := by
  intro hw rw_ hr
  obtain rfl := Option.some.inj hr
  have pp := OpTab.parts (t := (Instr.fmulRegisters c d a b rm f19).tab.getD default) hw
  have hf : c.fb = false := pp.fb nofun
  have ha : Opnd.ok a = true := pp.a
  have hb : Opnd.ok b = true := pp.b
  have hd : Opnd.ok d = true := pp.d
  refine ⟨by simp [raw3, rawI, rawW], rfl, ?_⟩
  refine Eq.trans (b := some (let rw_ := raw3 0x63 c d.code a.code b.code 0 (0#5 ++ (bit f19) ++ rm.code); .fmulRegisters rw_.ctl (.ofCode rw_.dst) (.ofCode rw_.sa) (.ofCode rw_.sb) (.ofCode (fld rw_.md 0 2)) (bitOf rw_.md 2))) rfl ?_
  simp [*]
theorem fmulImmediate (c : Ctl) (d a : Opnd) (imm : BitVec 17) (rm : Rm) (f19 : Bool) : Statement (.fmulImmediate c d a imm rm f19) := by
  intro hw rw_ hr
  obtain rfl := Option.some.inj hr
  have pp := OpTab.parts (t := (Instr.fmulImmediate c d a imm rm f19).tab.getD default) hw
  have hf : c.fb = false := pp.fb nofun
  have ha : Opnd.ok a = true := pp.a
  have hd : Opnd.ok d = true := pp.d
  refine ⟨by simp [raw3, rawI, rawW], rfl, ?_⟩
  refine Eq.trans (b := some (let rw_ := rawI 0x64 c d.code a.code (0#5 ++ (bit f19) ++ rm.code) imm; .fmulImmediate rw_.ctl (.ofCode rw_.dst) (.ofCode rw_.sa) rw_.tail (.ofCode (fld rw_.mdI 0 2)) (bitOf rw_.mdI 2))) rfl ?_
  simp [*]
theorem ffma (c : Ctl) (d a b e : Opnd) (rm : Rm) (f19 np nc : Bool) : Statement (.ffma c d a b e rm f19 np nc) := by
  intro hw rw_ hr
  obtain rfl := Option.some.inj hr
  have pp := OpTab.parts (t := (Instr.ffma c d a b e rm f19 np nc).tab.getD default) hw
  have hf : c.fb = false := pp.fb nofun
  have ha : Opnd.ok a = true := pp.a
  have hb : Opnd.ok b = true := pp.b
  have he : Opnd.ok e = true := pp.e
  have hd : Opnd.ok d = true := pp.d
  refine ⟨by simp [raw3, rawI, rawW], rfl, ?_⟩
  refine Eq.trans (b := some (let rw_ := raw3 0x65 c d.code a.code b.code e.code (0#3 ++ (bit nc) ++ (bit np) ++ (bit f19) ++ rm.code); .ffma rw_.ctl (.ofCode rw_.dst) (.ofCode rw_.sa) (.ofCode rw_.sb) (.ofCode rw_.sc) (.ofCode (fld rw_.md 0 2)) (bitOf rw_.md 2) (bitOf rw_.md 3) (bitOf rw_.md 4))) rfl ?_
  simp [*]
theorem fmin (c : Ctl) (d a b : Opnd) : Statement (.fmin c d a b) := by
  intro hw rw_ hr
  obtain rfl := Option.some.inj hr
  have pp := OpTab.parts (t := (Instr.fmin c d a b).tab.getD default) hw
  have hf : c.fb = false := pp.fb nofun
  have ha : Opnd.ok a = true := pp.a
  have hb : Opnd.ok b = true := pp.b
  have hd : Opnd.ok d = true := pp.d
  refine ⟨by simp [raw3, rawI, rawW], rfl, ?_⟩
  refine Eq.trans (b := some (let rw_ := raw3 0x66 c d.code a.code b.code 0 0; .fmin rw_.ctl (.ofCode rw_.dst) (.ofCode rw_.sa) (.ofCode rw_.sb))) rfl ?_
  simp [*]
theorem fmax (c : Ctl) (d a b : Opnd) : Statement (.fmax c d a b) := by
  intro hw rw_ hr
  obtain rfl := Option.some.inj hr
  have pp := OpTab.parts (t := (Instr.fmax c d a b).tab.getD default) hw
  have hf : c.fb = false := pp.fb nofun
  have ha : Opnd.ok a = true := pp.a
  have hb : Opnd.ok b = true := pp.b
  have hd : Opnd.ok d = true := pp.d
  refine ⟨by simp [raw3, rawI, rawW], rfl, ?_⟩
  refine Eq.trans (b := some (let rw_ := raw3 0x67 c d.code a.code b.code 0 0; .fmax rw_.ctl (.ofCode rw_.dst) (.ofCode rw_.sa) (.ofCode rw_.sb))) rfl ?_
  simp [*]
theorem fsetRegisters (c : Ctl) (p : BitVec 3) (a b : Opnd) (cmp : FCmp) (comb : Comb) : Statement (.fsetRegisters c p a b cmp comb) := by
  intro hw rw_ hr
  obtain rfl := Option.some.inj hr
  have pp := OpTab.parts (t := (Instr.fsetRegisters c p a b cmp comb).tab.getD default) hw
  have hf : c.fb = false := pp.fb nofun
  have ha : Opnd.ok a = true := pp.a
  have hb : Opnd.ok b = true := pp.b
  refine ⟨by simp [raw3, rawI, rawW], rfl, ?_⟩
  refine Eq.trans (b := some (let rw_ := raw3 0x68 c (0#6 ++ p) a.code b.code 0 (0#2 ++ comb.code ++ 0#1 ++ cmp.code); .fsetRegisters rw_.ctl (fld rw_.dst 0 3) (.ofCode rw_.sa) (.ofCode rw_.sb) (.ofCode (fld rw_.md 0 3)) (.ofCode (fld rw_.md 4 2)))) rfl ?_
  simp [*]
theorem fsetImmediate (c : Ctl) (p : BitVec 3) (a : Opnd) (imm : BitVec 17) (cmp : FCmp) (comb : Comb) : Statement (.fsetImmediate c p a imm cmp comb) := by
  intro hw rw_ hr
  obtain rfl := Option.some.inj hr
  have pp := OpTab.parts (t := (Instr.fsetImmediate c p a imm cmp comb).tab.getD default) hw
  have hf : c.fb = false := pp.fb nofun
  have ha : Opnd.ok a = true := pp.a
  refine ⟨by simp [raw3, rawI, rawW], rfl, ?_⟩
  refine Eq.trans (b := some (let rw_ := rawI 0x69 c (0#6 ++ p) a.code (0#2 ++ comb.code ++ 0#1 ++ cmp.code) imm; .fsetImmediate rw_.ctl (fld rw_.dst 0 3) (.ofCode rw_.sa) rw_.tail (.ofCode (fld rw_.mdI 0 3)) (.ofCode (fld rw_.mdI 4 2)))) rfl ?_
  simp [*]
theorem fclass (c : Ctl) (d a : Opnd) (fmt : ClassFmt) : Statement (.fclass c d a fmt) := by
  intro hw rw_ hr
  obtain rfl := Option.some.inj hr
  have pp := OpTab.parts (t := (Instr.fclass c d a fmt).tab.getD default) hw
  have hf : c.fb = false := pp.fb nofun
  have ha : Opnd.ok a = true := pp.a
  have hd : Opnd.ok d = true := pp.d
  refine ⟨by simp [raw3, rawI, rawW], rfl, ?_⟩
  refine Eq.trans (b := some (let rw_ := raw3 0x6A c d.code a.code 0 0 (0#6 ++ fmt.code); .fclass rw_.ctl (.ofCode rw_.dst) (.ofCode rw_.sa) (.ofCode (fld rw_.md 0 2)))) rfl ?_
  simp [*]
theorem frnd (c : Ctl) (d a : Opnd) (rm : Rm) : Statement (.frnd c d a rm) := by
  intro hw rw_ hr
  obtain rfl := Option.some.inj hr
  have pp := OpTab.parts (t := (Instr.frnd c d a rm).tab.getD default) hw
  have hf : c.fb = false := pp.fb nofun
  have ha : Opnd.ok a = true := pp.a
  have hd : Opnd.ok d = true := pp.d
  refine ⟨by simp [raw3, rawI, rawW], rfl, ?_⟩
  refine Eq.trans (b := some (let rw_ := raw3 0x6B c d.code a.code 0 0 (0#6 ++ rm.code); .frnd rw_.ctl (.ofCode rw_.dst) (.ofCode rw_.sa) (.ofCode (fld rw_.md 0 2)))) rfl ?_
  simp [*]
theorem fscale (c : Ctl) (d a b : Opnd) (rm : Rm) : Statement (.fscale c d a b rm) := by
  intro hw rw_ hr
  obtain rfl := Option.some.inj hr
  have pp := OpTab.parts (t := (Instr.fscale c d a b rm).tab.getD default) hw
  have hf : c.fb = false := pp.fb nofun
  have ha : Opnd.ok a = true := pp.a
  have hb : Opnd.ok b = true := pp.b
  have hd : Opnd.ok d = true := pp.d
  refine ⟨by simp [raw3, rawI, rawW], rfl, ?_⟩
  refine Eq.trans (b := some (let rw_ := raw3 0x6C c d.code a.code b.code 0 (0#6 ++ rm.code); .fscale rw_.ctl (.ofCode rw_.dst) (.ofCode rw_.sa) (.ofCode rw_.sb) (.ofCode (fld rw_.md 0 2)))) rfl ?_
  simp [*]
theorem frcp (c : Ctl) (d a : Opnd) (rm : Rm) : Statement (.frcp c d a rm) := by
  intro hw rw_ hr
  obtain rfl := Option.some.inj hr
  have pp := OpTab.parts (t := (Instr.frcp c d a rm).tab.getD default) hw
  have hf : c.fb = false := pp.fb nofun
  have ha : Opnd.ok a = true := pp.a
  have hd : Opnd.ok d = true := pp.d
  refine ⟨by simp [raw3, rawI, rawW], rfl, ?_⟩
  refine Eq.trans (b := some (let rw_ := raw3 0x70 c d.code a.code 0 0 (0#6 ++ rm.code); .frcp rw_.ctl (.ofCode rw_.dst) (.ofCode rw_.sa) (.ofCode (fld rw_.md 0 2)))) rfl ?_
  simp [*]
theorem frsq (c : Ctl) (d a : Opnd) : Statement (.frsq c d a) := by
  intro hw rw_ hr
  obtain rfl := Option.some.inj hr
  have pp := OpTab.parts (t := (Instr.frsq c d a).tab.getD default) hw
  have hf : c.fb = false := pp.fb nofun
  have ha : Opnd.ok a = true := pp.a
  have hd : Opnd.ok d = true := pp.d
  refine ⟨by simp [raw3, rawI, rawW], rfl, ?_⟩
  refine Eq.trans (b := some (let rw_ := raw3 0x71 c d.code a.code 0 0 0; .frsq rw_.ctl (.ofCode rw_.dst) (.ofCode rw_.sa))) rfl ?_
  simp [*]
theorem fsqrt (c : Ctl) (d a : Opnd) (rm : Rm) : Statement (.fsqrt c d a rm) := by
  intro hw rw_ hr
  obtain rfl := Option.some.inj hr
  have pp := OpTab.parts (t := (Instr.fsqrt c d a rm).tab.getD default) hw
  have hf : c.fb = false := pp.fb nofun
  have ha : Opnd.ok a = true := pp.a
  have hd : Opnd.ok d = true := pp.d
  refine ⟨by simp [raw3, rawI, rawW], rfl, ?_⟩
  refine Eq.trans (b := some (let rw_ := raw3 0x72 c d.code a.code 0 0 (0#6 ++ rm.code); .fsqrt rw_.ctl (.ofCode rw_.dst) (.ofCode rw_.sa) (.ofCode (fld rw_.md 0 2)))) rfl ?_
  simp [*]
theorem fexp2 (c : Ctl) (d a : Opnd) : Statement (.fexp2 c d a) := by
  intro hw rw_ hr
  obtain rfl := Option.some.inj hr
  have pp := OpTab.parts (t := (Instr.fexp2 c d a).tab.getD default) hw
  have hf : c.fb = false := pp.fb nofun
  have ha : Opnd.ok a = true := pp.a
  have hd : Opnd.ok d = true := pp.d
  refine ⟨by simp [raw3, rawI, rawW], rfl, ?_⟩
  refine Eq.trans (b := some (let rw_ := raw3 0x73 c d.code a.code 0 0 0; .fexp2 rw_.ctl (.ofCode rw_.dst) (.ofCode rw_.sa))) rfl ?_
  simp [*]
theorem flog2 (c : Ctl) (d a : Opnd) : Statement (.flog2 c d a) := by
  intro hw rw_ hr
  obtain rfl := Option.some.inj hr
  have pp := OpTab.parts (t := (Instr.flog2 c d a).tab.getD default) hw
  have hf : c.fb = false := pp.fb nofun
  have ha : Opnd.ok a = true := pp.a
  have hd : Opnd.ok d = true := pp.d
  refine ⟨by simp [raw3, rawI, rawW], rfl, ?_⟩
  refine Eq.trans (b := some (let rw_ := raw3 0x74 c d.code a.code 0 0 0; .flog2 rw_.ctl (.ofCode rw_.dst) (.ofCode rw_.sa))) rfl ?_
  simp [*]
theorem fsin (c : Ctl) (d a : Opnd) : Statement (.fsin c d a) := by
  intro hw rw_ hr
  obtain rfl := Option.some.inj hr
  have pp := OpTab.parts (t := (Instr.fsin c d a).tab.getD default) hw
  have hf : c.fb = false := pp.fb nofun
  have ha : Opnd.ok a = true := pp.a
  have hd : Opnd.ok d = true := pp.d
  refine ⟨by simp [raw3, rawI, rawW], rfl, ?_⟩
  refine Eq.trans (b := some (let rw_ := raw3 0x75 c d.code a.code 0 0 0; .fsin rw_.ctl (.ofCode rw_.dst) (.ofCode rw_.sa))) rfl ?_
  simp [*]
theorem fcos (c : Ctl) (d a : Opnd) : Statement (.fcos c d a) := by
  intro hw rw_ hr
  obtain rfl := Option.some.inj hr
  have pp := OpTab.parts (t := (Instr.fcos c d a).tab.getD default) hw
  have hf : c.fb = false := pp.fb nofun
  have ha : Opnd.ok a = true := pp.a
  have hd : Opnd.ok d = true := pp.d
  refine ⟨by simp [raw3, rawI, rawW], rfl, ?_⟩
  refine Eq.trans (b := some (let rw_ := raw3 0x76 c d.code a.code 0 0 0; .fcos rw_.ctl (.ofCode rw_.dst) (.ofCode rw_.sa))) rfl ?_
  simp [*]
theorem ftanh (c : Ctl) (d a : Opnd) : Statement (.ftanh c d a) := by
  intro hw rw_ hr
  obtain rfl := Option.some.inj hr
  have pp := OpTab.parts (t := (Instr.ftanh c d a).tab.getD default) hw
  have hf : c.fb = false := pp.fb nofun
  have ha : Opnd.ok a = true := pp.a
  have hd : Opnd.ok d = true := pp.d
  refine ⟨by simp [raw3, rawI, rawW], rfl, ?_⟩
  refine Eq.trans (b := some (let rw_ := raw3 0x77 c d.code a.code 0 0 0; .ftanh rw_.ctl (.ofCode rw_.dst) (.ofCode rw_.sa))) rfl ?_
  simp [*]
theorem hadd2 (c : Ctl) (d a b : Opnd) (rm : Rm) (b16 : Bool) : Statement (.hadd2 c d a b rm b16) := by
  intro hw rw_ hr
  obtain rfl := Option.some.inj hr
  have pp := OpTab.parts (t := (Instr.hadd2 c d a b rm b16).tab.getD default) hw
  have hf : c.fb = false := pp.fb nofun
  have ha : Opnd.ok a = true := pp.a
  have hb : Opnd.ok b = true := pp.b
  have hd : Opnd.ok d = true := pp.d
  refine ⟨by simp [raw3, rawI, rawW], rfl, ?_⟩
  refine Eq.trans (b := some (let rw_ := raw3 0x80 c d.code a.code b.code 0 (0#5 ++ (bit b16) ++ rm.code); .hadd2 rw_.ctl (.ofCode rw_.dst) (.ofCode rw_.sa) (.ofCode rw_.sb) (.ofCode (fld rw_.md 0 2)) (bitOf rw_.md 2))) rfl ?_
  simp [*]
theorem hsub2 (c : Ctl) (d a b : Opnd) (rm : Rm) (b16 : Bool) : Statement (.hsub2 c d a b rm b16) := by
  intro hw rw_ hr
  obtain rfl := Option.some.inj hr
  have pp := OpTab.parts (t := (Instr.hsub2 c d a b rm b16).tab.getD default) hw
  have hf : c.fb = false := pp.fb nofun
  have ha : Opnd.ok a = true := pp.a
  have hb : Opnd.ok b = true := pp.b
  have hd : Opnd.ok d = true := pp.d
  refine ⟨by simp [raw3, rawI, rawW], rfl, ?_⟩
  refine Eq.trans (b := some (let rw_ := raw3 0x81 c d.code a.code b.code 0 (0#5 ++ (bit b16) ++ rm.code); .hsub2 rw_.ctl (.ofCode rw_.dst) (.ofCode rw_.sa) (.ofCode rw_.sb) (.ofCode (fld rw_.md 0 2)) (bitOf rw_.md 2))) rfl ?_
  simp [*]
theorem hmul2 (c : Ctl) (d a b : Opnd) (rm : Rm) (b16 : Bool) : Statement (.hmul2 c d a b rm b16) := by
  intro hw rw_ hr
  obtain rfl := Option.some.inj hr
  have pp := OpTab.parts (t := (Instr.hmul2 c d a b rm b16).tab.getD default) hw
  have hf : c.fb = false := pp.fb nofun
  have ha : Opnd.ok a = true := pp.a
  have hb : Opnd.ok b = true := pp.b
  have hd : Opnd.ok d = true := pp.d
  refine ⟨by simp [raw3, rawI, rawW], rfl, ?_⟩
  refine Eq.trans (b := some (let rw_ := raw3 0x82 c d.code a.code b.code 0 (0#5 ++ (bit b16) ++ rm.code); .hmul2 rw_.ctl (.ofCode rw_.dst) (.ofCode rw_.sa) (.ofCode rw_.sb) (.ofCode (fld rw_.md 0 2)) (bitOf rw_.md 2))) rfl ?_
  simp [*]
theorem hfma2 (c : Ctl) (d a b e : Opnd) (rm : Rm) (b16 : Bool) : Statement (.hfma2 c d a b e rm b16) := by
  intro hw rw_ hr
  obtain rfl := Option.some.inj hr
  have pp := OpTab.parts (t := (Instr.hfma2 c d a b e rm b16).tab.getD default) hw
  have hf : c.fb = false := pp.fb nofun
  have ha : Opnd.ok a = true := pp.a
  have hb : Opnd.ok b = true := pp.b
  have he : Opnd.ok e = true := pp.e
  have hd : Opnd.ok d = true := pp.d
  refine ⟨by simp [raw3, rawI, rawW], rfl, ?_⟩
  refine Eq.trans (b := some (let rw_ := raw3 0x83 c d.code a.code b.code e.code (0#5 ++ (bit b16) ++ rm.code); .hfma2 rw_.ctl (.ofCode rw_.dst) (.ofCode rw_.sa) (.ofCode rw_.sb) (.ofCode rw_.sc) (.ofCode (fld rw_.md 0 2)) (bitOf rw_.md 2))) rfl ?_
  simp [*]
theorem hmin2 (c : Ctl) (d a b : Opnd) (b16 : Bool) : Statement (.hmin2 c d a b b16) := by
  intro hw rw_ hr
  obtain rfl := Option.some.inj hr
  have pp := OpTab.parts (t := (Instr.hmin2 c d a b b16).tab.getD default) hw
  have hf : c.fb = false := pp.fb nofun
  have ha : Opnd.ok a = true := pp.a
  have hb : Opnd.ok b = true := pp.b
  have hd : Opnd.ok d = true := pp.d
  refine ⟨by simp [raw3, rawI, rawW], rfl, ?_⟩
  refine Eq.trans (b := some (let rw_ := raw3 0x84 c d.code a.code b.code 0 (0#5 ++ (bit b16) ++ 0#2); .hmin2 rw_.ctl (.ofCode rw_.dst) (.ofCode rw_.sa) (.ofCode rw_.sb) (bitOf rw_.md 2))) rfl ?_
  simp [*]
theorem hmax2 (c : Ctl) (d a b : Opnd) (b16 : Bool) : Statement (.hmax2 c d a b b16) := by
  intro hw rw_ hr
  obtain rfl := Option.some.inj hr
  have pp := OpTab.parts (t := (Instr.hmax2 c d a b b16).tab.getD default) hw
  have hf : c.fb = false := pp.fb nofun
  have ha : Opnd.ok a = true := pp.a
  have hb : Opnd.ok b = true := pp.b
  have hd : Opnd.ok d = true := pp.d
  refine ⟨by simp [raw3, rawI, rawW], rfl, ?_⟩
  refine Eq.trans (b := some (let rw_ := raw3 0x85 c d.code a.code b.code 0 (0#5 ++ (bit b16) ++ 0#2); .hmax2 rw_.ctl (.ofCode rw_.dst) (.ofCode rw_.sa) (.ofCode rw_.sb) (bitOf rw_.md 2))) rfl ?_
  simp [*]
theorem hset2 (c : Ctl) (d a b : Opnd) (cmp : FCmp) (b16 : Bool) : Statement (.hset2 c d a b cmp b16) := by
  intro hw rw_ hr
  obtain rfl := Option.some.inj hr
  have pp := OpTab.parts (t := (Instr.hset2 c d a b cmp b16).tab.getD default) hw
  have hf : c.fb = false := pp.fb nofun
  have ha : Opnd.ok a = true := pp.a
  have hb : Opnd.ok b = true := pp.b
  have hd : Opnd.ok d = true := pp.d
  refine ⟨by simp [raw3, rawI, rawW], rfl, ?_⟩
  refine Eq.trans (b := some (let rw_ := raw3 0x86 c d.code a.code b.code 0 (0#1 ++ cmp.code ++ 0#1 ++ (bit b16) ++ 0#2); .hset2 rw_.ctl (.ofCode rw_.dst) (.ofCode rw_.sa) (.ofCode rw_.sb) (.ofCode (fld rw_.md 4 3)) (bitOf rw_.md 2))) rfl ?_
  simp [*]
theorem cvt (c : Ctl) (d a : Opnd) (dt st : CvtTy) (rm : Rm) (pol : Pol) : Statement (.cvt c d a dt st rm pol) := by
  intro hw rw_ hr
  obtain rfl := Option.some.inj hr
  have pp := OpTab.parts (t := (Instr.cvt c d a dt st rm pol).tab.getD default) hw
  have hf : c.fb = false := pp.fb nofun
  have ha : Opnd.ok a = true := pp.a
  have hd : Opnd.ok d = true := pp.d
  refine ⟨by simp [raw3, rawI, rawW], rfl, ?_⟩
  refine Eq.trans (b := some (let rw_ := raw3 0x88 c d.code a.code (0#2 ++ pol.code ++ st.code) 0 (0#1 ++ rm.code ++ dt.code); .cvt rw_.ctl (.ofCode rw_.dst) (.ofCode rw_.sa) (.ofCode (fld rw_.md 0 5)) (.ofCode (fld rw_.sb 0 5)) (.ofCode (fld rw_.md 5 2)) (.ofCode (fld rw_.sb 5 2)))) rfl ?_
  simp [*]
theorem pack (c : Ctl) (d a b e : Opnd) (fmt : Fmt) (rm : Rm) (pol : Pol) : Statement (.pack c d a b e fmt rm pol) := by
  intro hw rw_ hr
  obtain rfl := Option.some.inj hr
  have pp := OpTab.parts (t := (Instr.pack c d a b e fmt rm pol).tab.getD default) hw
  have hf : c.fb = false := pp.fb nofun
  have ha : Opnd.ok a = true := pp.a
  have hb : Opnd.ok b = true := pp.b
  have he : Opnd.ok e = true := pp.e
  have hd : Opnd.ok d = true := pp.d
  refine ⟨by simp [raw3, rawI, rawW], rfl, ?_⟩
  refine Eq.trans (b := some (let rw_ := raw3 0x89 c d.code a.code b.code e.code (pol.code ++ rm.code ++ fmt.code); .pack rw_.ctl (.ofCode rw_.dst) (.ofCode rw_.sa) (.ofCode rw_.sb) (.ofCode rw_.sc) (.ofCode (fld rw_.md 0 4)) (.ofCode (fld rw_.md 4 2)) (.ofCode (fld rw_.md 6 2)))) rfl ?_
  simp [*]
theorem unpack (c : Ctl) (d a b : Opnd) (fmt : Fmt) (int : Bool) : Statement (.unpack c d a b fmt int) := by
  intro hw rw_ hr
  obtain rfl := Option.some.inj hr
  have pp := OpTab.parts (t := (Instr.unpack c d a b fmt int).tab.getD default) hw
  have hf : c.fb = false := pp.fb nofun
  have ha : Opnd.ok a = true := pp.a
  have hb : Opnd.ok b = true := pp.b
  have hd : Opnd.ok d = true := pp.d
  refine ⟨by simp [raw3, rawI, rawW], rfl, ?_⟩
  refine Eq.trans (b := some (let rw_ := raw3 0x8A c d.code a.code b.code 0 (0#3 ++ (bit int) ++ fmt.code); .unpack rw_.ctl (.ofCode rw_.dst) (.ofCode rw_.sa) (.ofCode rw_.sb) (.ofCode (fld rw_.md 0 4)) (bitOf rw_.md 4))) rfl ?_
  simp [*]
theorem dp2h (c : Ctl) (d a b e : Opnd) (fa fb : Fmt) (rm : Rm) : Statement (.dp2h c d a b e fa fb rm) := by
  intro hw rw_ hr
  obtain rfl := Option.some.inj hr
  have pp := OpTab.parts (t := (Instr.dp2h c d a b e fa fb rm).tab.getD default) hw
  have hf : c.fb = false := pp.fb nofun
  have ha : Opnd.ok a = true := pp.a
  have hb : Opnd.ok b = true := pp.b
  have he : Opnd.ok e = true := pp.e
  have hd : Opnd.ok d = true := pp.d
  have ho : dpOk _ fa fb rm = true := pp.ok
  simp only [dpOk, Bool.and_eq_true, beq_iff_eq] at ho
  have hfa : dpOf [.f16, .b16] (dpCode [.f16, .b16] fa) = fa := by cases fa <;> first | decide | simp [Fmt.width] at ho
  have hfb : dpOf [.f16, .b16] (dpCode [.f16, .b16] fb) = fb := by cases fb <;> first | decide | simp [Fmt.width] at ho
  refine ⟨by simp [raw3, rawI, rawW], rfl, ?_⟩
  refine Eq.trans (b := some (let rw_ := raw3 0x90 c d.code a.code b.code e.code (rm.code ++ (dpCode [.f16, .b16] fb) ++ (dpCode [.f16, .b16] fa)); .dp2h rw_.ctl (.ofCode rw_.dst) (.ofCode rw_.sa) (.ofCode rw_.sb) (.ofCode rw_.sc) (dpOf [.f16, .b16] (fld rw_.md 0 3)) (dpOf [.f16, .b16] (fld rw_.md 3 3)) (.ofCode (fld rw_.md 6 2)))) rfl ?_
  simp [*]
theorem dp4 (c : Ctl) (d a b e : Opnd) (fa fb : Fmt) (rm : Rm) : Statement (.dp4 c d a b e fa fb rm) := by
  intro hw rw_ hr
  obtain rfl := Option.some.inj hr
  have pp := OpTab.parts (t := (Instr.dp4 c d a b e fa fb rm).tab.getD default) hw
  have hf : c.fb = false := pp.fb nofun
  have ha : Opnd.ok a = true := pp.a
  have hb : Opnd.ok b = true := pp.b
  have he : Opnd.ok e = true := pp.e
  have hd : Opnd.ok d = true := pp.d
  have ho : dpOk _ fa fb rm = true := pp.ok
  simp only [dpOk, Bool.and_eq_true, beq_iff_eq] at ho
  have hfa : dpOf [.e5m2, .e4m3, .e3m4, .lg8, .i8, .n8] (dpCode [.e5m2, .e4m3, .e3m4, .lg8, .i8, .n8] fa) = fa := by cases fa <;> first | decide | simp [Fmt.width] at ho
  have hfb : dpOf [.e5m2, .e4m3, .e3m4, .lg8, .i8, .n8] (dpCode [.e5m2, .e4m3, .e3m4, .lg8, .i8, .n8] fb) = fb := by cases fb <;> first | decide | simp [Fmt.width] at ho
  refine ⟨by simp [raw3, rawI, rawW], rfl, ?_⟩
  refine Eq.trans (b := some (let rw_ := raw3 0x91 c d.code a.code b.code e.code (rm.code ++ (dpCode [.e5m2, .e4m3, .e3m4, .lg8, .i8, .n8] fb) ++ (dpCode [.e5m2, .e4m3, .e3m4, .lg8, .i8, .n8] fa)); .dp4 rw_.ctl (.ofCode rw_.dst) (.ofCode rw_.sa) (.ofCode rw_.sb) (.ofCode rw_.sc) (dpOf [.e5m2, .e4m3, .e3m4, .lg8, .i8, .n8] (fld rw_.md 0 3)) (dpOf [.e5m2, .e4m3, .e3m4, .lg8, .i8, .n8] (fld rw_.md 3 3)) (.ofCode (fld rw_.md 6 2)))) rfl ?_
  simp [*]
theorem dp8 (c : Ctl) (d a b e : Opnd) (fa fb : Fmt) (rm : Rm) : Statement (.dp8 c d a b e fa fb rm) := by
  intro hw rw_ hr
  obtain rfl := Option.some.inj hr
  have pp := OpTab.parts (t := (Instr.dp8 c d a b e fa fb rm).tab.getD default) hw
  have hf : c.fb = false := pp.fb nofun
  have ha : Opnd.ok a = true := pp.a
  have hb : Opnd.ok b = true := pp.b
  have he : Opnd.ok e = true := pp.e
  have hd : Opnd.ok d = true := pp.d
  have ho : dpOk _ fa fb rm = true := pp.ok
  simp only [dpOk, Bool.and_eq_true, beq_iff_eq] at ho
  have hfa : dpOf [.e2m1, .e1m2, .i4, .n4] (dpCode [.e2m1, .e1m2, .i4, .n4] fa) = fa := by cases fa <;> first | decide | simp [Fmt.width] at ho
  have hfb : dpOf [.e2m1, .e1m2, .i4, .n4] (dpCode [.e2m1, .e1m2, .i4, .n4] fb) = fb := by cases fb <;> first | decide | simp [Fmt.width] at ho
  refine ⟨by simp [raw3, rawI, rawW], rfl, ?_⟩
  refine Eq.trans (b := some (let rw_ := raw3 0x92 c d.code a.code b.code e.code (rm.code ++ (dpCode [.e2m1, .e1m2, .i4, .n4] fb) ++ (dpCode [.e2m1, .e1m2, .i4, .n4] fa)); .dp8 rw_.ctl (.ofCode rw_.dst) (.ofCode rw_.sa) (.ofCode rw_.sb) (.ofCode rw_.sc) (dpOf [.e2m1, .e1m2, .i4, .n4] (fld rw_.md 0 3)) (dpOf [.e2m1, .e1m2, .i4, .n4] (fld rw_.md 3 3)) (.ofCode (fld rw_.md 6 2)))) rfl ?_
  simp [*]
theorem dp16 (c : Ctl) (d a b e : Opnd) (fa fb : Fmt) (rm : Rm) : Statement (.dp16 c d a b e fa fb rm) := by
  intro hw rw_ hr
  obtain rfl := Option.some.inj hr
  have pp := OpTab.parts (t := (Instr.dp16 c d a b e fa fb rm).tab.getD default) hw
  have hf : c.fb = false := pp.fb nofun
  have ha : Opnd.ok a = true := pp.a
  have hb : Opnd.ok b = true := pp.b
  have he : Opnd.ok e = true := pp.e
  have hd : Opnd.ok d = true := pp.d
  have ho : dpOk _ fa fb rm = true := pp.ok
  simp only [dpOk, Bool.and_eq_true, beq_iff_eq] at ho
  have hfa : dpOf [.i2, .t2] (dpCode [.i2, .t2] fa) = fa := by cases fa <;> first | decide | simp [Fmt.width] at ho
  have hfb : dpOf [.i2, .t2] (dpCode [.i2, .t2] fb) = fb := by cases fb <;> first | decide | simp [Fmt.width] at ho
  refine ⟨by simp [raw3, rawI, rawW], rfl, ?_⟩
  refine Eq.trans (b := some (let rw_ := raw3 0x93 c d.code a.code b.code e.code (rm.code ++ (dpCode [.i2, .t2] fb) ++ (dpCode [.i2, .t2] fa)); .dp16 rw_.ctl (.ofCode rw_.dst) (.ofCode rw_.sa) (.ofCode rw_.sb) (.ofCode rw_.sc) (dpOf [.i2, .t2] (fld rw_.md 0 3)) (dpOf [.i2, .t2] (fld rw_.md 3 3)) (.ofCode (fld rw_.md 6 2)))) rfl ?_
  simp [*]
theorem ld (c : Ctl) (d a b : Opnd) (sz : Size) (sx : Bool) (hint : Hint) (is : Bool) : Statement (.ld c d a b sz sx hint is) := by
  intro hw rw_ hr
  obtain rfl := Option.some.inj hr
  have pp := OpTab.parts (t := (Instr.ld c d a b sz sx hint is).tab.getD default) hw
  have ha : Opnd.ok a = true := pp.a
  have hb : Opnd.ok b = true := pp.b
  have hd : Opnd.ok d = true := pp.d
  refine ⟨by simp [raw3, rawI, rawW], rfl, ?_⟩
  refine Eq.trans (b := some (let rw_ := raw3 0xA0 c d.code a.code b.code 0 ((bit c.fb) ++ (bit is) ++ hint.code ++ (bit sx) ++ sz.code); .ld rw_.ctlL (.ofCode rw_.dst) (.ofCode rw_.sa) (.ofCode rw_.sb) (.ofCode (fld rw_.md 0 3)) (bitOf rw_.md 3) (.ofCode (fld rw_.md 4 2)) (bitOf rw_.md 6))) rfl ?_
  simp [*]
theorem st (c : Ctl) (a b e : Opnd) (sz : Size) (hint : Hint) (is : Bool) : Statement (.st c a b e sz hint is) := by
  intro hw rw_ hr
  obtain rfl := Option.some.inj hr
  have pp := OpTab.parts (t := (Instr.st c a b e sz hint is).tab.getD default) hw
  have ha : Opnd.ok a = true := pp.a
  have hb : Opnd.ok b = true := pp.b
  have he : Opnd.ok e = true := pp.e
  refine ⟨by simp [raw3, rawI, rawW], rfl, ?_⟩
  refine Eq.trans (b := some (let rw_ := raw3 0xA1 c 448#9 a.code b.code e.code ((bit c.fb) ++ (bit is) ++ hint.code ++ 0#1 ++ sz.code); .st rw_.ctlL (.ofCode rw_.sa) (.ofCode rw_.sb) (.ofCode rw_.sc) (.ofCode (fld rw_.md 0 3)) (.ofCode (fld rw_.md 4 2)) (bitOf rw_.md 6))) rfl ?_
  simp [*]
theorem lda (c : Ctl) (d a b : Opnd) (w : Bool) (sc : Scope) (is : Bool) : Statement (.lda c d a b w sc is) := by
  intro hw rw_ hr
  obtain rfl := Option.some.inj hr
  have pp := OpTab.parts (t := (Instr.lda c d a b w sc is).tab.getD default) hw
  have ha : Opnd.ok a = true := pp.a
  have hb : Opnd.ok b = true := pp.b
  have hd : Opnd.ok d = true := pp.d
  refine ⟨by simp [raw3, rawI, rawW], rfl, ?_⟩
  refine Eq.trans (b := some (let rw_ := raw3 0xA2 c d.code a.code b.code 0 ((bit c.fb) ++ (bit is) ++ 0#2 ++ sc.code ++ (bit w)); .lda rw_.ctlL (.ofCode rw_.dst) (.ofCode rw_.sa) (.ofCode rw_.sb) (bitOf rw_.md 0) (.ofCode (fld rw_.md 1 3)) (bitOf rw_.md 6))) rfl ?_
  simp [*]
theorem strel (c : Ctl) (a b e : Opnd) (w : Bool) (sc : Scope) (lazy is : Bool) : Statement (.strel c a b e w sc lazy is) := by
  intro hw rw_ hr
  obtain rfl := Option.some.inj hr
  have pp := OpTab.parts (t := (Instr.strel c a b e w sc lazy is).tab.getD default) hw
  have ha : Opnd.ok a = true := pp.a
  have hb : Opnd.ok b = true := pp.b
  have he : Opnd.ok e = true := pp.e
  refine ⟨by simp [raw3, rawI, rawW], rfl, ?_⟩
  refine Eq.trans (b := some (let rw_ := raw3 0xA3 c 448#9 a.code b.code e.code ((bit c.fb) ++ (bit is) ++ 0#1 ++ (bit lazy) ++ sc.code ++ (bit w)); .strel rw_.ctlL (.ofCode rw_.sa) (.ofCode rw_.sb) (.ofCode rw_.sc) (bitOf rw_.md 0) (.ofCode (fld rw_.md 1 3)) (bitOf rw_.md 4) (bitOf rw_.md 6))) rfl ?_
  simp [*]
theorem lds (c : Ctl) (d a b : Opnd) (sz : Size) (sx : Bool) (fe : FeMode) : Statement (.lds c d a b sz sx fe) := by
  intro hw rw_ hr
  obtain rfl := Option.some.inj hr
  have pp := OpTab.parts (t := (Instr.lds c d a b sz sx fe).tab.getD default) hw
  have ha : Opnd.ok a = true := pp.a
  have hb : Opnd.ok b = true := pp.b
  have hd : Opnd.ok d = true := pp.d
  refine ⟨by simp [raw3, rawI, rawW], rfl, ?_⟩
  refine Eq.trans (b := some (let rw_ := raw3 0xA4 c d.code a.code b.code 0 ((bit c.fb) ++ 0#1 ++ fe.code ++ (bit sx) ++ sz.code); .lds rw_.ctlL (.ofCode rw_.dst) (.ofCode rw_.sa) (.ofCode rw_.sb) (.ofCode (fld rw_.md 0 3)) (bitOf rw_.md 3) (.ofCode (fld rw_.md 4 2)))) rfl ?_
  simp [*]
theorem sts (c : Ctl) (a b e : Opnd) (sz : Size) (fe : Bool) : Statement (.sts c a b e sz fe) := by
  intro hw rw_ hr
  obtain rfl := Option.some.inj hr
  have pp := OpTab.parts (t := (Instr.sts c a b e sz fe).tab.getD default) hw
  have ha : Opnd.ok a = true := pp.a
  have hb : Opnd.ok b = true := pp.b
  have he : Opnd.ok e = true := pp.e
  refine ⟨by simp [raw3, rawI, rawW], rfl, ?_⟩
  refine Eq.trans (b := some (let rw_ := raw3 0xA5 c 448#9 a.code b.code e.code ((bit c.fb) ++ 0#2 ++ (bit fe) ++ 0#1 ++ sz.code); .sts rw_.ctlL (.ofCode rw_.sa) (.ofCode rw_.sb) (.ofCode rw_.sc) (.ofCode (fld rw_.md 0 3)) (bitOf rw_.md 4))) rfl ?_
  simp [*]
theorem sld (c : Ctl) (d a : Nat) (b : Option Nat) (sz : Size) (sx : Bool) (hint : Hint) : Statement (.sld c d a b sz sx hint) := by
  cases b with
  | none =>
    intro hw rw_ hr
    obtain rfl := Option.some.inj hr
    have pp := OpTab.parts (t := (Instr.sld c d a (none) sz sx hint).tab.getD default) hw
    have ho : (scOk ([d, a] ++ (none).toList) && sz.sxOk sx && sz != .b128) = true := pp.ok
    simp [scOk] at ho
    have hd9 : d < 512 := by omega
    have ha9 : a < 512 := by omega
    refine ⟨by simp [raw3, rawI, rawW], rfl, ?_⟩
    refine Eq.trans (b := some (let rw_ := raw3 0xA6 c (.ofNat 9 d) (.ofNat 9 a) (optSCode ((none) : Option Nat)) 0 ((bit c.fb) ++ (bit ((none) : Option Nat).isSome) ++ hint.code ++ (bit sx) ++ sz.code); .sld rw_.ctlL rw_.dst.toNat rw_.sa.toNat (if bitOf rw_.md 6 then some rw_.sb.toNat else none) (.ofCode (fld rw_.md 0 3)) (bitOf rw_.md 3) (.ofCode (fld rw_.md 4 2)))) rfl ?_
    simp [*, MoviMode.ofRaw, MoviMode.saCode, MoviMode.imm, SmoviMode.ofRaw, SmoviMode.saCode, SmoviMode.imm, PDst.code, PDst.isPred, optCode, optSCode]
  | some x =>
    intro hw rw_ hr
    obtain rfl := Option.some.inj hr
    have pp := OpTab.parts (t := (Instr.sld c d a (some x) sz sx hint).tab.getD default) hw
    have ho : (scOk ([d, a] ++ (some x).toList) && sz.sxOk sx && sz != .b128) = true := pp.ok
    simp [scOk] at ho
    have hd9 : d < 512 := by omega
    have ha9 : a < 512 := by omega
    have hx9 : x < 512 := by omega
    refine ⟨by simp [raw3, rawI, rawW], rfl, ?_⟩
    refine Eq.trans (b := some (let rw_ := raw3 0xA6 c (.ofNat 9 d) (.ofNat 9 a) (optSCode ((some x) : Option Nat)) 0 ((bit c.fb) ++ (bit ((some x) : Option Nat).isSome) ++ hint.code ++ (bit sx) ++ sz.code); .sld rw_.ctlL rw_.dst.toNat rw_.sa.toNat (if bitOf rw_.md 6 then some rw_.sb.toNat else none) (.ofCode (fld rw_.md 0 3)) (bitOf rw_.md 3) (.ofCode (fld rw_.md 4 2)))) rfl ?_
    simp [*, MoviMode.ofRaw, MoviMode.saCode, MoviMode.imm, SmoviMode.ofRaw, SmoviMode.saCode, SmoviMode.imm, PDst.code, PDst.isPred, optCode, optSCode]
theorem sst (c : Ctl) (a : Nat) (b : Option Nat) (e : Nat) (sz : Size) (hint : Hint) : Statement (.sst c a b e sz hint) := by
  cases b with
  | none =>
    intro hw rw_ hr
    obtain rfl := Option.some.inj hr
    have pp := OpTab.parts (t := (Instr.sst c a (none) e sz hint).tab.getD default) hw
    have ho : (scOk ([a, e] ++ (none).toList) && sz != .b128) = true := pp.ok
    simp [scOk] at ho
    have ha9 : a < 512 := by omega
    have he9 : e < 512 := by omega
    refine ⟨by simp [raw3, rawI, rawW], rfl, ?_⟩
    refine Eq.trans (b := some (let rw_ := raw3 0xA7 c (.ofNat 9 e) (.ofNat 9 a) (optSCode ((none) : Option Nat)) 0 ((bit c.fb) ++ (bit ((none) : Option Nat).isSome) ++ hint.code ++ 0#1 ++ sz.code); .sst rw_.ctlL rw_.sa.toNat (if bitOf rw_.md 6 then some rw_.sb.toNat else none) rw_.dst.toNat (.ofCode (fld rw_.md 0 3)) (.ofCode (fld rw_.md 4 2)))) rfl ?_
    simp [*, MoviMode.ofRaw, MoviMode.saCode, MoviMode.imm, SmoviMode.ofRaw, SmoviMode.saCode, SmoviMode.imm, PDst.code, PDst.isPred, optCode, optSCode]
  | some x =>
    intro hw rw_ hr
    obtain rfl := Option.some.inj hr
    have pp := OpTab.parts (t := (Instr.sst c a (some x) e sz hint).tab.getD default) hw
    have ho : (scOk ([a, e] ++ (some x).toList) && sz != .b128) = true := pp.ok
    simp [scOk] at ho
    have ha9 : a < 512 := by omega
    have he9 : e < 512 := by omega
    have hx9 : x < 512 := by omega
    refine ⟨by simp [raw3, rawI, rawW], rfl, ?_⟩
    refine Eq.trans (b := some (let rw_ := raw3 0xA7 c (.ofNat 9 e) (.ofNat 9 a) (optSCode ((some x) : Option Nat)) 0 ((bit c.fb) ++ (bit ((some x) : Option Nat).isSome) ++ hint.code ++ 0#1 ++ sz.code); .sst rw_.ctlL rw_.sa.toNat (if bitOf rw_.md 6 then some rw_.sb.toNat else none) rw_.dst.toNat (.ofCode (fld rw_.md 0 3)) (.ofCode (fld rw_.md 4 2)))) rfl ?_
    simp [*, MoviMode.ofRaw, MoviMode.saCode, MoviMode.imm, SmoviMode.ofRaw, SmoviMode.saCode, SmoviMode.imm, PDst.code, PDst.isPred, optCode, optSCode]
theorem atom (c : Ctl) (d a e : Opnd) (op : AtomOp) (w : Bool) (sc : Scope) (ord : Ord4) : Statement (.atom c d a e op w sc ord) := by
  intro hw rw_ hr
  obtain rfl := Option.some.inj hr
  have pp := OpTab.parts (t := (Instr.atom c d a e op w sc ord).tab.getD default) hw
  have ha : Opnd.ok a = true := pp.a
  have he : Opnd.ok e = true := pp.e
  have hd : Opnd.ok d = true := pp.d
  refine ⟨by simp [raw3, rawI, rawW], rfl, ?_⟩
  refine Eq.trans (b := some (let rw_ := raw3 0xA8 c d.code a.code (0#4 ++ ord.code ++ sc.code) e.code ((bit c.fb) ++ 0#2 ++ (bit w) ++ op.code); .atom rw_.ctlL (.ofCode rw_.dst) (.ofCode rw_.sa) (.ofCode rw_.sc) (.ofCode (fld rw_.md 0 4)) (bitOf rw_.md 4) (.ofCode (fld rw_.sb 0 3)) (.ofCode (fld rw_.sb 3 2)))) rfl ?_
  simp [*]
theorem atoms (c : Ctl) (d a e : Opnd) (op : AtomOp) (w : Bool) (sc : Scope) (ord : Ord4) : Statement (.atoms c d a e op w sc ord) := by
  intro hw rw_ hr
  obtain rfl := Option.some.inj hr
  have pp := OpTab.parts (t := (Instr.atoms c d a e op w sc ord).tab.getD default) hw
  have ha : Opnd.ok a = true := pp.a
  have he : Opnd.ok e = true := pp.e
  have hd : Opnd.ok d = true := pp.d
  refine ⟨by simp [raw3, rawI, rawW], rfl, ?_⟩
  refine Eq.trans (b := some (let rw_ := raw3 0xA9 c d.code a.code (0#4 ++ ord.code ++ sc.code) e.code ((bit c.fb) ++ 0#2 ++ (bit w) ++ op.code); .atoms rw_.ctlL (.ofCode rw_.dst) (.ofCode rw_.sa) (.ofCode rw_.sc) (.ofCode (fld rw_.md 0 4)) (bitOf rw_.md 4) (.ofCode (fld rw_.sb 0 3)) (.ofCode (fld rw_.sb 3 2)))) rfl ?_
  simp [*]
theorem red (c : Ctl) (a e : Opnd) (op : AtomOp) (w : Bool) (sc : Scope) (ord : Ord4) : Statement (.red c a e op w sc ord) := by
  intro hw rw_ hr
  obtain rfl := Option.some.inj hr
  have pp := OpTab.parts (t := (Instr.red c a e op w sc ord).tab.getD default) hw
  have ha : Opnd.ok a = true := pp.a
  have he : Opnd.ok e = true := pp.e
  refine ⟨by simp [raw3, rawI, rawW], rfl, ?_⟩
  refine Eq.trans (b := some (let rw_ := raw3 0xAA c 448#9 a.code (0#4 ++ ord.code ++ sc.code) e.code ((bit c.fb) ++ 0#2 ++ (bit w) ++ op.code); .red rw_.ctlL (.ofCode rw_.sa) (.ofCode rw_.sc) (.ofCode (fld rw_.md 0 4)) (bitOf rw_.md 4) (.ofCode (fld rw_.sb 0 3)) (.ofCode (fld rw_.sb 3 2)))) rfl ?_
  simp [*]
theorem fence (c : Ctl) (ord : Ord4) (sc : Scope) : Statement (.fence c ord sc) := by
  intro hw rw_ hr
  obtain rfl := Option.some.inj hr
  have pp := OpTab.parts (t := (Instr.fence c ord sc).tab.getD default) hw
  refine ⟨by simp [raw3, rawI, rawW], rfl, ?_⟩
  refine Eq.trans (b := some (let rw_ := raw3 0xB0 c 448#9 0 0 0 ((bit c.fb) ++ 0#2 ++ sc.code ++ ord.code); .fence rw_.ctlL (.ofCode (fld rw_.md 0 2)) (.ofCode (fld rw_.md 2 3)))) rfl ?_
  simp [*]
theorem publish (c : Ctl) (a b : Opnd) (is : Bool) (len : Option Opnd) : Statement (.publish c a b is len) := by
  cases len with
  | none =>
    intro hw rw_ hr
    obtain rfl := Option.some.inj hr
    have pp := OpTab.parts (t := (Instr.publish c a b is (none)).tab.getD default) hw
    have ha : Opnd.ok a = true := pp.a
    have hb : Opnd.ok b = true := pp.b
    refine ⟨by simp [raw3, rawI, rawW], rfl, ?_⟩
    refine Eq.trans (b := some (let rw_ := raw3 0xB1 c 448#9 a.code b.code (optCode ((none) : Option Opnd)) ((bit c.fb) ++ (bit is) ++ 0#5 ++ (bit ((none) : Option Opnd).isSome)); .publish rw_.ctlL (.ofCode rw_.sa) (.ofCode rw_.sb) (bitOf rw_.md 6) (if bitOf rw_.md 0 then some (.ofCode rw_.sc) else none))) rfl ?_
    simp [*, MoviMode.ofRaw, MoviMode.saCode, MoviMode.imm, SmoviMode.ofRaw, SmoviMode.saCode, SmoviMode.imm, PDst.code, PDst.isPred, optCode, optSCode]
  | some x =>
    intro hw rw_ hr
    obtain rfl := Option.some.inj hr
    have pp := OpTab.parts (t := (Instr.publish c a b is (some x)).tab.getD default) hw
    have ha : Opnd.ok a = true := pp.a
    have hb : Opnd.ok b = true := pp.b
    have he : Opnd.ok x = true := pp.e
    refine ⟨by simp [raw3, rawI, rawW], rfl, ?_⟩
    refine Eq.trans (b := some (let rw_ := raw3 0xB1 c 448#9 a.code b.code (optCode ((some x) : Option Opnd)) ((bit c.fb) ++ (bit is) ++ 0#5 ++ (bit ((some x) : Option Opnd).isSome)); .publish rw_.ctlL (.ofCode rw_.sa) (.ofCode rw_.sb) (bitOf rw_.md 6) (if bitOf rw_.md 0 then some (.ofCode rw_.sc) else none))) rfl ?_
    simp [*, MoviMode.ofRaw, MoviMode.saCode, MoviMode.imm, SmoviMode.ofRaw, SmoviMode.saCode, SmoviMode.imm, PDst.code, PDst.isPred, optCode, optSCode]
theorem pref (c : Ctl) (a b : Opnd) (is : Bool) (len : Option Opnd) (l1 : Bool) (hint : Hint) : Statement (.pref c a b is len l1 hint) := by
  cases len with
  | none =>
    intro hw rw_ hr
    obtain rfl := Option.some.inj hr
    have pp := OpTab.parts (t := (Instr.pref c a b is (none) l1 hint).tab.getD default) hw
    have ha : Opnd.ok a = true := pp.a
    have hb : Opnd.ok b = true := pp.b
    refine ⟨by simp [raw3, rawI, rawW], rfl, ?_⟩
    refine Eq.trans (b := some (let rw_ := raw3 0xB2 c 448#9 a.code b.code (optCode ((none) : Option Opnd)) ((bit c.fb) ++ (bit is) ++ hint.code ++ 0#2 ++ (bit l1) ++ (bit ((none) : Option Opnd).isSome)); .pref rw_.ctlL (.ofCode rw_.sa) (.ofCode rw_.sb) (bitOf rw_.md 6) (if bitOf rw_.md 0 then some (.ofCode rw_.sc) else none) (bitOf rw_.md 1) (.ofCode (fld rw_.md 4 2)))) rfl ?_
    simp [*, MoviMode.ofRaw, MoviMode.saCode, MoviMode.imm, SmoviMode.ofRaw, SmoviMode.saCode, SmoviMode.imm, PDst.code, PDst.isPred, optCode, optSCode]
  | some x =>
    intro hw rw_ hr
    obtain rfl := Option.some.inj hr
    have pp := OpTab.parts (t := (Instr.pref c a b is (some x) l1 hint).tab.getD default) hw
    have ha : Opnd.ok a = true := pp.a
    have hb : Opnd.ok b = true := pp.b
    have he : Opnd.ok x = true := pp.e
    refine ⟨by simp [raw3, rawI, rawW], rfl, ?_⟩
    refine Eq.trans (b := some (let rw_ := raw3 0xB2 c 448#9 a.code b.code (optCode ((some x) : Option Opnd)) ((bit c.fb) ++ (bit is) ++ hint.code ++ 0#2 ++ (bit l1) ++ (bit ((some x) : Option Opnd).isSome)); .pref rw_.ctlL (.ofCode rw_.sa) (.ofCode rw_.sb) (bitOf rw_.md 6) (if bitOf rw_.md 0 then some (.ofCode rw_.sc) else none) (bitOf rw_.md 1) (.ofCode (fld rw_.md 4 2)))) rfl ?_
    simp [*, MoviMode.ofRaw, MoviMode.saCode, MoviMode.imm, SmoviMode.ofRaw, SmoviMode.saCode, SmoviMode.imm, PDst.code, PDst.isPred, optCode, optSCode]
theorem clean (c : Ctl) (a b : Opnd) (is : Bool) (len : Option Opnd) : Statement (.clean c a b is len) := by
  cases len with
  | none =>
    intro hw rw_ hr
    obtain rfl := Option.some.inj hr
    have pp := OpTab.parts (t := (Instr.clean c a b is (none)).tab.getD default) hw
    have ha : Opnd.ok a = true := pp.a
    have hb : Opnd.ok b = true := pp.b
    refine ⟨by simp [raw3, rawI, rawW], rfl, ?_⟩
    refine Eq.trans (b := some (let rw_ := raw3 0xB3 c 448#9 a.code b.code (optCode ((none) : Option Opnd)) ((bit c.fb) ++ (bit is) ++ 0#5 ++ (bit ((none) : Option Opnd).isSome)); .clean rw_.ctlL (.ofCode rw_.sa) (.ofCode rw_.sb) (bitOf rw_.md 6) (if bitOf rw_.md 0 then some (.ofCode rw_.sc) else none))) rfl ?_
    simp [*, MoviMode.ofRaw, MoviMode.saCode, MoviMode.imm, SmoviMode.ofRaw, SmoviMode.saCode, SmoviMode.imm, PDst.code, PDst.isPred, optCode, optSCode]
  | some x =>
    intro hw rw_ hr
    obtain rfl := Option.some.inj hr
    have pp := OpTab.parts (t := (Instr.clean c a b is (some x)).tab.getD default) hw
    have ha : Opnd.ok a = true := pp.a
    have hb : Opnd.ok b = true := pp.b
    have he : Opnd.ok x = true := pp.e
    refine ⟨by simp [raw3, rawI, rawW], rfl, ?_⟩
    refine Eq.trans (b := some (let rw_ := raw3 0xB3 c 448#9 a.code b.code (optCode ((some x) : Option Opnd)) ((bit c.fb) ++ (bit is) ++ 0#5 ++ (bit ((some x) : Option Opnd).isSome)); .clean rw_.ctlL (.ofCode rw_.sa) (.ofCode rw_.sb) (bitOf rw_.md 6) (if bitOf rw_.md 0 then some (.ofCode rw_.sc) else none))) rfl ?_
    simp [*, MoviMode.ofRaw, MoviMode.saCode, MoviMode.imm, SmoviMode.ofRaw, SmoviMode.saCode, SmoviMode.imm, PDst.code, PDst.isPred, optCode, optSCode]
theorem inval (c : Ctl) (a b : Opnd) (is : Bool) (len : Option Opnd) : Statement (.inval c a b is len) := by
  cases len with
  | none =>
    intro hw rw_ hr
    obtain rfl := Option.some.inj hr
    have pp := OpTab.parts (t := (Instr.inval c a b is (none)).tab.getD default) hw
    have ha : Opnd.ok a = true := pp.a
    have hb : Opnd.ok b = true := pp.b
    refine ⟨by simp [raw3, rawI, rawW], rfl, ?_⟩
    refine Eq.trans (b := some (let rw_ := raw3 0xB4 c 448#9 a.code b.code (optCode ((none) : Option Opnd)) ((bit c.fb) ++ (bit is) ++ 0#5 ++ (bit ((none) : Option Opnd).isSome)); .inval rw_.ctlL (.ofCode rw_.sa) (.ofCode rw_.sb) (bitOf rw_.md 6) (if bitOf rw_.md 0 then some (.ofCode rw_.sc) else none))) rfl ?_
    simp [*, MoviMode.ofRaw, MoviMode.saCode, MoviMode.imm, SmoviMode.ofRaw, SmoviMode.saCode, SmoviMode.imm, PDst.code, PDst.isPred, optCode, optSCode]
  | some x =>
    intro hw rw_ hr
    obtain rfl := Option.some.inj hr
    have pp := OpTab.parts (t := (Instr.inval c a b is (some x)).tab.getD default) hw
    have ha : Opnd.ok a = true := pp.a
    have hb : Opnd.ok b = true := pp.b
    have he : Opnd.ok x = true := pp.e
    refine ⟨by simp [raw3, rawI, rawW], rfl, ?_⟩
    refine Eq.trans (b := some (let rw_ := raw3 0xB4 c 448#9 a.code b.code (optCode ((some x) : Option Opnd)) ((bit c.fb) ++ (bit is) ++ 0#5 ++ (bit ((some x) : Option Opnd).isSome)); .inval rw_.ctlL (.ofCode rw_.sa) (.ofCode rw_.sb) (bitOf rw_.md 6) (if bitOf rw_.md 0 then some (.ofCode rw_.sc) else none))) rfl ?_
    simp [*, MoviMode.ofRaw, MoviMode.saCode, MoviMode.imm, SmoviMode.ofRaw, SmoviMode.saCode, SmoviMode.imm, PDst.code, PDst.isPred, optCode, optSCode]
theorem feset (c : Ctl) (a b e : Opnd) : Statement (.feset c a b e) := by
  intro hw rw_ hr
  obtain rfl := Option.some.inj hr
  have pp := OpTab.parts (t := (Instr.feset c a b e).tab.getD default) hw
  have ha : Opnd.ok a = true := pp.a
  have hb : Opnd.ok b = true := pp.b
  have he : Opnd.ok e = true := pp.e
  refine ⟨by simp [raw3, rawI, rawW], rfl, ?_⟩
  refine Eq.trans (b := some (let rw_ := raw3 0xB8 c 448#9 a.code b.code e.code ((bit c.fb) ++ 0#7); .feset rw_.ctlL (.ofCode rw_.sa) (.ofCode rw_.sb) (.ofCode rw_.sc))) rfl ?_
  simp [*]
theorem feclr (c : Ctl) (a b e : Opnd) : Statement (.feclr c a b e) := by
  intro hw rw_ hr
  obtain rfl := Option.some.inj hr
  have pp := OpTab.parts (t := (Instr.feclr c a b e).tab.getD default) hw
  have ha : Opnd.ok a = true := pp.a
  have hb : Opnd.ok b = true := pp.b
  have he : Opnd.ok e = true := pp.e
  refine ⟨by simp [raw3, rawI, rawW], rfl, ?_⟩
  refine Eq.trans (b := some (let rw_ := raw3 0xB9 c 448#9 a.code b.code e.code ((bit c.fb) ++ 0#7); .feclr rw_.ctlL (.ofCode rw_.sa) (.ofCode rw_.sb) (.ofCode rw_.sc))) rfl ?_
  simp [*]
theorem fewait (c : Ctl) (a b e : Opnd) (empty : Bool) : Statement (.fewait c a b e empty) := by
  intro hw rw_ hr
  obtain rfl := Option.some.inj hr
  have pp := OpTab.parts (t := (Instr.fewait c a b e empty).tab.getD default) hw
  have ha : Opnd.ok a = true := pp.a
  have hb : Opnd.ok b = true := pp.b
  have he : Opnd.ok e = true := pp.e
  refine ⟨by simp [raw3, rawI, rawW], rfl, ?_⟩
  refine Eq.trans (b := some (let rw_ := raw3 0xBA c 448#9 a.code b.code e.code ((bit c.fb) ++ 0#6 ++ (bit empty)); .fewait rw_.ctlL (.ofCode rw_.sa) (.ofCode rw_.sb) (.ofCode rw_.sc) (bitOf rw_.md 0))) rfl ?_
  simp [*]
theorem tsrset (c : Ctl) (d a : Opnd) (k : BitVec 4) : Statement (.tsrset c d a k) := by
  intro hw rw_ hr
  obtain rfl := Option.some.inj hr
  have pp := OpTab.parts (t := (Instr.tsrset c d a k).tab.getD default) hw
  have ha : Opnd.ok a = true := pp.a
  have hd : Opnd.ok d = true := pp.d
  refine ⟨by simp [raw3, rawI, rawW], rfl, ?_⟩
  refine Eq.trans (b := some (let rw_ := raw3 0xC0 c d.code a.code (blkCode k) 0 ((bit c.fb) ++ 0#7); .tsrset rw_.ctlL (.ofCode rw_.dst) (.ofCode rw_.sa) (fld (rw_.sb - 0x140) 3 4))) rfl ?_
  simp [*]
theorem cpyin (c : Ctl) (t k dsc : Nat) : Statement (.cpyin c t k dsc) := by
  intro hw rw_ hr
  obtain rfl := Option.some.inj hr
  have pp := OpTab.parts (t := (Instr.cpyin c t k dsc).tab.getD default) hw
  have ha : Opnd.ok (.s t) = true := pp.a
  simp only [Opnd.ok, decide_eq_true_eq] at ha
  have ha9 : (320 + t) % 512 - 320 = t := s9 _ ha
  have hb : Opnd.ok (.s k) = true := pp.b
  simp only [Opnd.ok, decide_eq_true_eq] at hb
  have hb9 : (320 + k) % 512 - 320 = k := s9 _ hb
  have he : Opnd.ok (.s dsc) = true := pp.e
  simp only [Opnd.ok, decide_eq_true_eq] at he
  have he9 : (320 + dsc) % 512 - 320 = dsc := s9 _ he
  refine ⟨by simp [raw3, rawI, rawW], rfl, ?_⟩
  refine Eq.trans (b := some (let rw_ := raw3 0xC1 c 448#9 (.ofNat 9 (320 + t)) (.ofNat 9 (320 + k)) (.ofNat 9 (320 + dsc)) ((bit c.fb) ++ 0#7); .cpyin rw_.ctlL (rw_.sa.toNat - 320) (rw_.sb.toNat - 320) (rw_.sc.toNat - 320))) rfl ?_
  simp [*]
theorem cpyout (c : Ctl) (t k dsc : Nat) : Statement (.cpyout c t k dsc) := by
  intro hw rw_ hr
  obtain rfl := Option.some.inj hr
  have pp := OpTab.parts (t := (Instr.cpyout c t k dsc).tab.getD default) hw
  have ha : Opnd.ok (.s t) = true := pp.a
  simp only [Opnd.ok, decide_eq_true_eq] at ha
  have ha9 : (320 + t) % 512 - 320 = t := s9 _ ha
  have hb : Opnd.ok (.s k) = true := pp.b
  simp only [Opnd.ok, decide_eq_true_eq] at hb
  have hb9 : (320 + k) % 512 - 320 = k := s9 _ hb
  have he : Opnd.ok (.s dsc) = true := pp.e
  simp only [Opnd.ok, decide_eq_true_eq] at he
  have he9 : (320 + dsc) % 512 - 320 = dsc := s9 _ he
  refine ⟨by simp [raw3, rawI, rawW], rfl, ?_⟩
  refine Eq.trans (b := some (let rw_ := raw3 0xC2 c 448#9 (.ofNat 9 (320 + t)) (.ofNat 9 (320 + k)) (.ofNat 9 (320 + dsc)) ((bit c.fb) ++ 0#7); .cpyout rw_.ctlL (rw_.sa.toNat - 320) (rw_.sb.toNat - 320) (rw_.sc.toNat - 320))) rfl ?_
  simp [*]
theorem cpyobG (c : Ctl) (t k ob : Nat) : Statement (.cpyobG c t k ob) := by
  intro hw rw_ hr
  obtain rfl := Option.some.inj hr
  have pp := OpTab.parts (t := (Instr.cpyobG c t k ob).tab.getD default) hw
  have ha : Opnd.ok (.s t) = true := pp.a
  simp only [Opnd.ok, decide_eq_true_eq] at ha
  have ha9 : (320 + t) % 512 - 320 = t := s9 _ ha
  have hb : Opnd.ok (.s k) = true := pp.b
  simp only [Opnd.ok, decide_eq_true_eq] at hb
  have hb9 : (320 + k) % 512 - 320 = k := s9 _ hb
  have he : Opnd.ok (.s ob) = true := pp.e
  simp only [Opnd.ok, decide_eq_true_eq] at he
  have he9 : (320 + ob) % 512 - 320 = ob := s9 _ he
  refine ⟨by simp [raw3, rawI, rawW], rfl, ?_⟩
  refine Eq.trans (b := let rw_ := raw3 0xC3 c 448#9 (.ofNat 9 (320 + t)) (.ofNat 9 (320 + k)) (.ofNat 9 (320 + ob)) ((bit c.fb) ++ 0#5 ++ 0#2); match (fld rw_.md 0 2).toNat with | 0 => some (.cpyobG rw_.ctlL (rw_.sa.toNat - 320) (rw_.sb.toNat - 320) (rw_.sc.toNat - 320)) | 1 => some (.cpyobS rw_.ctlL (.ofCode rw_.sa) (.ofCode rw_.sb) (rw_.sc.toNat - 320)) | 2 => some (.cpyobO rw_.ctlL (.ofCode rw_.sa) (.ofCode rw_.sb) (rw_.sc.toNat - 320)) | _ => none) rfl ?_
  simp [*]
theorem cpyobS (c : Ctl) (a len : Opnd) (ob : Nat) : Statement (.cpyobS c a len ob) := by
  intro hw rw_ hr
  obtain rfl := Option.some.inj hr
  have pp := OpTab.parts (t := (Instr.cpyobS c a len ob).tab.getD default) hw
  have ha : Opnd.ok a = true := pp.a
  have hb : Opnd.ok len = true := pp.b
  have he : Opnd.ok (.s ob) = true := pp.e
  simp only [Opnd.ok, decide_eq_true_eq] at he
  have he9 : (320 + ob) % 512 - 320 = ob := s9 _ he
  refine ⟨by simp [raw3, rawI, rawW], rfl, ?_⟩
  refine Eq.trans (b := let rw_ := raw3 0xC3 c 448#9 a.code len.code (.ofNat 9 (320 + ob)) ((bit c.fb) ++ 0#5 ++ 1#2); match (fld rw_.md 0 2).toNat with | 0 => some (.cpyobG rw_.ctlL (rw_.sa.toNat - 320) (rw_.sb.toNat - 320) (rw_.sc.toNat - 320)) | 1 => some (.cpyobS rw_.ctlL (.ofCode rw_.sa) (.ofCode rw_.sb) (rw_.sc.toNat - 320)) | 2 => some (.cpyobO rw_.ctlL (.ofCode rw_.sa) (.ofCode rw_.sb) (rw_.sc.toNat - 320)) | _ => none) rfl ?_
  simp [*]
theorem cpyobO (c : Ctl) (a len : Opnd) (ob : Nat) : Statement (.cpyobO c a len ob) := by
  intro hw rw_ hr
  obtain rfl := Option.some.inj hr
  have pp := OpTab.parts (t := (Instr.cpyobO c a len ob).tab.getD default) hw
  have ha : Opnd.ok a = true := pp.a
  have hb : Opnd.ok len = true := pp.b
  have he : Opnd.ok (.s ob) = true := pp.e
  simp only [Opnd.ok, decide_eq_true_eq] at he
  have he9 : (320 + ob) % 512 - 320 = ob := s9 _ he
  refine ⟨by simp [raw3, rawI, rawW], rfl, ?_⟩
  refine Eq.trans (b := let rw_ := raw3 0xC3 c 448#9 a.code len.code (.ofNat 9 (320 + ob)) ((bit c.fb) ++ 0#5 ++ 2#2); match (fld rw_.md 0 2).toNat with | 0 => some (.cpyobG rw_.ctlL (rw_.sa.toNat - 320) (rw_.sb.toNat - 320) (rw_.sc.toNat - 320)) | 1 => some (.cpyobS rw_.ctlL (.ofCode rw_.sa) (.ofCode rw_.sb) (rw_.sc.toNat - 320)) | 2 => some (.cpyobO rw_.ctlL (.ofCode rw_.sa) (.ofCode rw_.sb) (rw_.sc.toNat - 320)) | _ => none) rfl ?_
  simp [*]
theorem cpyred (c : Ctl) (t k dsc : Nat) (op : CpyRedOp) : Statement (.cpyred c t k dsc op) := by
  intro hw rw_ hr
  obtain rfl := Option.some.inj hr
  have pp := OpTab.parts (t := (Instr.cpyred c t k dsc op).tab.getD default) hw
  have ha : Opnd.ok (.s t) = true := pp.a
  simp only [Opnd.ok, decide_eq_true_eq] at ha
  have ha9 : (320 + t) % 512 - 320 = t := s9 _ ha
  have hb : Opnd.ok (.s k) = true := pp.b
  simp only [Opnd.ok, decide_eq_true_eq] at hb
  have hb9 : (320 + k) % 512 - 320 = k := s9 _ hb
  have he : Opnd.ok (.s dsc) = true := pp.e
  simp only [Opnd.ok, decide_eq_true_eq] at he
  have he9 : (320 + dsc) % 512 - 320 = dsc := s9 _ he
  refine ⟨by simp [raw3, rawI, rawW], rfl, ?_⟩
  refine Eq.trans (b := some (let rw_ := raw3 0xC4 c 448#9 (.ofNat 9 (320 + t)) (.ofNat 9 (320 + k)) (.ofNat 9 (320 + dsc)) ((bit c.fb) ++ 0#4 ++ op.code); .cpyred rw_.ctlL (rw_.sa.toNat - 320) (rw_.sb.toNat - 320) (rw_.sc.toNat - 320) (.ofCode (fld rw_.md 0 3)))) rfl ?_
  simp [*]
theorem cpypf (c : Ctl) (t k : Nat) (hint : Hint) : Statement (.cpypf c t k hint) := by
  intro hw rw_ hr
  obtain rfl := Option.some.inj hr
  have pp := OpTab.parts (t := (Instr.cpypf c t k hint).tab.getD default) hw
  have ha : Opnd.ok (.s t) = true := pp.a
  simp only [Opnd.ok, decide_eq_true_eq] at ha
  have ha9 : (320 + t) % 512 - 320 = t := s9 _ ha
  have hb : Opnd.ok (.s k) = true := pp.b
  simp only [Opnd.ok, decide_eq_true_eq] at hb
  have hb9 : (320 + k) % 512 - 320 = k := s9 _ hb
  refine ⟨by simp [raw3, rawI, rawW], rfl, ?_⟩
  refine Eq.trans (b := some (let rw_ := raw3 0xC5 c 448#9 (.ofNat 9 (320 + t)) (.ofNat 9 (320 + k)) 0 ((bit c.fb) ++ 0#1 ++ hint.code ++ 0#4); .cpypf rw_.ctlL (rw_.sa.toNat - 320) (rw_.sb.toNat - 320) (.ofCode (fld rw_.md 4 2)))) rfl ?_
  simp [*]
theorem cpycan (c : Ctl) (mask : BitVec 12) : Statement (.cpycan c mask) := by
  intro hw rw_ hr
  obtain rfl := Option.some.inj hr
  have pp := OpTab.parts (t := (Instr.cpycan c mask).tab.getD default) hw
  refine ⟨by simp [raw3, rawI, rawW], rfl, ?_⟩
  refine Eq.trans (b := some (let rw_ := raw3 0xC6 c 448#9 0 (0#5 ++ fld mask 8 4) (0#1 ++ fld mask 0 8) ((bit c.fb) ++ 0#7); .cpycan rw_.ctlL (fld rw_.sb 0 4 ++ fld rw_.sc 0 8))) rfl ?_
  simp [*, fld_split]; exact fld_split (n := 8) (k := 4) mask
theorem obres (c : Ctl) (d : Opnd) (a : Nat) : Statement (.obres c d a) := by
  intro hw rw_ hr
  obtain rfl := Option.some.inj hr
  have pp := OpTab.parts (t := (Instr.obres c d a).tab.getD default) hw
  have ha : Opnd.ok (.s a) = true := pp.a
  simp only [Opnd.ok, decide_eq_true_eq] at ha
  have ha9 : (320 + a) % 512 - 320 = a := s9 _ ha
  have hd : Opnd.ok d = true := pp.d
  refine ⟨by simp [raw3, rawI, rawW], rfl, ?_⟩
  refine Eq.trans (b := some (let rw_ := raw3 0xD0 c d.code (.ofNat 9 (320 + a)) 0 0 ((bit c.fb) ++ 0#7); .obres rw_.ctlL (.ofCode rw_.dst) (rw_.sa.toNat - 320))) rfl ?_
  simp [*]
theorem obrel (c : Ctl) (a : Opnd) : Statement (.obrel c a) := by
  intro hw rw_ hr
  obtain rfl := Option.some.inj hr
  have pp := OpTab.parts (t := (Instr.obrel c a).tab.getD default) hw
  have ha : Opnd.ok a = true := pp.a
  refine ⟨by simp [raw3, rawI, rawW], rfl, ?_⟩
  refine Eq.trans (b := some (let rw_ := raw3 0xD1 c 448#9 a.code 0 0 ((bit c.fb) ++ 0#7); .obrel rw_.ctlL (.ofCode rw_.sa))) rfl ?_
  simp [*]
theorem obput (c : Ctl) (a : Nat) (b e : Opnd) (w128 : Bool) : Statement (.obput c a b e w128) := by
  intro hw rw_ hr
  obtain rfl := Option.some.inj hr
  have pp := OpTab.parts (t := (Instr.obput c a b e w128).tab.getD default) hw
  have ha : Opnd.ok (.s a) = true := pp.a
  simp only [Opnd.ok, decide_eq_true_eq] at ha
  have ha9 : (320 + a) % 512 - 320 = a := s9 _ ha
  have hb : Opnd.ok b = true := pp.b
  have he : Opnd.ok e = true := pp.e
  refine ⟨by simp [raw3, rawI, rawW], rfl, ?_⟩
  refine Eq.trans (b := some (let rw_ := raw3 0xD2 c 448#9 (.ofNat 9 (320 + a)) b.code e.code ((bit c.fb) ++ 0#6 ++ (bit w128)); .obput rw_.ctlL (rw_.sa.toNat - 320) (.ofCode rw_.sb) (.ofCode rw_.sc) (bitOf rw_.md 0))) rfl ?_
  simp [*]
theorem obget (c : Ctl) (d : Opnd) (a : Nat) (b : Opnd) (w128 : Bool) : Statement (.obget c d a b w128) := by
  intro hw rw_ hr
  obtain rfl := Option.some.inj hr
  have pp := OpTab.parts (t := (Instr.obget c d a b w128).tab.getD default) hw
  have ha : Opnd.ok (.s a) = true := pp.a
  simp only [Opnd.ok, decide_eq_true_eq] at ha
  have ha9 : (320 + a) % 512 - 320 = a := s9 _ ha
  have hb : Opnd.ok b = true := pp.b
  have hd : Opnd.ok d = true := pp.d
  refine ⟨by simp [raw3, rawI, rawW], rfl, ?_⟩
  refine Eq.trans (b := some (let rw_ := raw3 0xD3 c d.code (.ofNat 9 (320 + a)) b.code 0 ((bit c.fb) ++ 0#6 ++ (bit w128)); .obget rw_.ctlL (.ofCode rw_.dst) (rw_.sa.toNat - 320) (.ofCode rw_.sb) (bitOf rw_.md 0))) rfl ?_
  simp [*]
theorem mzero (c : Ctl) (d : Nat) (a : Nat) : Statement (.mzero c d a) := by
  intro hw rw_ hr
  obtain rfl := Option.some.inj hr
  have pp := OpTab.parts (t := (Instr.mzero c d a).tab.getD default) hw
  have ha : Opnd.ok (.s a) = true := pp.a
  simp only [Opnd.ok, decide_eq_true_eq] at ha
  have ha9 : (320 + a) % 512 - 320 = a := s9 _ ha
  have hd : Opnd.ok (.v d) = true := pp.d
  simp only [Opnd.ok, decide_eq_true_eq] at hd
  have hd9 : d < 512 := by omega
  refine ⟨by simp [raw3, rawI, rawW], rfl, ?_⟩
  refine Eq.trans (b := some (let rw_ := raw3 0xD4 c (.ofNat 9 d) (.ofNat 9 (320 + a)) 0 0 ((bit c.fb) ++ 0#7); .mzero rw_.ctlL rw_.dst.toNat (rw_.sa.toNat - 320))) rfl ?_
  simp [*]
theorem mready (c : Ctl) (a : Nat) (n : BitVec 9) : Statement (.mready c a n) := by
  intro hw rw_ hr
  obtain rfl := Option.some.inj hr
  have pp := OpTab.parts (t := (Instr.mready c a n).tab.getD default) hw
  have ha : Opnd.ok (.v a) = true := pp.a
  simp only [Opnd.ok, decide_eq_true_eq] at ha
  have ha9 : a < 512 := by omega
  refine ⟨by simp [raw3, rawI, rawW], rfl, ?_⟩
  refine Eq.trans (b := some (let rw_ := raw3 0xD5 c 448#9 (.ofNat 9 a) n 0 ((bit c.fb) ++ 0#7); .mready rw_.ctlL rw_.sa.toNat rw_.sb)) rfl ?_
  simp [*]
theorem mloop (c : Ctl) (d : Nat) (k : BitVec 4) : Statement (.mloop c d k) := by
  intro hw rw_ hr
  obtain rfl := Option.some.inj hr
  have pp := OpTab.parts (t := (Instr.mloop c d k).tab.getD default) hw
  have hd : Opnd.ok (.v d) = true := pp.d
  simp only [Opnd.ok, decide_eq_true_eq] at hd
  have hd9 : d < 512 := by omega
  refine ⟨by simp [raw3, rawI, rawW], rfl, ?_⟩
  refine Eq.trans (b := some (let rw_ := raw3 0xD6 c (.ofNat 9 d) (blkCode k) 0 0 ((bit c.fb) ++ 0#7); .mloop rw_.ctlL rw_.dst.toNat (fld (rw_.sa - 0x140) 3 4))) rfl ?_
  simp [*]
theorem freeze (c : Ctl) (d : Opnd) (x : Nat) (k : BitVec 4) : Statement (.freeze c d x k) := by
  intro hw rw_ hr
  obtain rfl := Option.some.inj hr
  have pp := OpTab.parts (t := (Instr.freeze c d x k).tab.getD default) hw
  have ha : Opnd.ok (.v x) = true := pp.a
  simp only [Opnd.ok, decide_eq_true_eq] at ha
  have ha9 : x < 512 := by omega
  have hd : Opnd.ok d = true := pp.d
  refine ⟨by simp [raw3, rawI, rawW], rfl, ?_⟩
  refine Eq.trans (b := some (let rw_ := raw3 0xE0 c d.code (.ofNat 9 x) (blkCode k) 0 ((bit c.fb) ++ 0#7); .freeze rw_.ctlL (.ofCode rw_.dst) rw_.sa.toNat (fld (rw_.sb - 0x140) 3 4))) rfl ?_
  simp [*]
theorem stamp (c : Ctl) (d a : Opnd) (b : Nat) : Statement (.stamp c d a b) := by
  intro hw rw_ hr
  obtain rfl := Option.some.inj hr
  have pp := OpTab.parts (t := (Instr.stamp c d a b).tab.getD default) hw
  have ha : Opnd.ok a = true := pp.a
  have hb : Opnd.ok (.s b) = true := pp.b
  simp only [Opnd.ok, decide_eq_true_eq] at hb
  have hb9 : (320 + b) % 512 - 320 = b := s9 _ hb
  have hd : Opnd.ok d = true := pp.d
  refine ⟨by simp [raw3, rawI, rawW], rfl, ?_⟩
  refine Eq.trans (b := some (let rw_ := raw3 0xE1 c d.code a.code (.ofNat 9 (320 + b)) 0 ((bit c.fb) ++ 0#7); .stamp rw_.ctlL (.ofCode rw_.dst) (.ofCode rw_.sa) (rw_.sb.toNat - 320))) rfl ?_
  simp [*]
theorem spawn (c : Ctl) (e : Nat) (v : Opnd) (n : BitVec 3) (t : Opnd) : Statement (.spawn c e v n t) := by
  intro hw rw_ hr
  obtain rfl := Option.some.inj hr
  have pp := OpTab.parts (t := (Instr.spawn c e v n t).tab.getD default) hw
  have ha : Opnd.ok (.s e) = true := pp.a
  simp only [Opnd.ok, decide_eq_true_eq] at ha
  have ha9 : (320 + e) % 512 - 320 = e := s9 _ ha
  have he : Opnd.ok t = true := pp.e
  have hv : Opnd.ok v = true := by
    have hb := pp.b
    have ho := pp.ok
    simp only [Instr.tab, Option.getD_some] at hb ho
    by_cases h0 : n = 0#3
    · simp [h0] at ho; rw [ho.2]; rfl
    · simpa [h0] using hb
  refine ⟨by simp [raw3, rawI, rawW], rfl, ?_⟩
  refine Eq.trans (b := some (let rw_ := raw3 0xE2 c 448#9 (.ofNat 9 (320 + e)) v.code t.code ((bit c.fb) ++ 0#4 ++ n); .spawn rw_.ctlL (rw_.sa.toNat - 320) (.ofCode rw_.sb) (fld rw_.md 0 3) (.ofCode rw_.sc))) rfl ?_
  simp [*]
theorem tdrop (c : Ctl) (a : Opnd) : Statement (.tdrop c a) := by
  intro hw rw_ hr
  obtain rfl := Option.some.inj hr
  have pp := OpTab.parts (t := (Instr.tdrop c a).tab.getD default) hw
  have ha : Opnd.ok a = true := pp.a
  refine ⟨by simp [raw3, rawI, rawW], rfl, ?_⟩
  refine Eq.trans (b := some (let rw_ := raw3 0xE3 c 448#9 a.code 0 0 ((bit c.fb) ++ 0#7); .tdrop rw_.ctlL (.ofCode rw_.sa))) rfl ?_
  simp [*]
theorem tinfo (c : Ctl) (d a : Opnd) (sel : BitVec 3) : Statement (.tinfo c d a sel) := by
  intro hw rw_ hr
  obtain rfl := Option.some.inj hr
  have pp := OpTab.parts (t := (Instr.tinfo c d a sel).tab.getD default) hw
  have ha : Opnd.ok a = true := pp.a
  have hd : Opnd.ok d = true := pp.d
  refine ⟨by simp [raw3, rawI, rawW], rfl, ?_⟩
  refine Eq.trans (b := some (let rw_ := raw3 0xE4 c d.code a.code 0 0 ((bit c.fb) ++ 0#4 ++ sel); .tinfo rw_.ctlL (.ofCode rw_.dst) (.ofCode rw_.sa) (fld rw_.md 0 3))) rfl ?_
  simp [*]
theorem barArv (c : Ctl) (n : BitVec 4) : Statement (.barArv c n) := by
  intro hw rw_ hr
  obtain rfl := Option.some.inj hr
  have pp := OpTab.parts (t := (Instr.barArv c n).tab.getD default) hw
  refine ⟨by simp [raw3, rawI, rawW], rfl, ?_⟩
  refine Eq.trans (b := let rw_ := raw3 0xE5 c 448#9 0 0 0 ((bit c.fb) ++ 0#1 ++ 0#2 ++ n); match (fld rw_.md 4 2).toNat with | 0 => some (.barArv rw_.ctlL (fld rw_.md 0 4)) | 1 => some (.barArr rw_.ctlL (fld rw_.md 0 4)) | 2 => some (.barExp rw_.ctlL (.ofCode rw_.dst) (fld rw_.md 0 4) (.ofCode rw_.sa)) | _ => none) rfl ?_
  simp [*]
theorem barArr (c : Ctl) (n : BitVec 4) : Statement (.barArr c n) := by
  intro hw rw_ hr
  obtain rfl := Option.some.inj hr
  have pp := OpTab.parts (t := (Instr.barArr c n).tab.getD default) hw
  refine ⟨by simp [raw3, rawI, rawW], rfl, ?_⟩
  refine Eq.trans (b := let rw_ := raw3 0xE5 c 448#9 0 0 0 ((bit c.fb) ++ 0#1 ++ 1#2 ++ n); match (fld rw_.md 4 2).toNat with | 0 => some (.barArv rw_.ctlL (fld rw_.md 0 4)) | 1 => some (.barArr rw_.ctlL (fld rw_.md 0 4)) | 2 => some (.barExp rw_.ctlL (.ofCode rw_.dst) (fld rw_.md 0 4) (.ofCode rw_.sa)) | _ => none) rfl ?_
  simp [*]
theorem barExp (c : Ctl) (d : Opnd) (n : BitVec 4) (a : Opnd) : Statement (.barExp c d n a) := by
  intro hw rw_ hr
  obtain rfl := Option.some.inj hr
  have pp := OpTab.parts (t := (Instr.barExp c d n a).tab.getD default) hw
  have ha : Opnd.ok a = true := pp.a
  have hd : Opnd.ok d = true := pp.d
  refine ⟨by simp [raw3, rawI, rawW], rfl, ?_⟩
  refine Eq.trans (b := let rw_ := raw3 0xE5 c d.code a.code 0 0 ((bit c.fb) ++ 0#1 ++ 2#2 ++ n); match (fld rw_.md 4 2).toNat with | 0 => some (.barArv rw_.ctlL (fld rw_.md 0 4)) | 1 => some (.barArr rw_.ctlL (fld rw_.md 0 4)) | 2 => some (.barExp rw_.ctlL (.ofCode rw_.dst) (fld rw_.md 0 4) (.ofCode rw_.sa)) | _ => none) rfl ?_
  simp [*]
theorem racq (c : Ctl) (d : Opnd) (i : BitVec 3) : Statement (.racq c d i) := by
  intro hw rw_ hr
  obtain rfl := Option.some.inj hr
  have pp := OpTab.parts (t := (Instr.racq c d i).tab.getD default) hw
  have hd : Opnd.ok d = true := pp.d
  refine ⟨by simp [raw3, rawI, rawW], rfl, ?_⟩
  refine Eq.trans (b := some (let rw_ := raw3 0xE6 c d.code 0 0 0 ((bit c.fb) ++ 0#4 ++ i); .racq rw_.ctlL (.ofCode rw_.dst) (fld rw_.md 0 3))) rfl ?_
  simp [*]
theorem rpub (c : Ctl) (i : BitVec 3) : Statement (.rpub c i) := by
  intro hw rw_ hr
  obtain rfl := Option.some.inj hr
  have pp := OpTab.parts (t := (Instr.rpub c i).tab.getD default) hw
  refine ⟨by simp [raw3, rawI, rawW], rfl, ?_⟩
  refine Eq.trans (b := some (let rw_ := raw3 0xE7 c 448#9 0 0 0 ((bit c.fb) ++ 0#4 ++ i); .rpub rw_.ctlL (fld rw_.md 0 3))) rfl ?_
  simp [*]
theorem rtake (c : Ctl) (d : Opnd) (i : BitVec 3) : Statement (.rtake c d i) := by
  intro hw rw_ hr
  obtain rfl := Option.some.inj hr
  have pp := OpTab.parts (t := (Instr.rtake c d i).tab.getD default) hw
  have hd : Opnd.ok d = true := pp.d
  refine ⟨by simp [raw3, rawI, rawW], rfl, ?_⟩
  refine Eq.trans (b := some (let rw_ := raw3 0xE8 c d.code 0 0 0 ((bit c.fb) ++ 0#4 ++ i); .rtake rw_.ctlL (.ofCode rw_.dst) (fld rw_.md 0 3))) rfl ?_
  simp [*]
theorem rdone (c : Ctl) (i : BitVec 3) : Statement (.rdone c i) := by
  intro hw rw_ hr
  obtain rfl := Option.some.inj hr
  have pp := OpTab.parts (t := (Instr.rdone c i).tab.getD default) hw
  refine ⟨by simp [raw3, rawI, rawW], rfl, ?_⟩
  refine Eq.trans (b := some (let rw_ := raw3 0xE9 c 448#9 0 0 0 ((bit c.fb) ++ 0#4 ++ i); .rdone rw_.ctlL (fld rw_.md 0 3))) rfl ?_
  simp [*]
theorem send (c : Ctl) (l k r : Nat) (posted rel : Bool) : Statement (.send c l k r posted rel) := by
  intro hw rw_ hr
  obtain rfl := Option.some.inj hr
  have pp := OpTab.parts (t := (Instr.send c l k r posted rel).tab.getD default) hw
  have ha : Opnd.ok (.s l) = true := pp.a
  simp only [Opnd.ok, decide_eq_true_eq] at ha
  have ha9 : (320 + l) % 512 - 320 = l := s9 _ ha
  have hb : Opnd.ok (.s k) = true := pp.b
  simp only [Opnd.ok, decide_eq_true_eq] at hb
  have hb9 : (320 + k) % 512 - 320 = k := s9 _ hb
  have he : Opnd.ok (.s r) = true := pp.e
  simp only [Opnd.ok, decide_eq_true_eq] at he
  have he9 : (320 + r) % 512 - 320 = r := s9 _ he
  refine ⟨by simp [raw3, rawI, rawW], rfl, ?_⟩
  refine Eq.trans (b := some (let rw_ := raw3 0xEA c 448#9 (.ofNat 9 (320 + l)) (.ofNat 9 (320 + k)) (.ofNat 9 (320 + r)) ((bit c.fb) ++ 0#5 ++ (bit rel) ++ (bit posted)); .send rw_.ctlL (rw_.sa.toNat - 320) (rw_.sb.toNat - 320) (rw_.sc.toNat - 320) (bitOf rw_.md 0) (bitOf rw_.md 1))) rfl ?_
  simp [*]
theorem fget (c : Ctl) (l k r : Nat) (acq : Bool) : Statement (.fget c l k r acq) := by
  intro hw rw_ hr
  obtain rfl := Option.some.inj hr
  have pp := OpTab.parts (t := (Instr.fget c l k r acq).tab.getD default) hw
  have ha : Opnd.ok (.s l) = true := pp.a
  simp only [Opnd.ok, decide_eq_true_eq] at ha
  have ha9 : (320 + l) % 512 - 320 = l := s9 _ ha
  have hb : Opnd.ok (.s k) = true := pp.b
  simp only [Opnd.ok, decide_eq_true_eq] at hb
  have hb9 : (320 + k) % 512 - 320 = k := s9 _ hb
  have he : Opnd.ok (.s r) = true := pp.e
  simp only [Opnd.ok, decide_eq_true_eq] at he
  have he9 : (320 + r) % 512 - 320 = r := s9 _ he
  refine ⟨by simp [raw3, rawI, rawW], rfl, ?_⟩
  refine Eq.trans (b := some (let rw_ := raw3 0xEB c 448#9 (.ofNat 9 (320 + l)) (.ofNat 9 (320 + k)) (.ofNat 9 (320 + r)) ((bit c.fb) ++ 0#5 ++ (bit acq) ++ 0#1); .fget rw_.ctlL (rw_.sa.toNat - 320) (rw_.sb.toNat - 320) (rw_.sc.toNat - 320) (bitOf rw_.md 1))) rfl ?_
  simp [*]
theorem dalloc (c : Ctl) (d a : Opnd) : Statement (.dalloc c d a) := by
  intro hw rw_ hr
  obtain rfl := Option.some.inj hr
  have pp := OpTab.parts (t := (Instr.dalloc c d a).tab.getD default) hw
  have ha : Opnd.ok a = true := pp.a
  have hd : Opnd.ok d = true := pp.d
  refine ⟨by simp [raw3, rawI, rawW], rfl, ?_⟩
  refine Eq.trans (b := some (let rw_ := raw3 0xEC c d.code a.code 0 0 ((bit c.fb) ++ 0#7); .dalloc rw_.ctlL (.ofCode rw_.dst) (.ofCode rw_.sa))) rfl ?_
  simp [*]
theorem dfree (c : Ctl) (a b : Opnd) : Statement (.dfree c a b) := by
  intro hw rw_ hr
  obtain rfl := Option.some.inj hr
  have pp := OpTab.parts (t := (Instr.dfree c a b).tab.getD default) hw
  have ha : Opnd.ok a = true := pp.a
  have hb : Opnd.ok b = true := pp.b
  refine ⟨by simp [raw3, rawI, rawW], rfl, ?_⟩
  refine Eq.trans (b := some (let rw_ := raw3 0xED c 448#9 a.code b.code 0 ((bit c.fb) ++ 0#7); .dfree rw_.ctlL (.ofCode rw_.sa) (.ofCode rw_.sb))) rfl ?_
  simp [*]
theorem live (c : Ctl) (k : BitVec 12) : Statement (.live c k) := by
  intro hw rw_ hr
  obtain rfl := Option.some.inj hr
  have pp := OpTab.parts (t := (Instr.live c k).tab.getD default) hw
  have hf : c.fb = false := pp.fb nofun
  refine ⟨by simp [raw3, rawI, rawW], rfl, ?_⟩
  refine Eq.trans (b := some (let rw_ := rawI 0xF0 c 448#9 0 0 (0#5 ++ k); .live rw_.ctl (fld rw_.tail 0 12))) rfl ?_
  simp [*]
theorem trap (c : Ctl) (imm : BitVec 17) : Statement (.trap c imm) := by
  intro hw rw_ hr
  obtain rfl := Option.some.inj hr
  have pp := OpTab.parts (t := (Instr.trap c imm).tab.getD default) hw
  have hf : c.fb = false := pp.fb nofun
  refine ⟨by simp [raw3, rawI, rawW], rfl, ?_⟩
  refine Eq.trans (b := some (let rw_ := rawI 0xF1 c 448#9 0 0 imm; .trap rw_.ctl rw_.tail)) rfl ?_
  simp [*]
theorem bkpt (c : Ctl) (imm : BitVec 17) : Statement (.bkpt c imm) := by
  intro hw rw_ hr
  obtain rfl := Option.some.inj hr
  have pp := OpTab.parts (t := (Instr.bkpt c imm).tab.getD default) hw
  have hf : c.fb = false := pp.fb nofun
  refine ⟨by simp [raw3, rawI, rawW], rfl, ?_⟩
  refine Eq.trans (b := some (let rw_ := rawI 0xF9 c 448#9 0 0 imm; .bkpt rw_.ctl rw_.tail)) rfl ?_
  simp [*]
theorem hcall (c : Ctl) (d : Opnd) (k : BitVec 4) : Statement (.hcall c d k) := by
  intro hw rw_ hr
  obtain rfl := Option.some.inj hr
  have pp := OpTab.parts (t := (Instr.hcall c d k).tab.getD default) hw
  have hd : Opnd.ok d = true := pp.d
  refine ⟨by simp [raw3, rawI, rawW], rfl, ?_⟩
  refine Eq.trans (b := some (let rw_ := raw3 0xF2 c d.code 0 (blkCode k) 0 ((bit c.fb) ++ 0#7); .hcall rw_.ctlL (.ofCode rw_.dst) (fld (rw_.sb - 0x140) 3 4))) rfl ?_
  simp [*]
theorem qsig (c : Ctl) (d : Opnd) (q : Nat) (k : BitVec 4) : Statement (.qsig c d q k) := by
  intro hw rw_ hr
  obtain rfl := Option.some.inj hr
  have pp := OpTab.parts (t := (Instr.qsig c d q k).tab.getD default) hw
  have ha : Opnd.ok (.s q) = true := pp.a
  simp only [Opnd.ok, decide_eq_true_eq] at ha
  have ha9 : (320 + q) % 512 - 320 = q := s9 _ ha
  have hd : Opnd.ok d = true := pp.d
  refine ⟨by simp [raw3, rawI, rawW], rfl, ?_⟩
  refine Eq.trans (b := some (let rw_ := raw3 0xF3 c d.code (.ofNat 9 (320 + q)) (blkCode k) 0 ((bit c.fb) ++ 0#7); .qsig rw_.ctlL (.ofCode rw_.dst) (rw_.sa.toNat - 320) (fld (rw_.sb - 0x140) 3 4))) rfl ?_
  simp [*]
theorem srd (c : Ctl) (d : Nat) (n : BitVec 9) : Statement (.srd c d n) := by
  intro hw rw_ hr
  obtain rfl := Option.some.inj hr
  have pp := OpTab.parts (t := (Instr.srd c d n).tab.getD default) hw
  have hf : c.fb = false := pp.fb nofun
  have ho : (scOk [d] && srdOk n) = true := pp.ok
  simp [scOk] at ho
  have hd9 : d < 512 := by omega
  refine ⟨by simp [raw3, rawI, rawW], rfl, ?_⟩
  refine Eq.trans (b := some (let rw_ := raw3 0xF4 c (.ofNat 9 d) 0 n 0 0; .srd rw_.ctl rw_.dst.toNat rw_.sb)) rfl ?_
  simp [*]
theorem swr (c : Ctl) (n : BitVec 9) (e : Nat) : Statement (.swr c n e) := by
  intro hw rw_ hr
  obtain rfl := Option.some.inj hr
  have pp := OpTab.parts (t := (Instr.swr c n e).tab.getD default) hw
  have hf : c.fb = false := pp.fb nofun
  have ho : (scOk [e] && (n == 0x10 || n == 0x11)) = true := pp.ok
  simp [scOk] at ho
  have he9 : e < 512 := by omega
  refine ⟨by simp [raw3, rawI, rawW], rfl, ?_⟩
  refine Eq.trans (b := some (let rw_ := raw3 0xF5 c (.ofNat 9 e) 0 n 0 0; .swr rw_.ctl rw_.sb rw_.dst.toNat)) rfl ?_
  simp [*]
theorem ipf (c : Ctl) (a : Nat) (b : Opnd) (l1 : Bool) : Statement (.ipf c a b l1) := by
  intro hw rw_ hr
  obtain rfl := Option.some.inj hr
  have pp := OpTab.parts (t := (Instr.ipf c a b l1).tab.getD default) hw
  have ha : Opnd.ok (.s a) = true := pp.a
  simp only [Opnd.ok, decide_eq_true_eq] at ha
  have ha9 : (320 + a) % 512 - 320 = a := s9 _ ha
  have hb : Opnd.ok b = true := pp.b
  refine ⟨by simp [raw3, rawI, rawW], rfl, ?_⟩
  refine Eq.trans (b := some (let rw_ := raw3 0xF6 c 448#9 (.ofNat 9 (320 + a)) b.code 0 ((bit c.fb) ++ 0#6 ++ (bit l1)); .ipf rw_.ctlL (rw_.sa.toNat - 320) (.ofCode rw_.sb) (bitOf rw_.md 0))) rfl ?_
  simp [*]
theorem ipin (c : Ctl) (a : Nat) (b : Opnd) (l1 : Bool) : Statement (.ipin c a b l1) := by
  intro hw rw_ hr
  obtain rfl := Option.some.inj hr
  have pp := OpTab.parts (t := (Instr.ipin c a b l1).tab.getD default) hw
  have ha : Opnd.ok (.s a) = true := pp.a
  simp only [Opnd.ok, decide_eq_true_eq] at ha
  have ha9 : (320 + a) % 512 - 320 = a := s9 _ ha
  have hb : Opnd.ok b = true := pp.b
  refine ⟨by simp [raw3, rawI, rawW], rfl, ?_⟩
  refine Eq.trans (b := some (let rw_ := raw3 0xF7 c 448#9 (.ofNat 9 (320 + a)) b.code 0 ((bit c.fb) ++ 0#6 ++ (bit l1)); .ipin rw_.ctlL (rw_.sa.toNat - 320) (.ofCode rw_.sb) (bitOf rw_.md 0))) rfl ?_
  simp [*]
theorem iunpin (c : Ctl) (a : Nat) (b : Opnd) (l1 : Bool) : Statement (.iunpin c a b l1) := by
  intro hw rw_ hr
  obtain rfl := Option.some.inj hr
  have pp := OpTab.parts (t := (Instr.iunpin c a b l1).tab.getD default) hw
  have ha : Opnd.ok (.s a) = true := pp.a
  simp only [Opnd.ok, decide_eq_true_eq] at ha
  have ha9 : (320 + a) % 512 - 320 = a := s9 _ ha
  have hb : Opnd.ok b = true := pp.b
  refine ⟨by simp [raw3, rawI, rawW], rfl, ?_⟩
  refine Eq.trans (b := some (let rw_ := raw3 0xF8 c 448#9 (.ofNat 9 (320 + a)) b.code 0 ((bit c.fb) ++ 0#6 ++ (bit l1)); .iunpin rw_.ctlL (rw_.sa.toNat - 320) (.ofCode rw_.sb) (bitOf rw_.md 0))) rfl ?_
  simp [*]
theorem halfNopLow (h : Half) : Statement (.halfNopLow h) := nofun
theorem halfIadd (h : Half) : Statement (.halfIadd h) := nofun
theorem halfIsub (h : Half) : Statement (.halfIsub h) := nofun
theorem halfImul (h : Half) : Statement (.halfImul h) := nofun
theorem halfIminI32 (h : Half) : Statement (.halfIminI32 h) := nofun
theorem halfImaxI32 (h : Half) : Statement (.halfImaxI32 h) := nofun
theorem halfIminN32 (h : Half) : Statement (.halfIminN32 h) := nofun
theorem halfImaxN32 (h : Half) : Statement (.halfImaxN32 h) := nofun
theorem halfShl (h : Half) : Statement (.halfShl h) := nofun
theorem halfShr (h : Half) : Statement (.halfShr h) := nofun
theorem halfSra (h : Half) : Statement (.halfSra h) := nofun
theorem halfAnd (h : Half) : Statement (.halfAnd h) := nofun
theorem halfOr (h : Half) : Statement (.halfOr h) := nofun
theorem halfXor (h : Half) : Statement (.halfXor h) := nofun
theorem halfMov (h : Half) : Statement (.halfMov h) := nofun
theorem halfNopHigh (h : Half) : Statement (.halfNopHigh h) := nofun
theorem halfFadd (h : Half) : Statement (.halfFadd h) := nofun
theorem halfFsub (h : Half) : Statement (.halfFsub h) := nofun
theorem halfFmul (h : Half) : Statement (.halfFmul h) := nofun
theorem halfFmin (h : Half) : Statement (.halfFmin h) := nofun
theorem halfFmax (h : Half) : Statement (.halfFmax h) := nofun
theorem halfHadd2F16 (h : Half) : Statement (.halfHadd2F16 h) := nofun
theorem halfHsub2F16 (h : Half) : Statement (.halfHsub2F16 h) := nofun
theorem halfHmul2F16 (h : Half) : Statement (.halfHmul2F16 h) := nofun
theorem halfHmin2F16 (h : Half) : Statement (.halfHmin2F16 h) := nofun
theorem halfHmax2F16 (h : Half) : Statement (.halfHmax2F16 h) := nofun
theorem halfHadd2B16 (h : Half) : Statement (.halfHadd2B16 h) := nofun
theorem halfHsub2B16 (h : Half) : Statement (.halfHsub2B16 h) := nofun
theorem halfHmul2B16 (h : Half) : Statement (.halfHmul2B16 h) := nofun
theorem halfHmin2B16 (h : Half) : Statement (.halfHmin2B16 h) := nofun
theorem halfHmax2B16 (h : Half) : Statement (.halfHmax2B16 h) := nofun
theorem clauseHeader (wait : BitVec 12) (seta setb : BitVec 4) (len : BitVec 5) : Statement (.clauseHeader wait seta setb len) := nofun
theorem classLCompletion (core op : Nat) : Statement (.classLCompletion core op) := nofun
theorem sleepEnd (core slot lane : Nat) : Statement (.sleepEnd core slot lane) := nofun
theorem registerSpill (core : Nat) : Statement (.registerSpill core) := nofun
theorem feGrant (core op : Nat) : Statement (.feGrant core op) := nofun
theorem operandLogReplay (core slot : Nat) : Statement (.operandLogReplay core slot) := nofun
theorem differenceRecord (rid : Nat) : Statement (.differenceRecord rid) := nofun
theorem forcedPublication (die sync : Nat) : Statement (.forcedPublication die sync) := nofun
theorem hostWrite (pa : Nat) (bytes : List Byte) : Statement (.hostWrite pa bytes) := nofun
theorem doorbell (q : Nat) (index : BitVec 32) : Statement (.doorbell q index) := nofun
theorem queueEnable (q : Nat) (cfg : W64) : Statement (.queueEnable q cfg) := nofun
theorem queueDrain (q : Nat) : Statement (.queueDrain q) := nofun
theorem drainComplete (q : Nat) : Statement (.drainComplete q) := nofun
theorem teardown (q : Nat) : Statement (.teardown q) := nofun
theorem reset (q : Nat) : Statement (.reset q) := nofun
theorem registerWrite (off size : Nat) (value : W64) : Statement (.registerWrite off size value) := nofun
theorem launch (q : Nat) : Statement (.launch q) := nofun
theorem signal (q : Nat) : Statement (.signal q) := nofun
theorem waitv (q : Nat) : Statement (.waitv q) := nofun
theorem waitvPoll (q : Nat) : Statement (.waitvPoll q) := nofun
theorem waittime (q : Nat) : Statement (.waittime q) := nofun
theorem order (q : Nat) : Statement (.order q) := nofun
theorem stampts (q : Nat) : Statement (.stampts q) := nofun
theorem qnop (q : Nat) : Statement (.qnop q) := nofun
theorem teamAdmission (launch : Nat) : Statement (.teamAdmission launch) := nofun
theorem preemptionRequest (launch : Nat) : Statement (.preemptionRequest launch) := nofun
theorem preemptionDeadline (team : Nat) : Statement (.preemptionDeadline team) := nofun
theorem teamRestore (team : Nat) : Statement (.teamRestore team) := nofun
theorem teamEnd (team : Nat) : Statement (.teamEnd team) := nofun
theorem teamRetirement (launch : Nat) : Statement (.teamRetirement launch) := nofun
theorem completionSignal (launch : Nat) : Statement (.completionSignal launch) := nofun
theorem itemCreation (team : Nat) : Statement (.itemCreation team) := nofun
theorem scratchpadCopyFault (team core addr : Nat) : Statement (.scratchpadCopyFault team core addr) := nofun
theorem binTimerExpiry (core bin : Nat) : Statement (.binTimerExpiry core bin) := nofun
theorem binLaunch (core bin : Nat) : Statement (.binLaunch core bin) := nofun
theorem copyCompletion (core op : Nat) : Statement (.copyCompletion core op) := nofun
theorem copyFault (core op : Nat) : Statement (.copyFault core op) := nofun
theorem matrixCommandStart (core op : Nat) : Statement (.matrixCommandStart core op) := nofun
theorem matrixCommandCompletion (core op : Nat) : Statement (.matrixCommandCompletion core op) := nofun
theorem matrixFault (core op : Nat) : Statement (.matrixFault core op) := nofun
theorem reservationFree (core res : Nat) : Statement (.reservationFree core res) := nofun
theorem ringGrant (core op : Nat) : Statement (.ringGrant core op) := nofun
theorem barrierWatchdog (team bar : Nat) : Statement (.barrierWatchdog team bar) := nofun
theorem ringWatchdog (core op : Nat) : Statement (.ringWatchdog core op) := nofun
theorem feWatchdog (core op : Nat) : Statement (.feWatchdog core op) := nofun
theorem halt (ctx : Nat) : Statement (.halt ctx) := nofun
theorem resume (ctx : Nat) : Statement (.resume ctx) := nofun
theorem capsel (capid : W64) : Statement (.capsel capid) := nofun
theorem contextTeardown (ctx : Nat) (word : W64) : Statement (.contextTeardown ctx word) := nofun
theorem contextTeardownDone (ctx : Nat) : Statement (.contextTeardownDone ctx) := nofun
theorem contextValidate (ctx : Nat) (word : W64) : Statement (.contextValidate ctx word) := nofun
theorem shootdown (ctl : W64) : Statement (.shootdown ctl) := nofun
theorem shootdownDone : Statement (.shootdownDone) := nofun
theorem migrationWindowReset : Statement (.migrationWindowReset) := nofun
theorem pageMigration (die : Nat) : Statement (.pageMigration die) := nofun
theorem beaconTimer : Statement (.beaconTimer) := nofun
theorem put (port : Nat) (m : PutMsg) : Statement (.put port m) := nofun
theorem getreq (port : Nat) (m : GetMsg) : Statement (.getreq port m) := nofun
theorem getdata (port seq : Nat) (bytes : List Byte) : Statement (.getdata port seq bytes) := nofun
theorem ack (port seq : Nat) : Statement (.ack port seq) := nofun
theorem nack (port seq cause offset : Nat) : Statement (.nack port seq cause offset) := nofun
theorem team (port : Nat) (m : TeamMsg) : Statement (.team port m) := nofun
theorem teamend (port : Nat) (seq launch team : Nat) : Statement (.teamend port seq launch team) := nofun
theorem beacon (src : Nat) (b : BeaconMsg) : Statement (.beacon src b) := nofun
theorem unknownMessage (port code : Nat) : Statement (.unknownMessage port code) := nofun
theorem sendAckTimeout (port seq : Nat) : Statement (.sendAckTimeout port seq) := nofun
theorem portDown (port : Nat) : Statement (.portDown port) := nofun
theorem dieLinkLoss (link : Nat) : Statement (.dieLinkLoss link) := nofun
theorem pcieWindowRequest (off : Nat) (write : Bool) : Statement (.pcieWindowRequest off write) := nofun
theorem auditReexecution (launch index core team : Nat) : Statement (.auditReexecution launch index core team) := nofun
theorem auditThirdRun (launch index core team : Nat) : Statement (.auditThirdRun launch index core team) := nofun
theorem suspicionHalving : Statement (.suspicionHalving) := nofun
theorem clusterSubstitution (die lcore : Nat) : Statement (.clusterSubstitution die lcore) := nofun
theorem scrub (pa : Nat) (uncorrectable : Bool) : Statement (.scrub pa uncorrectable) := nofun
theorem bankDrop (stack bank : Nat) (ack : Bool) : Statement (.bankDrop stack bank ack) := nofun
theorem restripeRegion (stack : Nat) : Statement (.restripeRegion stack) := nofun
theorem powerWindow (watts : Nat) (temps : List Nat) (monitors : Monitors) : Statement (.powerWindow watts temps monitors) := nofun
theorem fatalError (cause unit : Nat) : Statement (.fatalError cause unit) := nofun
theorem bringUp (failed : Option Nat) : Statement (.bringUp failed) := nofun
theorem warmReset : Statement (.warmReset) := nofun
theorem mailboxRequest (len : Nat) (reply : List Byte) : Statement (.mailboxRequest len reply) := nofun
theorem powerCap (req : CapReq) : Statement (.powerCap req) := nofun
theorem firmwareUpdate (version : Nat) (signed : Bool) : Statement (.firmwareUpdate version signed) := nofun
theorem getVersion (viaI3c : Bool) : Statement (.getVersion viaI3c) := nofun
theorem getCapabilities (viaI3c : Bool) : Statement (.getCapabilities viaI3c) := nofun
theorem negotiateAlgorithms (viaI3c : Bool) : Statement (.negotiateAlgorithms viaI3c) := nofun
theorem getDigests (viaI3c : Bool) : Statement (.getDigests viaI3c) := nofun
theorem getCertificate (viaI3c : Bool) : Statement (.getCertificate viaI3c) := nofun
theorem challenge (viaI3c : Bool) (nonce : BitVec 256) : Statement (.challenge viaI3c nonce) := nofun
theorem getMeasurements (viaI3c : Bool) (index : Nat) : Statement (.getMeasurements viaI3c index) := nofun
theorem unsupportedRequest (viaI3c : Bool) (code : Nat) : Statement (.unsupportedRequest viaI3c code) := nofun
theorem i3cSensorRead (sensor : Nat) (log : Bool) : Statement (.i3cSensorRead sensor log) := nofun
theorem hostPreemption (team : Nat) : Statement (.hostPreemption team) := nofun
theorem mainPowerLoss : Statement (.mainPowerLoss) := nofun
theorem linkLevelRetry (link : Nat) (outcome : LinkOutcome) : Statement (.linkLevelRetry link outcome) := nofun
theorem flitResend (port flits : Nat) : Statement (.flitResend port flits) := nofun
theorem portRetrain (port : Nat) : Statement (.portRetrain port) := nofun
theorem spilledRegisterFetch (core slot reg : Nat) : Statement (.spilledRegisterFetch core slot reg) := nofun

end Sys2Proof.Laws.Encoding
end

