-- ==== Sys2Proof/Laws/Results.lean ====
section
/-! SUPPORT. Results on their way: what a group's registers end with once a result is pushed, a register killed, a word
finished. Two groups are compared by what they end with in given lanes, scalars and predicates. -/
namespace Sys2Proof.Machine

/-- Two groups that hold the same in the lanes of P, the scalars of S and the predicate lanes of Q. -/
structure Agree (P : Nat → Nat → Prop) (S : Nat → Prop) (Q : Nat → Nat → Prop) (X Y : Group) : Prop where
  held : X.held = Y.held
  vec : ∀ r l, l < 32 → P r l → (X.reg r).lane l = (Y.reg r).lane l
  sca : ∀ r, S r → X.sreg r = Y.sreg r
  prd : ∀ p l, p < 7 → Q p l → (X.preds.getD p 0).getLsbD l = (Y.preds.getD p 0).getLsbD l

theorem Agree.refl (P : Nat → Nat → Prop) (S : Nat → Prop) (Q : Nat → Nat → Prop) (X : Group) : Agree P S Q X X :=
  ⟨rfl, fun _ _ _ _ => rfl, fun _ _ => rfl, fun _ _ _ _ => rfl⟩

theorem gOf_lane (f : Nat → W32) (l : Nat) (h : l < 32) : (gOf f).lane l = f l := by
  simp [gOf, Shaped.lane, allLanes, h]
theorem Group.reg_writeV (g : Group) (r q l : Nat) (m : W32) (v : Shaped) (hl : l < 32) :
    ((g.writeV r m v).reg q).lane l =
      if g.held.any (·.1 == r) = false ∧ q = r ∧ m.getLsbD l = true then v.lane l else (g.reg q).lane l := by
  unfold Group.writeV
  split
  · next h => simp [h, Group.reg]
  · next h =>
    have h : g.held.any (·.1 == r) = false := Bool.eq_false_iff.mpr h
    by_cases hq : q = r
    · subst hq
      simp only [Group.reg, aget_aset_same, Option.getD_some]
      by_cases hm : m = allOnes32
      · subst hm; simp [h, show allOnes32.getLsbD l = true by
          have : ∀ l < 32, allOnes32.getLsbD l = true := by decide
          exact this l hl]
      · simp only [beq_iff_eq, hm, if_false]
        rw [gOf_lane _ _ hl]
        by_cases hb : m.getLsbD l <;> simp [h, hb, Group.reg]
    · simp [Group.reg, aget_aset_ne _ _ _ _ hq, hq]
theorem Group.writeV_held (g : Group) (r : Nat) (m : W32) (v : Shaped) : (g.writeV r m v).held = g.held := by
  unfold Group.writeV; split <;> rfl
theorem Group.writeV_sregs (g : Group) (r : Nat) (m : W32) (v : Shaped) : (g.writeV r m v).sregs = g.sregs := by
  unfold Group.writeV; split <;> rfl
theorem Group.writeV_preds (g : Group) (r : Nat) (m : W32) (v : Shaped) : (g.writeV r m v).preds = g.preds := by
  unfold Group.writeV; split <;> rfl
theorem vset_getD {α : Type} (k : Nat) (d : α) (l : List α) (n i : Nat) (f : α → α) (h : i < k) :
    (vset k d l n f).getD i d = if i = n then f (l.getD i d) else l.getD i d := by
  simp [vset, h]

/-- A result written to both. -/
theorem Agree.commit {P : Nat → Nat → Prop} {S : Nat → Prop} {Q : Nat → Nat → Prop} {X Y : Group} (h : Agree P S Q X Y) (w : Wb) :
    Agree P S Q (X.commit w) (Y.commit w) := by
  cases w with
  | vec r m v d =>
    refine ⟨?_, ?_, ?_, ?_⟩
    · simp [Group.commit, Group.writeV_held, h.held]
    · intro q l hl hp
      simp only [Group.commit, Group.reg_writeV _ _ _ _ _ _ hl, h.held]
      split
      · rfl
      · exact h.vec q l hl hp
    · intro q hq; simpa [Group.commit, Group.sreg, Group.writeV_sregs] using h.sca q hq
    · intro p l hp hq; simpa [Group.commit, Group.writeV_preds] using h.prd p l hp hq
  | sca r v d =>
    refine ⟨h.held, h.vec, ?_, h.prd⟩
    intro q hq
    by_cases e : q = r
    · subst e; simp [Group.commit, Group.sreg]
    · simpa [Group.commit, Group.sreg, aget_aset_ne _ _ _ _ e] using h.sca q hq
  | prd n m b d =>
    refine ⟨h.held, h.vec, h.sca, ?_⟩
    intro p l hp hq
    simp only [Group.commit, vset_getD _ _ _ _ _ _ hp]
    split <;> simp only [BitVec.getLsbD_or, BitVec.getLsbD_and, BitVec.getLsbD_not, h.prd p l hp hq]
/-- A result that touches nothing compared. -/
def Wb.outside (P : Nat → Nat → Prop) (S : Nat → Prop) (Q : Nat → Nat → Prop) : Wb → Prop
  | .vec r m _ _ => ∀ l, l < 32 → m.getLsbD l = true → ¬ P r l
  | .sca r _ _ => ¬ S r
  | .prd n m _ _ => ∀ l, m.getLsbD l = true → ¬ Q n l
theorem Agree.left {P : Nat → Nat → Prop} {S : Nat → Prop} {Q : Nat → Nat → Prop} {X Y : Group} (h : Agree P S Q X Y) (w : Wb)
    (hw : w.outside P S Q) : Agree P S Q (X.commit w) Y := by
  cases w with
  | vec r m v d =>
    refine ⟨?_, ?_, ?_, ?_⟩
    · simpa [Group.commit, Group.writeV_held] using h.held
    · intro q l hl hp
      simp only [Group.commit, Group.reg_writeV _ _ _ _ _ _ hl]
      split
      · next e => exact absurd (e.2.1 ▸ hp) (hw l hl e.2.2)
      · exact h.vec q l hl hp
    · intro q hq; simpa [Group.commit, Group.sreg, Group.writeV_sregs] using h.sca q hq
    · intro p l hp hq; simpa [Group.commit, Group.writeV_preds] using h.prd p l hp hq
  | sca r v d =>
    refine ⟨h.held, h.vec, ?_, h.prd⟩
    intro q hq
    have e : q ≠ r := fun e => hw (e ▸ hq)
    simpa [Group.commit, Group.sreg, aget_aset_ne _ _ _ _ e] using h.sca q hq
  | prd n m b d =>
    refine ⟨h.held, h.vec, h.sca, ?_⟩
    intro p l hp hq
    simp only [Group.commit, vset_getD _ _ _ _ _ _ hp]
    split
    · next e =>
      have : m.getLsbD l = false := by
        cases hm : m.getLsbD l
        · rfl
        · exact absurd (e ▸ hq) (hw l hm)
      have hx : ∀ x : W32, (x &&& ~~~m ||| b &&& m).getLsbD l = x.getLsbD l := by
        intro x
        by_cases hl : l < 32
        · simp only [BitVec.getLsbD_or, BitVec.getLsbD_and, BitVec.getLsbD_not, this, hl]; simp
        · simp [BitVec.getLsbD_of_ge _ _ (Nat.le_of_not_lt hl)]
      rw [hx]; exact h.prd p l hp hq
    · exact h.prd p l hp hq
theorem Agree.symm {P : Nat → Nat → Prop} {S : Nat → Prop} {Q : Nat → Nat → Prop} {X Y : Group} (h : Agree P S Q X Y) :
    Agree P S Q Y X :=
  ⟨h.held.symm, fun r l a b => (h.vec r l a b).symm, fun r a => (h.sca r a).symm, fun p l a b => (h.prd p l a b).symm⟩
theorem Agree.trans {P : Nat → Nat → Prop} {S : Nat → Prop} {Q : Nat → Nat → Prop} {X Y Z : Group} (h : Agree P S Q X Y)
    (k : Agree P S Q Y Z) : Agree P S Q X Z :=
  ⟨h.held.trans k.held, fun r l a b => (h.vec r l a b).trans (k.vec r l a b), fun r a => (h.sca r a).trans (k.sca r a),
    fun p l a b => (h.prd p l a b).trans (k.prd p l a b)⟩
/-- Lists of results of which one is the other with some narrowed or dropped, outside what is compared. -/
theorem Agree.fold {P : Nat → Nat → Prop} {S : Nat → Prop} {Q : Nat → Nat → Prop} (h : Wb → Option Wb) (l : List Wb) {X Y : Group}
    (hxy : Agree P S Q X Y)
    (hh : ∀ w ∈ l, ∀ A B, Agree P S Q A B → Agree P S Q (A.commit w) (match h w with | some v => B.commit v | none => B)) :
    Agree P S Q (l.foldl Group.commit X) ((l.filterMap h).foldl Group.commit Y) := by
  induction l generalizing X Y with
  | nil => exact hxy
  | cons w r ih =>
    have h1 := hh w (by simp) X Y hxy
    have h2 : ∀ w' ∈ r, ∀ A B, Agree P S Q A B → Agree P S Q (A.commit w') (match h w' with | some v => B.commit v | none => B) :=
      fun w' hw' => hh w' (by simp [hw'])
    cases e : h w with
    | none => simp only [e] at h1; simpa [List.filterMap_cons, e] using ih h1 h2
    | some v => simp only [e] at h1; simpa [List.filterMap_cons, e] using ih h1 h2

/-- What an older result loses to a newer one lies inside the newer one. -/
theorem Agree.trim {P : Nat → Nat → Prop} {S : Nat → Prop} {Q : Nat → Nat → Prop} (new : Wb) (hn : new.outside P S Q) (w : Wb)
    (A B : Group) (h : Agree P S Q A B) :
    Agree P S Q (A.commit w) (match Wb.trim w new with | some v => B.commit v | none => B) := by
  have cut (m m' : W32) (l : Nat) (h1 : m.getLsbD l = true) (h2 : (m &&& ~~~m').getLsbD l = false) : m'.getLsbD l = true := by
    simp only [BitVec.getLsbD_and, BitVec.getLsbD_not, h1, Bool.true_and, Bool.and_eq_false_iff, decide_eq_false_iff_not,
      Bool.not_eq_false'] at h2
    rcases h2 with h2 | h2
    · exact absurd (BitVec.lt_of_getLsbD h1) h2
    · exact h2
  cases w with
  | vec r m v d =>
    cases new with
    | vec r' m' v' d' =>
      by_cases e : (r == r' && decide (d' ≤ d)) = true
      · simp only [Wb.trim, if_pos e]
        simp only [Bool.and_eq_true, beq_iff_eq, decide_eq_true_eq] at e
        obtain ⟨rfl, -⟩ := e
        by_cases hz : (m &&& ~~~m' == 0) = true
        · simp only [if_pos hz]
          have hz : m &&& ~~~m' = 0 := by simpa using hz
          exact h.left _ fun l hl hm => hn l hl (cut m m' l hm (by rw [hz]; simp))
        · simp only [if_neg hz]
          refine ⟨?_, ?_, ?_, ?_⟩
          · simp [Group.commit, Group.writeV_held, h.held]
          · intro q l hl hp
            simp only [Group.commit, Group.reg_writeV _ _ _ _ _ _ hl, h.held]
            by_cases hb : B.held.any (·.1 == r) = false ∧ q = r ∧ m.getLsbD l = true
            · rw [if_pos hb]
              by_cases hc : (m &&& ~~~m').getLsbD l = true
              · rw [if_pos ⟨hb.1, hb.2.1, hc⟩]
              · exact absurd (hb.2.1 ▸ hp) (hn l hl (cut m m' l hb.2.2 (by simpa using hc)))
            · rw [if_neg hb, if_neg]
              · exact h.vec q l hl hp
              · rintro ⟨a, b, c⟩
                exact hb ⟨a, b, by simp only [BitVec.getLsbD_and, Bool.and_eq_true] at c; exact c.1⟩
          · intro q hq; simpa [Group.commit, Group.sreg, Group.writeV_sregs] using h.sca q hq
          · intro p l hp hq; simpa [Group.commit, Group.writeV_preds] using h.prd p l hp hq
      · simp only [Wb.trim, if_neg e]; exact h.commit _
    | sca r' v' d' => exact h.commit _
    | prd n' m' b' d' => exact h.commit _
  | sca r v d =>
    cases new with
    | sca r' v' d' =>
      by_cases e : (r == r' && decide (d' ≤ d)) = true
      · simp only [Wb.trim, if_pos e]
        simp only [Bool.and_eq_true, beq_iff_eq, decide_eq_true_eq] at e
        obtain ⟨rfl, -⟩ := e
        exact h.left _ hn
      · simp only [Wb.trim, if_neg e]; exact h.commit _
    | vec r' m' v' d' => exact h.commit _
    | prd n' m' b' d' => exact h.commit _
  | prd n m b d =>
    cases new with
    | prd n' m' b' d' =>
      by_cases e : (n == n' && decide (d' ≤ d)) = true
      · simp only [Wb.trim, if_pos e]
        simp only [Bool.and_eq_true, beq_iff_eq, decide_eq_true_eq] at e
        obtain ⟨rfl, -⟩ := e
        by_cases hz : (m &&& ~~~m' == 0) = true
        · simp only [if_pos hz]
          have hz : m &&& ~~~m' = 0 := by simpa using hz
          exact h.left _ fun l hm => hn l (cut m m' l hm (by rw [hz]; simp))
        · simp only [if_neg hz]
          refine ⟨h.held, h.vec, h.sca, ?_⟩
          intro p l hp hq
          simp only [Group.commit, vset_getD _ _ _ _ _ _ hp]
          split
          · next e =>
            have hq' : m'.getLsbD l = false := by
              cases hm : m'.getLsbD l
              · rfl
              · exact absurd (e ▸ hq) (hn l hm)
            by_cases hl : l < 32
            · simp only [BitVec.getLsbD_or, BitVec.getLsbD_and, BitVec.getLsbD_not, h.prd p l hp hq, hq', hl, decide_true,
                Bool.true_and, Bool.not_false, Bool.and_true]
            · simp [BitVec.getLsbD_of_ge _ _ (Nat.le_of_not_lt hl)]
          · exact h.prd p l hp hq
      · simp only [Wb.trim, if_neg e]; exact h.commit _
    | sca r' v' d' => exact h.commit _
    | vec r' m' v' d' => exact h.commit _

/-- What a group ends with after a result is pushed: that result over what it would have ended with (R85). -/
theorem Group.final_push {P : Nat → Nat → Prop} {S : Nat → Prop} {Q : Nat → Nat → Prop} (g : Group) (w : Wb)
    (hw : w.outside P S Q) : Agree P S Q g.final (g.push w).final := by
  have h := Agree.fold (Wb.trim · w) g.wb (Agree.refl P S Q { g with wb := [] }) fun v _ A B h => Agree.trim w hw v A B h
  have e : (g.push w).final = ((g.wb.filterMap (Wb.trim · w)).foldl Group.commit { g with wb := [] }).commit w := by
    simp [Group.final, Group.push, List.foldl_append]
  rw [e]
  exact h.trans (((Agree.refl P S Q _).left w hw).symm)
theorem Group.final_held (g : Group) : g.final.held = g.held := by
  unfold Group.final
  generalize hX : ({ g with wb := [] } : Group) = X
  have : X.held = g.held := by subst hX; rfl
  rw [← this]
  clear this hX
  generalize g.wb = l
  induction l generalizing X with
  | nil => rfl
  | cons w r ih =>
    simp only [List.foldl_cons, ih]
    cases w <;> simp [Group.commit, Group.writeV_held]
theorem Group.final_push_vec (g : Group) (r : Nat) (m : W32) (v : Shaped) (d : Nat) (l : Nat) (hl : l < 32)
    (hh : g.held.any (·.1 == r) = false) (hm : m.getLsbD l = true) :
    ((g.push (.vec r m v d)).final.reg r).lane l = v.lane l := by
  have e : (g.push (.vec r m v d)).final =
      ((g.wb.filterMap (Wb.trim · (.vec r m v d))).foldl Group.commit { g with wb := [] }).commit (.vec r m v d) := by
    simp [Group.final, Group.push, List.foldl_append]
  have hf : ((g.wb.filterMap (Wb.trim · (.vec r m v d))).foldl Group.commit { g with wb := [] }).held = g.held :=
    Group.final_held { g with wb := g.wb.filterMap (Wb.trim · (.vec r m v d)) }
  rw [e]
  simp only [Group.commit, Group.reg_writeV _ _ _ _ _ _ hl]
  rw [if_pos ⟨by rw [hf]; exact hh, trivial, hm⟩]
theorem Group.final_push_sca (g : Group) (r : Nat) (v : W64) (d : Nat) : (g.push (.sca r v d)).final.sreg r = v := by
  simp [Group.final, Group.push, List.foldl_append, Group.commit, Group.sreg]
theorem Group.final_push_prd (g : Group) (n : Nat) (m b : W32) (d l : Nat) (hn : n < 7) (hm : m.getLsbD l = true) :
    ((g.push (.prd n m b d)).final.preds.getD n 0).getLsbD l = b.getLsbD l := by
  have hl := BitVec.lt_of_getLsbD hm
  simp only [Group.final, Group.push, List.foldl_append, List.foldl_cons, List.foldl_nil, Group.commit, vset_getD _ _ _ _ _ _ hn,
    if_true, BitVec.getLsbD_or, BitVec.getLsbD_and, BitVec.getLsbD_not, hm]
  simp
/-- A killed register is the only one that ends otherwise (R79). -/
theorem Group.final_kill (g : Group) (r : Nat) :
    Agree (fun q _ => q ≠ r) (fun _ => True) (fun _ _ => True) g.final (g.kill r).final := by
  unfold Group.kill
  split
  · have e (tt : List Nat) : ∀ (l : List Wb) (X : Group), Agree (fun _ _ => True) (fun _ => True) (fun _ _ => True)
        (l.foldl Group.commit X) (l.foldl Group.commit { X with taint := tt }) := by
      intro l
      have : ∀ (X Y : Group), Agree (fun _ _ => True) (fun _ => True) (fun _ _ => True) X Y →
          Agree (fun _ _ => True) (fun _ => True) (fun _ _ => True) (l.foldl Group.commit X) (l.foldl Group.commit Y) := by
        induction l with
        | nil => exact fun _ _ h => h
        | cons w r ih => exact fun X Y h => ih _ _ (h.commit w)
      exact fun X => this _ _ ⟨rfl, fun _ _ _ _ => rfl, fun _ _ => rfl, fun _ _ _ _ => rfl⟩
    have h := e (if g.taint.contains r then g.taint else r :: g.taint) g.wb { g with wb := [] }
    exact ⟨h.held, fun q l hl _ => h.vec q l hl trivial, h.sca, h.prd⟩
  · have key := Agree.fold (P := fun q _ => q ≠ r) (S := fun _ => True) (Q := fun _ _ => True)
      (fun w => if (match w with | .vec n .. => n != r | _ => true) then some w else none) g.wb
      (X := { g with wb := [] }) (Y := { g with regs := adel g.regs r, shared := g.shared.filter (· != r), wb := [] })
      ⟨rfl, fun q l _ hq => by simp [Group.reg, aget_filter_ne _ _ _ hq], fun _ _ => rfl, fun _ _ _ _ => rfl⟩ ?_
    · have e : (g.wb.filterMap fun w => if (match w with | .vec n .. => n != r | _ => true) then some w else none)
          = g.wb.filter fun w => match w with | .vec n .. => n != r | _ => true := by
        rw [← List.filterMap_eq_filter]; rfl
      rw [e] at key
      exact key
    · intro w _ A B h
      cases w with
      | vec n m v d =>
        by_cases hn : n = r
        · subst hn; simpa using h.left (.vec n m v d) fun l _ _ hp => hp rfl
        · simpa [hn] using h.commit (.vec n m v d)
      | sca n v d => simpa using h.commit (.sca n v d)
      | prd n m v d => simpa using h.commit (.prd n m v d)

/-- The registers a finished word kills, in a group. -/
theorem Group.final_kills (ks : List Nat) (g : Group) :
    Agree (fun q _ => q ∉ ks) (fun _ => True) (fun _ _ => True) g.final (ks.foldl Group.kill g).final := by
  induction ks generalizing g with
  | nil => exact Agree.refl ..
  | cons k r ih =>
    have h1 := Group.final_kill g k
    have h2 := ih (g.kill k)
    exact ⟨h1.held.trans h2.held, fun q l hl hq => (h1.vec q l hl (by simp at hq; exact hq.1)).trans (h2.vec q l hl (by simp at hq; exact hq.2)),
      fun q _ => (h1.sca q trivial).trans (h2.sca q trivial), fun p l hp _ => (h1.prd p l hp trivial).trans (h2.prd p l hp trivial)⟩
theorem Group.kills_eq (ks : List Nat) (g : Group) : ks.foldl Group.kill g =
    { g with regs := (ks.foldl Group.kill g).regs, shared := (ks.foldl Group.kill g).shared, wb := (ks.foldl Group.kill g).wb,
             taint := (ks.foldl Group.kill g).taint } := by
  induction ks generalizing g with
  | nil => rfl
  | cons k r ih =>
    have e : g.kill k = { g with regs := (g.kill k).regs, shared := (g.kill k).shared, wb := (g.kill k).wb, taint := (g.kill k).taint } := by
      unfold Group.kill; split <;> rfl
    simp only [List.foldl_cons]
    rw [ih (g.kill k), e]
/-- The end of a group whose threads change is that of the group. -/
theorem Group.final_threads (g : Group) (ts : List Thread) :
    Agree (fun _ _ => True) (fun _ => True) (fun _ _ => True) g.final ({ g with threads := ts } : Group).final := by
  have : ∀ (l : List Wb) (X Y : Group), Agree (fun _ _ => True) (fun _ => True) (fun _ _ => True) X Y →
      Agree (fun _ _ => True) (fun _ => True) (fun _ _ => True) (l.foldl Group.commit X) (l.foldl Group.commit Y) := by
    intro l
    induction l with
    | nil => exact fun _ _ h => h
    | cons w r ih => exact fun X Y h => ih _ _ (h.commit w)
  exact this g.wb _ _ ⟨rfl, fun _ _ _ _ => rfl, fun _ _ => rfl, fun _ _ _ _ => rfl⟩

/-- A change to the group of the issue changes nothing else. -/
theorem OnlyGroup.updG (s : State) (f : Group → Group) : OnlyGroup s (s.updG f) := by
  refine ⟨?_, ?_, ?_⟩
  · unfold State.updG State.updGroup; split <;> rfl
  · intro c
    unfold State.updG State.updGroup
    split
    · by_cases h : c = s.cur.core
      · subst h; simp
      · rw [State.core_updCore_ne _ _ _ _ h]
    · rfl
  · intro c k h
    by_cases hc : c = s.cur.core
    · subst hc
      exact State.group?_updGroup_slot _ _ _ _ _ (by rintro rfl; exact h rfl)
    · exact State.group?_updGroup_core _ _ _ _ _ _ hc
/-- The results of a word, pushed. -/
def State.pushAll (s : State) (ws : List Wb) : State := if ws.isEmpty then s else s.updG fun g => ws.foldl Group.push g
theorem State.pushAll_cons (s : State) (w : Wb) (r : List Wb) :
    s.pushAll (w :: r) = s.updG fun g => (w :: r).foldl Group.push g := rfl
theorem State.pushAll_cur (s : State) (ws : List Wb) : (s.pushAll ws).cur = s.cur := by
  cases ws
  · rfl
  · rw [State.pushAll_cons, State.updG_cur]
/-- The group of a finished word. -/
def Group.finished (g : Group) (i : Instr) (m : W32) (act : Bool) : Group :=
  match i.tab with
  | some t => Group.updThreads (if act then (t.killed.filter fun r => !t.vwrites.contains r).foldl Group.kill g else g) m Thread.past
  | none => g
theorem Group.pushAll_eq (ws : List Wb) (g : Group) : ws.foldl Group.push g = { g with wb := (ws.foldl Group.push g).wb } := by
  induction ws generalizing g with
  | nil => rfl
  | cons w r ih => simp only [List.foldl_cons]; rw [ih (g.push w)]; rfl
theorem State.updG_updG (s : State) (f h : Group → Group) : (s.updG f).updG h = s.updG fun g => h (f g) := by
  cases hg : s.group? s.cur.core s.cur.slot with
  | none =>
    have e (k : Group → Group) : s.updG k = s := by simp [State.updG, State.updGroup, hg]
    simp [e]
  | some g =>
    have e (k : Group → Group) : s.updG k = s.updCore s.cur.core fun x => { x with slots := aset x.slots s.cur.slot (k g) } := by
      simp [State.updG, State.updGroup, hg]
    have e2 : (s.updG f).group? s.cur.core s.cur.slot = some (f g) := by simp [State.updG, State.group?_updGroup, hg]
    have hset {α : Type} (l : List (Nat × α)) (n : Nat) (v w : α) : aset (aset l n v) n w = aset l n w := by
      induction l with
      | nil => simp [aset]
      | cons p r ih =>
        obtain ⟨k, u⟩ := p
        simp only [aset]
        split
        · simp [aset]
        · split
          · simp [aset]
          · next h1 h2 => simp [aset, h1, h2, ih]
    show (s.updG f).updGroup (s.updG f).cur.core (s.updG f).cur.slot h = _
    simp only [State.updG_cur]
    rw [State.updGroup, e2]
    simp only [e]
    simp [State.updCore, State.core, hset]
/-- What a word that pushes results and is finished leaves, in terms of its group (R79, R84). -/
theorem State.finish_push (i : Instr) (tb : OpTab) (hi : i.tab = some tb) (s : State) (ws : List Wb) (hr : s.cur.replay = false)
    (hact : (s.pushAll ws).active tb.ctl = s.active tb.ctl) :
    (s.pushAll ws).finish i = s.updG fun g => (ws.foldl Group.push g).finished i s.cur.mask (s.active tb.ctl != 0) := by
  have hc := State.pushAll_cur s ws
  unfold State.finish
  simp only [hc, hr, hi, hact, Bool.false_eq_true, if_false]
  have hf : ∀ g : Group, (let g := if s.active tb.ctl == 0 then g
      else (tb.killed.filter fun r => !tb.vwrites.contains r).foldl Group.kill g
      g.updThreads s.cur.mask Thread.past) = g.finished i s.cur.mask (s.active tb.ctl != 0) := by
    intro g
    simp only [Group.finished, hi]
    by_cases h : s.active tb.ctl = 0 <;> simp [h]
  cases ws with
  | nil => exact congrArg s.updG (funext hf)
  | cons w r =>
    rw [State.pushAll_cons, State.updG_updG]
    exact congrArg s.updG (funext fun g => hf _)
theorem State.active_pushAll (s : State) (ws : List Wb) (c : Ctl) : (s.pushAll ws).active c = s.active c := by
  have hp : ((s.pushAll ws).g).preds = s.g.preds := by
    cases ws with
    | nil => rfl
    | cons w r =>
      rw [State.pushAll_cons]
      by_cases h : (s.group? s.cur.core s.cur.slot).isSome = true
      · rw [State.g_updG _ _ h, Group.pushAll_eq]
      · simp only [Bool.not_eq_true, Option.isSome_eq_false_iff, Option.isNone_iff_eq_none] at h
        simp [State.updG, State.updGroup, h]
  unfold State.active
  have hc := State.pushAll_cur s ws
  simp only [hc, Group.pred, hp]
/-- The frame of a word that pushes results and is finished. -/
theorem frame_of_push (i : Instr) (tb : OpTab) (hi : i.tab = some tb) (s : State) (hI : Issuing s) (ws : List Wb)
    (vs ss ps : List Nat)
    (hw : ∀ w ∈ ws, w.outside (fun r _ => r ∉ vs) (fun r => r ∉ ss) (fun p _ => p ∉ ps)) :
    Frame i s ((s.pushAll ws).finish i) vs ss ps := by
  rw [State.finish_push i tb hi s ws hI.2.1 (State.active_pushAll ..)]
  generalize hact : (s.active tb.ctl != 0) = act
  have hg := State.g_updG s (fun g => (ws.foldl Group.push g).finished i s.cur.mask act) hI.1
  have hpush : ∀ (l : List Wb), (∀ w ∈ l, w.outside (fun r _ => r ∉ vs) (fun r => r ∉ ss) (fun p _ => p ∉ ps)) → ∀ g : Group,
      Agree (fun r _ => r ∉ vs) (fun r => r ∉ ss) (fun p _ => p ∉ ps) g.final (l.foldl Group.push g).final := by
    intro l
    induction l with
    | nil => exact fun _ g => Agree.refl ..
    | cons w r ih =>
      intro h g
      exact (Group.final_push g w (h w (by simp))).trans (ih (fun v hv => h v (by simp [hv])) (g.push w))
  have hk : Instr.kills i = tb.killed := by simp [Instr.kills, hi]
  have hend : ∀ g : Group, Agree (fun r _ => r ∉ vs ∧ r ∉ tb.killed) (fun r => r ∉ ss) (fun p _ => p ∉ ps)
      g.final ((ws.foldl Group.push g).finished i s.cur.mask act).final := by
    intro g
    have h1 := hpush ws hw g
    simp only [Group.finished, hi, Group.updThreads]
    cases act
    · simp only [Bool.false_eq_true, if_false]
      have h3 := Group.final_threads (ws.foldl Group.push g) (allLanes.map fun l => if s.cur.mask.getLsbD l then
        ((ws.foldl Group.push g).thread l).past else (ws.foldl Group.push g).thread l)
      exact ⟨h1.held.trans h3.held, fun q l hl hq => (h1.vec q l hl hq.1).trans (h3.vec q l hl trivial),
        fun q hq => (h1.sca q hq).trans (h3.sca q trivial), fun p l hp hq => (h1.prd p l hp hq).trans (h3.prd p l hp trivial)⟩
    · simp only [if_true]
      generalize hks : (tb.killed.filter fun r => !tb.vwrites.contains r) = ks
      have hsub : ∀ q, q ∉ tb.killed → q ∉ ks := by
        intro q hq hm; rw [← hks] at hm; exact hq (List.mem_filter.mp hm).1
      have h2 := Group.final_kills ks (ws.foldl Group.push g)
      have h3 := Group.final_threads (ks.foldl Group.kill (ws.foldl Group.push g)) (allLanes.map fun l => if s.cur.mask.getLsbD l then
        ((ks.foldl Group.kill (ws.foldl Group.push g)).thread l).past else (ks.foldl Group.kill (ws.foldl Group.push g)).thread l)
      exact ⟨h1.held.trans (h2.held.trans h3.held),
        fun q l hl hq => (h1.vec q l hl hq.1).trans ((h2.vec q l hl (hsub q hq.2)).trans (h3.vec q l hl trivial)),
        fun q hq => (h1.sca q hq).trans ((h2.sca q trivial).trans (h3.sca q trivial)),
        fun p l hp hq => (h1.prd p l hp hq).trans ((h2.prd p l hp trivial).trans (h3.prd p l hp trivial))⟩
  have hthr : ∀ g : Group, (ws.foldl Group.push g).threads = g.threads := fun g => by rw [Group.pushAll_eq]
  have hthrk : ∀ (ks : List Nat) (g : Group), (ks.foldl Group.kill g).threads = g.threads := fun ks g => by rw [Group.kills_eq]
  refine ⟨OnlyGroup.updG _ _, ?_, ?_, ?_, ?_⟩
  · rw [hg]
    simp only [Group.finished, hi, Group.updThreads]
    cases act
    · simp only [Bool.false_eq_true, if_false]
      rw [Group.pushAll_eq]
      simp only [Group.thread]
    · simp only [if_true]
      rw [Group.kills_eq, Group.pushAll_eq]
      simp only [Group.thread]
  · intro r l hl hv hkr
    rw [hk] at hkr
    unfold State.endV
    rw [hg]
    exact ((hend s.g).vec r l hl ⟨hv, hkr⟩).symm
  · intro r hr
    unfold State.endS
    rw [hg]
    exact ((hend s.g).sca r hr).symm
  · intro p l hp hpp
    unfold State.endP
    rw [hg]
    exact ((hend s.g).prd p l hp hpp).symm

end Sys2Proof.Machine
end

