-- ==== Sys2Proof/Laws/Words.lean ====
section
/-! SUPPORT. What a word that only writes registers does: its results, pushed and finished, in the terms of Safety (R75 to R77,
R84, R85). One lemma per kind of result. -/
namespace Sys2Proof.Machine

/-- What a finished word leaves in a register it writes or does not kill, a scalar, a predicate. -/
theorem ends_of_push (i : Instr) (tb : OpTab) (hi : i.tab = some tb) (s : State) (hI : Issuing s) (ws : List Wb) :
    (∀ r l, l < 32 → (r ∈ tb.vwrites ∨ r ∉ tb.killed) →
      ((s.pushAll ws).finish i).endV r l = ((ws.foldl Group.push s.g).final.reg r).lane l)
    ∧ (∀ r, ((s.pushAll ws).finish i).endS r = (ws.foldl Group.push s.g).final.sreg r)
    ∧ (∀ p l, p < 7 → ((s.pushAll ws).finish i).endP p l = ((ws.foldl Group.push s.g).final.preds.getD p 0).getLsbD l) := by
  rw [State.finish_push i tb hi s ws hI.2.1 (State.active_pushAll ..)]
  generalize hact : (s.active tb.ctl != 0) = act
  have hg := State.g_updG s (fun g => (ws.foldl Group.push g).finished i s.cur.mask act) hI.1
  have key : Agree (fun r _ => r ∈ tb.vwrites ∨ r ∉ tb.killed) (fun _ => True) (fun _ _ => True)
      (ws.foldl Group.push s.g).final ((ws.foldl Group.push s.g).finished i s.cur.mask act).final := by
    generalize ws.foldl Group.push s.g = g
    simp only [Group.finished, hi, Group.updThreads]
    cases act
    · simp only [Bool.false_eq_true, if_false]
      have h := Group.final_threads g (allLanes.map fun l => if s.cur.mask.getLsbD l then (g.thread l).past else g.thread l)
      exact ⟨h.held, fun q l hl _ => h.vec q l hl trivial, h.sca, h.prd⟩
    · simp only [if_true]
      generalize hks : (tb.killed.filter fun r => !tb.vwrites.contains r) = ks
      have hsub : ∀ q, (q ∈ tb.vwrites ∨ q ∉ tb.killed) → q ∉ ks := by
        intro q hq hm
        rw [← hks, List.mem_filter] at hm
        rcases hq with hq | hq
        · simp [hq] at hm
        · exact hq hm.1
      have h2 := Group.final_kills ks g
      have h3 := Group.final_threads (ks.foldl Group.kill g) (allLanes.map fun l => if s.cur.mask.getLsbD l then
        ((ks.foldl Group.kill g).thread l).past else (ks.foldl Group.kill g).thread l)
      exact ⟨h2.held.trans h3.held, fun q l hl hq => (h2.vec q l hl (hsub q hq)).trans (h3.vec q l hl trivial),
        fun q hq => (h2.sca q hq).trans (h3.sca q hq), fun p l hp hq => (h2.prd p l hp hq).trans (h3.prd p l hp hq)⟩
  refine ⟨fun r l hl hr => ?_, fun r => ?_, fun p l hp => ?_⟩
  · unfold State.endV; rw [hg]; exact (key.vec r l hl hr).symm
  · unfold State.endS; rw [hg]; exact (key.sca r trivial).symm
  · unfold State.endP; rw [hg]; exact (key.prd p l hp trivial).symm

/-- One vector result, in the lanes of m. -/
theorem ends_vec (i : Instr) (tb : OpTab) (hi : i.tab = some tb) (s : State) (hI : Issuing s) (r : Nat) (m : W32) (v : Shaped)
    (d : Nat) (f : Nat → W32) (hw : r ∈ tb.vwrites) (hf : ∀ l, l < 32 → m.getLsbD l = true → v.lane l = f l) :
    EndsV s ((s.pushAll [.vec r m v d]).finish i) r m f := by
  intro hh l hl
  rw [(ends_of_push i tb hi s hI [.vec r m v d]).1 r l hl (.inl hw)]
  simp only [List.foldl_cons, List.foldl_nil]
  by_cases hm : m.getLsbD l = true
  · rw [Group.final_push_vec _ _ _ _ _ _ hl hh hm, if_pos hm, hf l hl hm]
  · rw [if_neg hm]
    have h := Group.final_push (P := fun q k => ¬ (q = r ∧ m.getLsbD k = true)) (S := fun _ => True) (Q := fun _ _ => True) s.g
      (.vec r m v d) (fun k _ hk hp => hp ⟨rfl, hk⟩)
    exact (h.vec r l hl (fun h => hm h.2)).symm
/-- A word with no result: its frame and the registers it leaves. -/
theorem ends_none (i : Instr) (tb : OpTab) (hi : i.tab = some tb) (s : State) (hI : Issuing s) :
    (∀ r l, l < 32 → (r ∈ tb.vwrites ∨ r ∉ tb.killed) → (s.finish i).endV r l = s.endV r l)
    ∧ (∀ r, (s.finish i).endS r = s.endS r) ∧ (∀ p l, p < 7 → (s.finish i).endP p l = s.endP p l) :=
  ends_of_push i tb hi s hI []

/-- The write-back of a result in the lanes of m. -/
theorem wv_eq (s : State) (r : Nat) (m : W32) (f : Nat → W32) (sh : Option Shaped) (lat : Lat) :
    s.wv (.v r) m f sh lat = if m = 0 then s else s.pushAll [.vec r m (if m = allOnes32 then sh.getD (gOf f) else gOf f)
      (s.cur.last + latCycles lat)] := by
  unfold State.wv vecWb
  by_cases h0 : m = 0
  · simp [h0]
  · by_cases h1 : m = allOnes32
    · have : (allOnes32 : W32) ≠ 0 := by decide
      subst h1
      simp only [beq_iff_eq, this, if_false, if_true, State.pushAll_cons]
      rfl
    · simp only [beq_iff_eq, h0, h1, if_false, State.pushAll_cons]
      rfl
theorem wv_zero (s : State) (d : Opnd) (m : W32) (f : Nat → W32) (sh : Option Shaped) (lat : Lat) (hd : ∀ r, d ≠ .v r) :
    s.wv d m f sh lat = s := by
  unfold State.wv vecWb
  cases d <;> simp_all
theorem shape_lane (m : W32) (f : Nat → W32) (sh : Option Shaped) (hs : ∀ x, sh = some x → ∀ l, l < 32 → x.lane l = f l) (l : Nat)
    (hl : l < 32) : (if m = allOnes32 then sh.getD (gOf f) else gOf f).lane l = f l := by
  split
  · cases sh with
    | none => exact gOf_lane f l hl
    | some x => exact hs x rfl l hl
  · exact gOf_lane f l hl

/-- A WORD WHOSE RESULT IS ONE VECTOR REGISTER (R75, R76, R84). -/
theorem puts_vec (i : Instr) (s : State) (hI : Issuing s) (d : Opnd) (hw : i.tab.map OpTab.vwrites = some d.vec)
    (m : W32) (f : Nat → W32) (sh : Option Shaped) (lat : Lat) (hs : ∀ x, sh = some x → ∀ l, l < 32 → x.lane l = f l)
    (he : exec i s = (s.wv d m f sh lat).done i) : PutsV i s d m f := by
  obtain ⟨tb, hi, hw⟩ := Option.map_eq_some_iff.mp hw
  refine ⟨_, he, ?_⟩
  by_cases hd : ∃ r, d = .v r
  · obtain ⟨r, rfl⟩ := hd
    have hr : r ∈ tb.vwrites := by simp [hw, Opnd.vec]
    rw [wv_eq]
    by_cases hm : m = 0
    · rw [if_pos hm]
      refine ⟨frame_of_push i tb hi s hI [] _ _ _ (by simp), ?_⟩
      rintro _ ⟨⟩ hh l hl
      rw [(ends_none i tb hi s hI).1 r l hl (.inl hr), hm]; simp
    · rw [if_neg hm]
      refine ⟨frame_of_push i tb hi s hI _ _ _ _ (by simp [Wb.outside, Opnd.vec]), ?_⟩
      rintro _ ⟨⟩
      exact ends_vec i tb hi s hI r m _ _ f hr fun l hl _ => shape_lane m f sh hs l hl
  · rw [wv_zero _ _ _ _ _ _ fun r h => hd ⟨r, h⟩]
    exact ⟨frame_of_push i tb hi s hI [] _ _ _ (by simp), fun r h => absurd ⟨r, h⟩ hd⟩

theorem State.pushAll_push (s : State) (w : Wb) (ws : List Wb) : (s.pushAll ws).updG (·.push w) = s.pushAll (ws ++ [w]) := by
  cases ws with
  | nil => rfl
  | cons u r =>
    rw [State.pushAll_cons, State.updG_updG, List.cons_append, State.pushAll_cons]
    simp [List.foldl_append]
theorem wv_nonzero (s : State) (r : Nat) (m : W32) (f : Nat → W32) (sh : Option Shaped) (lat : Lat) (hm : m ≠ 0) :
    s.wv (.v r) m f sh lat = s.pushAll [.vec r m (if m = allOnes32 then sh.getD (gOf f) else gOf f) (s.cur.last + latCycles lat)] := by
  rw [wv_eq, if_neg hm]
theorem wv_pushAll (s : State) (ws : List Wb) (r : Nat) (m : W32) (f : Nat → W32) (sh : Option Shaped) (lat : Lat) (hm : m ≠ 0) :
    (s.pushAll ws).wv (.v r) m f sh lat = s.pushAll (ws ++ [.vec r m (if m = allOnes32 then sh.getD (gOf f) else gOf f)
      (s.cur.last + latCycles lat)]) := by
  rw [wv_eq, if_neg hm, State.pushAll_cur, State.pushAll_cons]
  exact State.pushAll_push ..
/-- A WORD WHOSE RESULT IS A PAIR (R53, R77, R84). -/
theorem puts_vec64 (i : Instr) (s : State) (hI : Issuing s) (d : Opnd) (hw : i.tab.map OpTab.vwrites = some d.pair)
    (m : W32) (f : Nat → W64) (u : Bool) (lat : Lat) (hu : u = true → ∀ l, l < 32 → f l = f 0)
    (he : exec i s = (s.wv64 d m f u lat).done i) : PutsV64 i s d m f := by
  obtain ⟨tb, hi, hw⟩ := Option.map_eq_some_iff.mp hw
  refine ⟨_, he, ?_⟩
  by_cases hd : ∃ r, d = .v r
  · obtain ⟨r, rfl⟩ := hd
    have h0 : r ∈ tb.vwrites := by simp [hw, Opnd.pair]
    have h1 : r + 1 ∈ tb.vwrites := by simp [hw, Opnd.pair]
    simp only [State.wv64]
    by_cases hm : m = 0
    · have e : ∀ (s : State) (q : Nat) (g : Nat → W32) (sh : Option Shaped), s.wv (.v q) m g sh lat = s := fun s q g sh => by
        rw [wv_eq, if_pos hm]
      rw [e, e]
      refine ⟨frame_of_push i tb hi s hI [] _ _ _ (by simp), ?_⟩
      rintro _ ⟨⟩
      constructor <;> intro hh l hl
      · rw [(ends_none i tb hi s hI).1 r l hl (.inl h0), hm]; simp
      · rw [(ends_none i tb hi s hI).1 (r + 1) l hl (.inl h1), hm]; simp
    · rw [wv_nonzero s r _ _ _ _ hm, wv_pushAll _ _ _ _ _ _ _ hm]
      generalize hv0 : (if m = allOnes32 then
        (if u = true then some (Shaped.u ((f 0).setWidth 32)) else none).getD (gOf fun l => (f l).setWidth 32)
        else gOf fun l => (f l).setWidth 32) = v0
      generalize hv1 : (if m = allOnes32 then
        (if u = true then some (Shaped.u ((f 0).extractLsb' 32 32)) else none).getD (gOf fun l => (f l).extractLsb' 32 32)
        else gOf fun l => (f l).extractLsb' 32 32) = v1
      have e0 : ∀ l, l < 32 → v0.lane l = (f l).setWidth 32 := fun l hl => by
        rw [← hv0]
        exact shape_lane m _ _ (fun x hx k hk => by
          cases u with
          | true => simp at hx; subst hx; simp [Shaped.lane, hu rfl k hk]
          | false => simp at hx) l hl
      have e1 : ∀ l, l < 32 → v1.lane l = (f l).extractLsb' 32 32 := fun l hl => by
        rw [← hv1]
        exact shape_lane m _ _ (fun x hx k hk => by
          cases u with
          | true => simp at hx; subst hx; simp [Shaped.lane, hu rfl k hk]
          | false => simp at hx) l hl
      simp only [List.cons_append, List.nil_append]
      refine ⟨frame_of_push i tb hi s hI _ _ _ _ (by simp [Wb.outside, Opnd.pair]), ?_⟩
      rintro _ ⟨⟩
      have hends := (ends_of_push i tb hi s hI [.vec r m v0 (s.cur.last + latCycles lat), .vec (r + 1) m v1 (s.cur.last + latCycles lat)]).1
      constructor <;> intro hh l hl
      · rw [hends r l hl (.inl h0)]
        simp only [List.foldl_cons, List.foldl_nil]
        have h2 := Group.final_push (P := fun q _ => q = r) (S := fun _ => True) (Q := fun _ _ => True)
          (s.g.push (.vec r m v0 (s.cur.last + latCycles lat))) (.vec (r + 1) m v1 (s.cur.last + latCycles lat))
          (fun k _ _ hp => by omega)
        rw [← h2.vec r l hl rfl]
        by_cases hb : m.getLsbD l = true
        · rw [Group.final_push_vec _ _ _ _ _ _ hl hh hb, if_pos hb, e0 l hl]
        · rw [if_neg hb]
          have h := Group.final_push (P := fun q k => ¬ (q = r ∧ m.getLsbD k = true)) (S := fun _ => True) (Q := fun _ _ => True) s.g
            (.vec r m v0 (s.cur.last + latCycles lat)) (fun k _ hk hp => hp ⟨rfl, hk⟩)
          exact (h.vec r l hl (fun h => hb h.2)).symm
      · rw [hends (r + 1) l hl (.inl h1)]
        simp only [List.foldl_cons, List.foldl_nil]
        by_cases hb : m.getLsbD l = true
        · rw [Group.final_push_vec (s.g.push (.vec r m v0 (s.cur.last + latCycles lat))) _ _ _ _ _ hl hh hb, if_pos hb, e1 l hl]
        · rw [if_neg hb]
          have h := Group.final_push (P := fun q k => q = r + 1 ∧ ¬ m.getLsbD k = true) (S := fun _ => True) (Q := fun _ _ => True) s.g
            (.vec r m v0 (s.cur.last + latCycles lat)) (fun k _ hk hp => hp.2 hk)
          have h2 := Group.final_push (P := fun q k => q = r + 1 ∧ ¬ m.getLsbD k = true) (S := fun _ => True) (Q := fun _ _ => True)
            (s.g.push (.vec r m v0 (s.cur.last + latCycles lat))) (.vec (r + 1) m v1 (s.cur.last + latCycles lat))
            (fun k _ hk hp => hp.2 hk)
          exact ((h.vec _ l hl ⟨rfl, hb⟩).trans (h2.vec _ l hl ⟨rfl, hb⟩)).symm
  · have : s.wv64 d m f u lat = s := by
      cases d with
      | v r => exact absurd ⟨r, rfl⟩ hd
      | _ => rfl
    rw [this]
    exact ⟨frame_of_push i tb hi s hI [] _ _ _ (by simp), fun r h => absurd ⟨r, h⟩ hd⟩

/-- A WORD WHOSE RESULT IS A SCALAR, written when `on` (R132). -/
theorem puts_sca (i : Instr) (hi : i.tab.isSome = true) (s : State) (hI : Issuing s) (r : Nat) (on : Bool) (v : W64) (lat : Lat)
    (he : exec i s = (if on then s.ws r v lat else s).done i) : PutsS i s r on v := by
  obtain ⟨tb, hi⟩ := Option.isSome_iff_exists.mp hi
  refine ⟨_, he, ?_⟩
  cases on with
  | false => exact ⟨frame_of_push i tb hi s hI [] _ _ _ (by simp), (ends_none i tb hi s hI).2.1 r⟩
  | true =>
    refine ⟨frame_of_push i tb hi s hI [.sca r v (s.cur.last + latCycles lat)] _ _ _ (by simp [Wb.outside]), ?_⟩
    rw [if_pos rfl]
    exact ((ends_of_push i tb hi s hI [.sca r v (s.cur.last + latCycles lat)]).2.1 r).trans (Group.final_push_sca ..)
/-- A WORD WHOSE RESULT IS A VECTOR REGISTER OR A SCALAR (R51). -/
theorem puts_vs (i : Instr) (s : State) (hI : Issuing s) (d : Opnd) (hw : i.tab.map OpTab.vwrites = some d.vec)
    (m : W32) (v : W32) (lat : Lat) (he : exec i s = (s.wvs d m v lat).done i) : PutsVS i s d m v := by
  obtain ⟨tb, hi, hw⟩ := Option.map_eq_some_iff.mp hw
  by_cases hd : ∃ r, d = .s r
  · obtain ⟨r, rfl⟩ := hd
    refine ⟨_, he, ?_⟩
    simp only [State.wvs]
    by_cases hm : m = 0
    · rw [if_pos (by simp [hm])]
      refine ⟨frame_of_push i tb hi s hI [] _ _ _ (by simp), fun _ h => (by cases h), ?_⟩
      rintro _ ⟨⟩
      rw [if_pos (by simp [hm])]
      exact (ends_none i tb hi s hI).2.1 r
    · rw [if_neg (by simpa using hm)]
      refine ⟨frame_of_push i tb hi s hI [.sca r (v.setWidth 64) (s.cur.last + latCycles lat)] _ _ _ (by simp [Wb.outside, Opnd.sca]),
        fun _ h => (by cases h), ?_⟩
      rintro _ ⟨⟩
      rw [if_neg (by simpa using hm)]
      exact ((ends_of_push i tb hi s hI [.sca r (v.setWidth 64) (s.cur.last + latCycles lat)]).2.1 r).trans (Group.final_push_sca ..)
  · have e : s.wvs d m v lat = s.wv d m (fun _ => v) (some (.u v)) lat := by
      cases d with
      | s r => exact absurd ⟨r, rfl⟩ hd
      | _ => rfl
    obtain ⟨t, ht, hF, hv⟩ := puts_vec i s hI d (by rw [hi]; simp [hw]) m (fun _ => v) (some (.u v)) lat
      (fun x hx l _ => by simp at hx; subst hx; rfl) (e ▸ he)
    exact ⟨t, ht, ⟨hF.only, hF.group, hF.vecs, fun r _ => hF.scalars r (by simp), hF.preds⟩, hv, fun r h => absurd ⟨r, h⟩ hd⟩
theorem maskOf_bit (p : Nat → Bool) (l : Nat) (h : l < 32) : (maskOf p).getLsbD l = p l := by
  unfold maskOf
  rw [BitVec.getLsbD_setWidth, BitVec.getLsbD_ofBoolListLE]
  simp [allLanes, h]
/-- A WORD WHOSE RESULT IS A PREDICATE (R122, R123). -/
theorem puts_prd (i : Instr) (hi : i.tab.isSome = true) (s : State) (hI : Issuing s) (p : BitVec 3) (hp : p ≠ 7) (m : W32)
    (f : Nat → Bool) (lat : Lat) (he : exec i s = (s.wp p m f lat).done i) : PutsP i s p m f := by
  obtain ⟨tb, hi⟩ := Option.isSome_iff_exists.mp hi
  have hp7 : p.toNat < 7 := by
    rcases Nat.lt_or_ge p.toNat 7 with h | h
    · exact h
    · exact absurd (BitVec.eq_of_toNat_eq (by have := p.isLt; simp; omega)) hp
  refine ⟨_, he, ?_⟩
  unfold State.wp
  by_cases hm : m = 0
  · rw [if_pos (by simp [hm])]
    refine ⟨frame_of_push i tb hi s hI [] _ _ _ (by simp), fun l hl => ?_⟩
    rw [(ends_none i tb hi s hI).2.2 _ l hp7, hm]; simp
  · rw [if_neg (by simpa using hm)]
    refine ⟨frame_of_push i tb hi s hI [.prd p.toNat m (maskOf f) (s.cur.last + latCycles lat)] _ _ _ (by simp [Wb.outside]), fun l hl => ?_⟩
    refine ((ends_of_push i tb hi s hI [.prd p.toNat m (maskOf f) (s.cur.last + latCycles lat)]).2.2 _ l hp7).trans ?_
    simp only [List.foldl_cons, List.foldl_nil]
    by_cases hb : m.getLsbD l = true
    · rw [Group.final_push_prd _ _ _ _ _ _ hp7 hb, if_pos hb, maskOf_bit f l hl]
    · rw [if_neg hb]
      have h := Group.final_push (P := fun _ _ => True) (S := fun _ => True) (Q := fun q k => ¬ (q = p.toNat ∧ m.getLsbD k = true)) s.g
        (.prd p.toNat m (maskOf f) (s.cur.last + latCycles lat)) (fun k hk hq => hq ⟨rfl, hk⟩)
      exact (h.prd _ l hp7 (fun h => hb h.2)).symm
/-- A HALF'S RESULT (R65, R66). -/
theorem puts_half (i : Instr) (s : State) (hI : Issuing s) (d : Opnd) (m : W32) (f : Nat → W32) (sh : Option Shaped) (lat : Lat)
    (hs : ∀ x, sh = some x → ∀ l, l < 32 → x.lane l = f l) (he : exec i s = .next (s.wv d m f sh lat)) : PutsHalf i s d m f := by
  refine ⟨_, he, ?_⟩
  have none_ : OnlyGroup s s ∧ s.g = { s.g with wb := s.g.wb } ∧ (∀ r l, l < 32 → r ∉ d.vec → s.endV r l = s.endV r l)
      ∧ (∀ r, s.endS r = s.endS r) ∧ (∀ p l, p < 7 → s.endP p l = s.endP p l) :=
    ⟨⟨rfl, fun _ => rfl, fun _ _ _ => rfl⟩, rfl, fun _ _ _ _ => rfl, fun _ => rfl, fun _ _ _ => rfl⟩
  by_cases hd : ∃ r, d = .v r
  · obtain ⟨r, rfl⟩ := hd
    rw [wv_eq]
    by_cases hm : m = 0
    · rw [if_pos hm]
      refine ⟨none_.1, none_.2.1, none_.2.2.1, none_.2.2.2.1, none_.2.2.2.2, ?_⟩
      rintro _ ⟨⟩ hh l hl
      rw [hm]; simp
    · rw [if_neg hm, State.pushAll_cons]
      have hg := State.g_updG s (fun g => [Wb.vec r m (if m = allOnes32 then sh.getD (gOf f) else gOf f) (s.cur.last + latCycles lat)].foldl Group.push g) hI.1
      have h := Group.final_push (P := fun q _ => q ≠ r) (S := fun _ => True) (Q := fun _ _ => True) s.g
        (.vec r m (if m = allOnes32 then sh.getD (gOf f) else gOf f) (s.cur.last + latCycles lat)) (fun k _ _ hp => hp rfl)
      refine ⟨OnlyGroup.updG _ _, by rw [hg]; rfl, fun q l hl hq => ?_, fun q => ?_, fun p l hp => ?_, ?_⟩
      · unfold State.endV; rw [hg]; exact (h.vec q l hl (by simpa [Opnd.vec] using hq)).symm
      · unfold State.endS; rw [hg]; exact (h.sca q trivial).symm
      · unfold State.endP; rw [hg]; exact (h.prd p l hp trivial).symm
      · rintro _ ⟨⟩ hh l hl
        unfold State.endV
        rw [hg]
        simp only [List.foldl_cons, List.foldl_nil]
        by_cases hb : m.getLsbD l = true
        · rw [Group.final_push_vec _ _ _ _ _ _ hl hh hb, if_pos hb]
          exact shape_lane m f sh hs l hl
        · rw [if_neg hb]
          have h := Group.final_push (P := fun q k => ¬ (q = r ∧ m.getLsbD k = true)) (S := fun _ => True) (Q := fun _ _ => True) s.g
            (.vec r m (if m = allOnes32 then sh.getD (gOf f) else gOf f) (s.cur.last + latCycles lat)) (fun k _ hk hp => hp ⟨rfl, hk⟩)
          exact (h.vec r l hl (fun h => hb h.2)).symm
  · rw [wv_zero _ _ _ _ _ _ fun r h => hd ⟨r, h⟩]
    exact ⟨none_.1, none_.2.1, none_.2.2.1, none_.2.2.2.1, none_.2.2.2.2, fun r h => absurd ⟨r, h⟩ hd⟩

/-- A source read as U reads the same in every lane (R75). -/
theorem rd_of_isU (s : State) (o : Opnd) (h : s.isU o = true) (l : Nat) : s.rd o l = s.rd o 0 := by
  cases o with
  | v n =>
    simp only [State.isU, State.shape] at h
    by_cases hh : s.g.held.any (·.1 == n) = true
    · simp [hh, Shaped.isU] at h
    · rw [if_neg hh] at h
      simp only [State.rd, State.vlaneOf, if_neg hh]
      cases hr : s.g.reg n with
      | u c => rfl
      | a b c => simp [hr, Shaped.isU] at h
      | g c => simp [hr, Shaped.isU] at h
  | lane => simp [State.isU, State.shape, Shaped.isU] at h
  | _ => rfl
/-- The same of a 64-bit source (R77). -/
theorem rd64_of_isUw (s : State) (o : Opnd) (h : s.isUw o = true) (l : Nat) : s.rd64 o l = s.rd64 o 0 := by
  cases o with
  | v n =>
    simp only [State.isUw, Bool.and_eq_true] at h
    have h0 := rd_of_isU s (.v n) h.1 l
    have h1 := rd_of_isU s (.v (n + 1)) h.2 l
    simp only [State.rd] at h0 h1
    simp only [State.rd64, h0, h1]
  | lane => simp [State.isUw, State.isU, State.shape, Shaped.isU] at h
  | _ => rfl
/-- A source read with a base and a stride (R73, R75). -/
theorem rd_of_affine (s : State) (o : Opnd) (b st : W32) (h : (s.shape o).affine = some (b, st)) (l : Nat) :
    s.rd o l = b + BitVec.ofNat 32 l * st := by
  cases o with
  | v n =>
    simp only [State.shape] at h
    by_cases hh : s.g.held.any (·.1 == n) = true
    · simp [hh, Shaped.affine] at h
    · rw [if_neg hh] at h
      simp only [State.rd, State.vlaneOf, if_neg hh]
      cases hr : s.g.reg n with
      | u c => simp [hr, Shaped.affine] at h; obtain ⟨rfl, rfl⟩ := h; simp [Shaped.lane]
      | a x y => simp [hr, Shaped.affine] at h; obtain ⟨rfl, rfl⟩ := h; rfl
      | g c => simp [hr, Shaped.affine] at h
  | lane => simp [State.shape, Shaped.affine] at h; obtain ⟨rfl, rfl⟩ := h; simp [State.rd]
  | s n => simp [State.shape, Shaped.affine] at h; obtain ⟨h, rfl⟩ := h; simp [← h, State.rd]
  | zero => simp [State.shape, Shaped.affine, State.rd] at h; obtain ⟨rfl, rfl⟩ := h; simp [State.rd]
  | ones => simp [State.shape, Shaped.affine, State.rd] at h; obtain ⟨h, rfl⟩ := h; simp [← h, State.rd]
  | group => simp [State.shape, Shaped.affine, State.rd] at h; obtain ⟨h, rfl⟩ := h; simp [← h, State.rd]
  | item => simp [State.shape, Shaped.affine, State.rd] at h; obtain ⟨h, rfl⟩ := h; simp [← h, State.rd]

end Sys2Proof.Machine
end

