-- ==== Sys2Proof/Tests/Slice0.lean ====
section
/-! SUPPORT. Tests: words decoded, ill-formed terms refused, single steps whose results the spec works out, and for each
statement that has hypotheses a state and operands that meet them. -/
set_option Elab.async false
namespace Sys2Proof.Tests
open Sys2Proof Sys2Proof.Machine

/-- An unguarded word with every hint clear. -/
def ctl : Ctl := { pg := 7, pn := false, yld := false, gap := 0, ka := false, kb := false, kc := false, fb := false }
/-- An unguarded half. -/
def hf (da sb : Opnd) : Half := { da, sb, pg := 7, pn := false, ka := false, kb := false }

/-- Words laid out by R47, R48 and the fields of R109 to R113. -/
theorem test_decode_integer :
    decode 0x00F7000000000000 = .one (.nop ctl)
    ∧ decode 0x0170040403000001 = .one (.iaddRegisters ctl (.v 1) (.v 2) (.v 3) .n false false)
    ∧ decode 0x01F0080400180001 = .one (.iaddImmediate { ctl with gap := 1, ka := true } (.v 2) (.v 2) 1 .i false false)
    ∧ decode 0x0270080806000040 = .one (.isub ctl (.v 2) (.v 4) (.v 6) .i false true)
    ∧ decode 0x02F0040403000000 = .one (.imulRegisters ctl (.v 1) (.v 2) (.v 3))
    ∧ decode 0x037004040001FFFE = .one (.imulImmediate ctl (.v 1) (.v 2) 0x1FFFE)
    ∧ decode 0x03F0040403000001 = .one (.imulh ctl (.v 1) (.v 2) (.v 3) .n)
    ∧ decode 0x0470040403000400 = .one (.imad ctl (.v 1) (.v 2) (.v 3) (.v 4))
    ∧ decode 0x04F0080A03000401 = .one (.imadw ctl (.v 2) (.v 5) (.v 3) (.v 4) .n)
    ∧ decode 0x0570040403000000 = .one (.idiv ctl (.v 1) (.v 2) (.v 3) .i)
    ∧ decode 0x05F0040403000001 = .one (.irem ctl (.v 1) (.v 2) (.v 3) .n)
    ∧ decode 0x0670040403000001 = .one (.imin ctl (.v 1) (.v 2) (.v 3) .n)
    ∧ decode 0x06F0040403000000 = .one (.imax ctl (.v 1) (.v 2) (.v 3) .i)
    ∧ decode 0x0770040400000002 = .one (.iabs ctl (.v 1) (.v 2) true)
    ∧ decode 0x07F0040403000401 = .one (.isad ctl (.v 1) (.v 2) (.v 3) (.v 4) .n) := by decide

/-- Words laid out by R47, R48 and the fields of R114. -/
theorem test_decode_shifts :
    decode 0x0870040403000000 = .one (.shlRegisters ctl (.v 1) (.v 2) (.v 3))
    ∧ decode 0x08F0040000180002 = .one (.shlImmediate { ctl with gap := 1, ka := true } (.v 1) (.v 0) 2)
    ∧ decode 0x0970040403000000 = .one (.shrRegisters ctl (.v 1) (.v 2) (.v 3))
    ∧ decode 0x09F004040000001F = .one (.shrImmediate ctl (.v 1) (.v 2) 31)
    ∧ decode 0x0A70040403000000 = .one (.sraRegisters ctl (.v 1) (.v 2) (.v 3))
    ∧ decode 0x0AF0040400000005 = .one (.sraImmediate ctl (.v 1) (.v 2) 5)
    ∧ decode 0x0B70040403000401 = .one (.shf ctl (.v 1) (.v 2) (.v 3) (.v 4) true)
    ∧ decode 0x0BF0040403000001 = .one (.rot ctl (.v 1) (.v 2) (.v 3) true) := by decide

/-- Words laid out by R47, R48 and the fields of R115 to R118. -/
theorem test_decode_logic :
    decode 0x0C70068403000000 = .one (.andRegisters ctl (.v 1) (.s 2) (.v 3))
    ∧ decode 0x0CF00404000000FF = .one (.andImmediate ctl (.v 1) (.v 2) 0xFF)
    ∧ decode 0x0D70078203000000 = .one (.orRegisters ctl (.v 1) .lane (.v 3))
    ∧ decode 0x0DF00404000000FF = .one (.orImmediate ctl (.v 1) (.v 2) 0xFF)
    ∧ decode 0x0E700785C4000000 = .one (.xorRegisters ctl (.v 1) .ones .item)
    ∧ decode 0x0EF007860001FFFF = .one (.xorImmediate ctl (.v 1) .group 0x1FFFF)
    ∧ decode 0x0F701C0202000369 = .one (.bool3 ctl (.v 7) (.v 1) (.v 2) (.v 3) 6 9)
    ∧ decode 0x0FF0040400000000 = .one (.popc ctl (.v 1) (.v 2))
    ∧ decode 0x1070040400000000 = .one (.clz ctl (.v 1) (.v 2))
    ∧ decode 0x10F0040400000000 = .one (.ctz ctl (.v 1) (.v 2))
    ∧ decode 0x1170040400000000 = .one (.brev ctl (.v 1) (.v 2))
    ∧ decode 0x11F0040403000401 = .one (.bfx ctl (.v 1) (.v 2) (.v 3) (.v 4) .n)
    ∧ decode 0x1270040403000400 = .one (.bfi ctl (.v 1) (.v 2) (.v 3) (.v 4))
    ∧ decode 0x12F0040403000400 = .one (.bshuf ctl (.v 1) (.v 2) (.v 3) (.v 4)) := by decide

/-- Words laid out by R47, R48 and the fields of R119 to R125. -/
theorem test_decode_moves :
    decode 0x137004040300041F = .one (.leaRegisters ctl (.v 1) (.v 2) (.v 3) (.v 4) 31)
    ∧ decode 0x13F0040403000009 = .one (.leaImmediate ctl (.v 1) (.v 2) 9 3)
    ∧ decode 0x1470080800000040 = .one (.mov ctl (.v 2) (.v 4) true)
    ∧ decode 0x14F024007F01FFFD = .one (.movi ctl (.v 9) (.const 0xFFFFFD))
    ∧ decode 0x14F0240680004000 = .one (.movi ctl (.v 9) (.ins (.v 3) 0x4000))
    ∧ decode 0x157004040300000B = .one (.sel ctl (.v 1) (.v 2) (.v 3) 3 true false)
    ∧ decode 0x2070080A06000002 = .one (.isetRegisters ctl 2 (.v 5) (.v 6) .lt .i .set)
    ∧ decode 0x20F0080A1D000007 = .one (.isetImmediate ctl 2 (.v 5) 7 .ge .n .and)
    ∧ decode 0x217004040700000E = .one (.plop ctl 1 2 7 0xE)
    ∧ decode 0x21F0040000000000 = .one (.p2v ctl (.v 1))
    ∧ decode 0x2277000600000015 = .one (.v2p ctl (.v 3) 0x15)
    ∧ decode 0x22F0040400000000 = .one (.vshape ctl (.v 1) (.v 2))
    ∧ decode 0x2370040400000000 = .one (.vwiden ctl (.v 1) (.v 2)) := by decide

/-- Words laid out by R47, R48 and the fields of R132 to R135. -/
theorem test_decode_scalar :
    decode 0x15F5FD9003000000 = .one (.saddRegisters ctl 383 200 3)
    ∧ decode 0x1670500E0001FFF8 = .one (.saddImmediate ctl 20 7 0x1FFF8)
    ∧ decode 0x16F0040403000000 = .one (.ssub ctl 1 2 3)
    ∧ decode 0x1770040403000000 = .one (.smul ctl 1 2 3)
    ∧ decode 0x17F0040403000001 = .one (.smulh ctl 1 2 3 .n)
    ∧ decode 0x1870040403000000 = .one (.sandRegisters ctl 1 2 3)
    ∧ decode 0x18F004040001FFFF = .one (.sandImmediate ctl 1 2 0x1FFFF)
    ∧ decode 0x1970040403000000 = .one (.sor ctl 1 2 3)
    ∧ decode 0x19F0040403000000 = .one (.sxor ctl 1 2 3)
    ∧ decode 0x1A70040403000000 = .one (.sshlRegisters ctl 1 2 3)
    ∧ decode 0x1AF004040000003F = .one (.sshlImmediate ctl 1 2 63)
    ∧ decode 0x1B70040403000000 = .one (.sshrRegisters ctl 1 2 3)
    ∧ decode 0x1BF0040400000021 = .one (.sshrImmediate ctl 1 2 33)
    ∧ decode 0x1C70040403000000 = .one (.ssra ctl 1 2 3)
    ∧ decode 0x1CF0040403000001 = .one (.smin ctl 1 2 3 .n)
    ∧ decode 0x1D70040403000000 = .one (.smax ctl 1 2 3 .i)
    ∧ decode 0x1DF004040300000C = .one (.sset ctl 1 2 3 .gt .n)
    ∧ decode 0x1E70040403000001 = .one (.ssel ctl 1 2 3 true)
    ∧ decode 0x1EF4B00800000000 = .one (.smov ctl 300 4)
    ∧ decode 0x1F7014007F01FFFF = .one (.smovi ctl 5 (.const 0xFFFFFF))
    ∧ decode 0x1FF004040300043F = .one (.slea ctl 1 2 3 4 63) := by decide

/-- Words laid out by R47, R48 and the fields of R126 to R131. -/
theorem test_decode_lanes :
    decode 0x23F0301545080003 = .one (.shfl { ctl with ka := true } (.v 12) (.v 10) (.s 5) .xor .seg32)
    ∧ decode 0x24700C0000000069 = .one (.census ctl (.pred 3) .all 5 true)
    ∧ decode 0x247024000000002B = .one (.census ctl (.reg (.v 9)) .mask 5 false)
    ∧ decode 0x24F5280600000010 = .one (.gred ctl (.s 10) (.v 3) .add .f32)
    ∧ decode 0x2570100400000001 = .one (.matchLanes ctl (.reg (.v 4)) (.v 2) true)
    ∧ decode 0x2570100400000002 = .one (.matchLanes ctl (.pred 4) (.v 2) false)
    ∧ decode 0x25F0040403000000 = .one (.vbcast ctl (.v 1) (.v 2) (.v 3))
    ∧ decode 0x2670040403000000 = .one (.vlane ctl (.v 1) (.v 2) (.v 3)) := by decide

/-- Words laid out by R47, R48 and the fields of R151, R152. -/
theorem test_decode_control :
    decode 0x2870000000000008 = .one (.bra ctl 8)
    ∧ decode 0x28700001FF01FFFC = .one (.bra ctl 0x3FFFFFC)
    ∧ decode 0x2810000000000003 = .one (.bra { ctl with pg := 1 } 3)
    ∧ decode 0x28F7000C00000000 = .one (.brx ctl (.v 6))
    ∧ decode 0x2970500000000010 = .one (.call ctl (.v 20) 16)
    ∧ decode 0x29F0500C00000000 = .one (.callx ctl (.v 20) (.v 6))
    ∧ decode 0x2A77002800000000 = .one (.ret ctl (.v 20))
    ∧ decode 0x2AF7000000000000 = .one (.exit ctl)
    ∧ decode 0x2B70080000000000 = .one (.jset ctl 2 none)
    ∧ decode 0x2B700A9200000001 = .one (.jset ctl 2 (some (.s 9)))
    ∧ decode 0x2BF0080000000000 = .one (.jarr ctl 2)
    ∧ decode 0x2C70080000000000 = .one (.jdrop ctl 2)
    ∧ decode 0x2CF0240400000000 = .one (.jread ctl (.v 9) 2)
    ∧ decode 0x2D77000002000001 = .one (.waitf ctl 0x201)
    ∧ decode 0x2DF7028800000000 = .one (.sleep ctl (.s 4)) := by decide

/-- Words laid out by R47, R48 and the fields of R155 to R160. -/
theorem test_decode_float :
    decode 0x307028160C000001 = .one (.faddRegisters ctl (.v 10) (.v 11) (.v 12) .rz false)
    ∧ decode 0x30F0040406000005 = .one (.faddImmediate ctl (.v 1) (.v 2) 5 .ru true)
    ∧ decode 0x3170040403000003 = .one (.fsub ctl (.v 1) (.v 2) (.v 3) .rd false)
    ∧ decode 0x31F0040403000004 = .one (.fmulRegisters ctl (.v 1) (.v 2) (.v 3) .rn true)
    ∧ decode 0x3270100800087E00 = .one (.fmulImmediate { ctl with ka := true } (.v 4) (.v 4) 0x7E00 .rn false)
    ∧ decode 0x32B820120A340B00 = .one (.ffma { ctl with pg := 3, pn := true, gap := 3, kb := true } (.v 8) (.v 9) (.v 10) (.v 11) .rn false false false)
    ∧ decode 0x32F020120A000B09 = .one (.ffma ctl (.v 8) (.v 9) (.v 10) (.v 11) .rz false true false)
    ∧ decode 0x3370040403000000 = .one (.fmin ctl (.v 1) (.v 2) (.v 3))
    ∧ decode 0x33F0040403000000 = .one (.fmax ctl (.v 1) (.v 2) (.v 3))
    ∧ decode 0x3470040A06000002 = .one (.fsetRegisters ctl 1 (.v 5) (.v 6) .lt .set)
    ∧ decode 0x34F0040A37000006 = .one (.fsetImmediate ctl 1 (.v 5) 6 .nan .xor)
    ∧ decode 0x3570040400000002 = .one (.fclass ctl (.v 1) (.v 2) .b16)
    ∧ decode 0x35F0040400000003 = .one (.frnd ctl (.v 1) (.v 2) .rd)
    ∧ decode 0x3670040403000001 = .one (.fscale ctl (.v 1) (.v 2) (.v 3) .rz) := by decide

/-- Words laid out by R47, R48 and the fields of R161, R162. -/
theorem test_decode_special_functions :
    decode 0x3870040400000001 = .one (.frcp ctl (.v 1) (.v 2) .rz)
    ∧ decode 0x38F0040400000000 = .one (.frsq ctl (.v 1) (.v 2))
    ∧ decode 0x3970040400000002 = .one (.fsqrt ctl (.v 1) (.v 2) .ru)
    ∧ decode 0x39F0040400000000 = .one (.fexp2 ctl (.v 1) (.v 2))
    ∧ decode 0x3A70040400000000 = .one (.flog2 ctl (.v 1) (.v 2))
    ∧ decode 0x3AF00C0600080000 = .one (.fsin { ctl with ka := true } (.v 3) (.v 3))
    ∧ decode 0x3B70040400000000 = .one (.fcos ctl (.v 1) (.v 2))
    ∧ decode 0x3BF0040400000000 = .one (.ftanh ctl (.v 1) (.v 2)) := by decide

/-- Words laid out by R47, R48 and the fields of R155, R163 to R167. -/
theorem test_decode_packed :
    decode 0x4070040403000004 = .one (.hadd2 ctl (.v 1) (.v 2) (.v 3) .rn true)
    ∧ decode 0x40F0040403000001 = .one (.hsub2 ctl (.v 1) (.v 2) (.v 3) .rz false)
    ∧ decode 0x4170040403000002 = .one (.hmul2 ctl (.v 1) (.v 2) (.v 3) .ru false)
    ∧ decode 0x41F0502A16001704 = .one (.hfma2 ctl (.v 20) (.v 21) (.v 22) (.v 23) .rn true)
    ∧ decode 0x4270040403000004 = .one (.hmin2 ctl (.v 1) (.v 2) (.v 3) true)
    ∧ decode 0x42F0040403000000 = .one (.hmax2 ctl (.v 1) (.v 2) (.v 3) false)
    ∧ decode 0x4370040403000034 = .one (.hset2 ctl (.v 1) (.v 2) (.v 3) .le true)
    ∧ decode 0x4470080660000048 = .one (.cvt ctl (.v 2) (.v 3) (.el .i8) (.el .f32) .ru .trap)
    ∧ decode 0x44F0040403000495 = .one (.pack ctl (.v 1) (.v 2) (.v 3) (.v 4) .e4m3 .rz .nan)
    ∧ decode 0x457004040300001C = .one (.unpack ctl (.v 1) (.v 2) (.v 3) .i4 true)
    ∧ decode 0x4870040403000448 = .one (.dp2h ctl (.v 1) (.v 2) (.v 3) (.v 4) .f16 .b16 .rz)
    ∧ decode 0x48F0040403000423 = .one (.dp4 ctl (.v 1) (.v 2) (.v 3) (.v 4) .lg8 .i8 .rn)
    ∧ decode 0x497004040300040B = .one (.dp8 ctl (.v 1) (.v 2) (.v 3) (.v 4) .n4 .e1m2 .rn)
    ∧ decode 0x49F0040403000408 = .one (.dp16 ctl (.v 1) (.v 2) (.v 3) (.v 4) .i2 .t2 .rn) := by decide

/-- Words laid out by R47, R48 and the fields of R225 to R230. -/
theorem test_decode_memory :
    decode 0x50700A8801000000 = .one (.ld ctl (.v 2) (.s 4) (.v 1) .b32 false .n false)
    ∧ decode 0x50F7028801060200 = .one (.st { ctl with kb := true, kc := true } (.s 4) (.v 1) (.v 2) .b32 .n false)
    ∧ decode 0x5170168DC0000002 = .one (.lda ctl (.v 5) (.s 6) .zero false .dev false)
    ∧ decode 0x51F7028C010002D2 = .one (.strel { ctl with fb := true } (.s 6) (.v 1) (.v 2) false .dev true true)
    ∧ decode 0x527008080100002B = .one (.lds ctl (.v 2) (.v 4) (.v 1) .b8 true .fec)
    ∧ decode 0x52F7000801000211 = .one (.sts ctl (.v 4) (.v 1) (.v 2) .b64 true)
    ∧ decode 0x5370100000000001 = .one (.sld ctl 4 0 none .b64 false .n)
    ∧ decode 0x53F0100C08000060 = .one (.sst ctl 6 (some 8) 4 .b32 .el)
    ∧ decode 0x5470229409000C09 = .one (.atom ctl (.v 8) (.s 10) (.v 12) .cas false .dev .acq)
    ∧ decode 0x54F020061C000C10 = .one (.atoms ctl (.v 8) (.v 3) (.v 12) .add true .team .ar)
    ∧ decode 0x5577029412000C07 = .one (.red ctl (.s 10) (.v 12) .xor false .die .rel) := by decide

/-- Words laid out by R47, R48 and the fields of R231 to R234. -/
theorem test_decode_fences :
    decode 0x5877000000000006 = .one (.fence ctl .rel .dev)
    ∧ decode 0x58F7028801000201 = .one (.publish ctl (.s 4) (.v 1) false (some (.v 2)))
    ∧ decode 0x5977028801000062 = .one (.pref ctl (.s 4) (.v 1) true none true .el)
    ∧ decode 0x59F7028801000000 = .one (.clean ctl (.s 4) (.v 1) false none)
    ∧ decode 0x5A77028801000040 = .one (.inval ctl (.s 4) (.v 1) true none)
    ∧ decode 0x5C77000202000300 = .one (.feset ctl (.v 1) (.v 2) (.v 3))
    ∧ decode 0x5CF7000202000300 = .one (.feclr ctl (.v 1) (.v 2) (.v 3))
    ∧ decode 0x5D77000202000301 = .one (.fewait ctl (.v 1) (.v 2) (.v 3) true) := by decide

/-- Words laid out by R47, R48 and the fields of R237 to R243. -/
theorem test_decode_copy :
    decode 0x6070068948000000 = .one (.tsrset ctl (.v 1) (.s 4) 1)
    ∧ decode 0x60F7029150015800 = .one (.cpyin ctl 8 16 24)
    ∧ decode 0x6177029150015880 = .one (.cpyout { ctl with fb := true } 8 16 24)
    ∧ decode 0x61F7029150015800 = .one (.cpyobG ctl 8 16 24)
    ∧ decode 0x61F7001010015801 = .one (.cpyobS ctl (.v 8) (.v 16) 24)
    ∧ decode 0x61F7001010015802 = .one (.cpyobO ctl (.v 8) (.v 16) 24)
    ∧ decode 0x6277029150015804 = .one (.cpyred ctl 8 16 24 .minI)
    ∧ decode 0x62F7029150000020 = .one (.cpypf ctl 8 16 .el)
    ∧ decode 0x6377000001002400 = .one (.cpycan ctl 0x124) := by decide

/-- Words laid out by R47, R48 and the fields of R271. -/
theorem test_decode_matrix :
    decode 0x6875528A00000000 = .one (.obres ctl (.s 20) 5)
    ∧ decode 0x68F7028A00000000 = .one (.obrel ctl (.s 5))
    ∧ decode 0x6977028C01000801 = .one (.obput ctl 6 (.v 1) (.v 8) true)
    ∧ decode 0x69F00E8C01000000 = .one (.obget ctl (.v 3) 6 (.v 1) false)
    ∧ decode 0x6A71028800000000 = .one (.mzero ctl 64 4)
    ∧ decode 0x6AF70000A0000080 = .one (.mready { ctl with fb := true } 0 160)
    ∧ decode 0x6B7002A000000000 = .one (.mloop ctl 0 2) := by decide

/-- Words laid out by R47, R48 and the fields of R306. -/
theorem test_decode_templates :
    decode 0x7075500B48000000 = .one (.freeze ctl (.s 20) 5 1)
    ∧ decode 0x70F55EA956000000 = .one (.stamp ctl (.s 23) (.s 20) 22)
    ∧ decode 0x717702880801C002 = .one (.spawn ctl 4 (.v 8) 2 .zero)
    ∧ decode 0x71F702A800000000 = .one (.tdrop ctl (.s 20))
    ∧ decode 0x7270278000000001 = .one (.tinfo ctl (.v 9) .zero 1) := by decide

/-- Words laid out by R47, R48 and the fields of R326, R328, R331, R335. -/
theorem test_decode_queues :
    decode 0x72F7000000000003 = .one (.barArv ctl 3)
    ∧ decode 0x72F7000000000013 = .one (.barArr ctl 3)
    ∧ decode 0x72F00A8800000023 = .one (.barExp ctl (.v 2) 3 (.s 4))
    ∧ decode 0x7375280000000001 = .one (.racq ctl (.s 10) 1)
    ∧ decode 0x73F7000000000001 = .one (.rpub ctl 1)
    ∧ decode 0x7470300000000001 = .one (.rtake ctl (.v 12) 1)
    ∧ decode 0x74F7000000000001 = .one (.rdone ctl 1)
    ∧ decode 0x7577029149014A02 = .one (.send ctl 8 9 10 false true)
    ∧ decode 0x75F7029149014A02 = .one (.fget ctl 8 9 10 true)
    ∧ decode 0x7670100400000000 = .one (.dalloc ctl (.v 4) (.v 2))
    ∧ decode 0x76F7000802000000 = .one (.dfree ctl (.v 4) (.v 2)) := by decide

/-- Words laid out by R47, R48 and the fields of R337 to R344. -/
theorem test_decode_system :
    decode 0x7877000000000005 = .one (.live ctl 5)
    ∧ decode 0x78F700000000002A = .one (.trap ctl 42)
    ∧ decode 0x7CF7000000000000 = .one (.bkpt ctl 0)
    ∧ decode 0x7975500148000000 = .one (.hcall ctl (.s 20) 1)
    ∧ decode 0x79F5568D50000000 = .one (.qsig ctl (.s 21) 6 2)
    ∧ decode 0x7A70100008000000 = .one (.srd ctl 4 8)
    ∧ decode 0x7AF0140010000000 = .one (.swr ctl 0x10 5)
    ∧ decode 0x7B77028D47000000 = .one (.ipf ctl 6 (.s 7) false)
    ∧ decode 0x7BF7028D47000001 = .one (.ipin ctl 6 (.s 7) true)
    ∧ decode 0x7C77028D47000000 = .one (.iunpin ctl 6 (.s 7) false) := by decide

/-- Words laid out by R47, R48 and the fields of R56, R61. -/
theorem test_decode_header :
    decode 0x7F8007F880000000 = .one (.clauseHeader 0 15 15 2)
    ∧ decode 0x7FC009CFC0000000 = .one (.clauseHeader 0x801 3 9 31) := by decide

/-- Pair words laid out by R62, R63 and R66; the first is the one R66 prints. -/
theorem test_decode_pairs :
    decode 0xC80402F0080D43E0 = .pair (.halfIadd (hf (.v 6) (.s 3))) (.halfFmul (hf (.v 4) (.v 5))) false
    ∧ decode 0xC40001A80C0202E4 = .pair (.halfIsub { hf (.v 1) (.v 2) with kb := true }) (.halfFadd { hf (.v 0) (.v 3) with pg := 2, pn := true }) false
    ∧ decode 0xC60001A8100202E5 = .pair (.halfImul { hf (.v 1) (.v 2) with kb := true }) (.halfFsub { hf (.v 0) (.v 3) with pg := 2, pn := true }) true
    ∧ decode 0xCA0001A8140202E4 = .pair (.halfIminI32 { hf (.v 1) (.v 2) with kb := true }) (.halfFmin { hf (.v 0) (.v 3) with pg := 2, pn := true }) false
    ∧ decode 0xCC0001A8180202E5 = .pair (.halfImaxI32 { hf (.v 1) (.v 2) with kb := true }) (.halfFmax { hf (.v 0) (.v 3) with pg := 2, pn := true }) true
    ∧ decode 0xCE0001A81C0202E4 = .pair (.halfIminN32 { hf (.v 1) (.v 2) with kb := true }) (.halfHadd2F16 { hf (.v 0) (.v 3) with pg := 2, pn := true }) false
    ∧ decode 0xD00001A8200202E5 = .pair (.halfImaxN32 { hf (.v 1) (.v 2) with kb := true }) (.halfHsub2F16 { hf (.v 0) (.v 3) with pg := 2, pn := true }) true
    ∧ decode 0xD20001A8240202E4 = .pair (.halfShl { hf (.v 1) (.v 2) with kb := true }) (.halfHmul2F16 { hf (.v 0) (.v 3) with pg := 2, pn := true }) false
    ∧ decode 0xD40001A8280202E5 = .pair (.halfShr { hf (.v 1) (.v 2) with kb := true }) (.halfHmin2F16 { hf (.v 0) (.v 3) with pg := 2, pn := true }) true
    ∧ decode 0xD60001A82C0202E4 = .pair (.halfSra { hf (.v 1) (.v 2) with kb := true }) (.halfHmax2F16 { hf (.v 0) (.v 3) with pg := 2, pn := true }) false
    ∧ decode 0xD80001A8300202E5 = .pair (.halfAnd { hf (.v 1) (.v 2) with kb := true }) (.halfHadd2B16 { hf (.v 0) (.v 3) with pg := 2, pn := true }) true
    ∧ decode 0xDA0001A8340202E4 = .pair (.halfOr { hf (.v 1) (.v 2) with kb := true }) (.halfHsub2B16 { hf (.v 0) (.v 3) with pg := 2, pn := true }) false
    ∧ decode 0xDC0001A8380202E5 = .pair (.halfXor { hf (.v 1) (.v 2) with kb := true }) (.halfHmul2B16 { hf (.v 0) (.v 3) with pg := 2, pn := true }) true
    ∧ decode 0xDE0001A83C0202E4 = .pair (.halfMov { hf (.v 1) (.v 2) with kb := true }) (.halfHmin2B16 { hf (.v 0) (.v 3) with pg := 2, pn := true }) false
    ∧ decode 0xE00001A80781C0E1 = .pair (.halfNopLow (hf .zero .zero)) (.halfHmax2B16 { hf (.v 0) (.v 3) with pg := 2, pn := true }) true
    ∧ decode 0xC3C0E070080202E0 = .pair (.halfIadd (hf (.v 1) (.v 2))) (.halfNopHigh (hf .zero .zero)) false := by decide

/-- Kill bits on a scalar, on an operand that is not read, and on an immediate's place (R50). -/
theorem test_wf_kills :
    (Instr.popc { ctl with ka := true } (.v 1) (.s 2)).wf = false ∧ (Instr.popc { ctl with kb := true } (.v 1) (.v 2)).wf = false
    ∧ (Instr.shlImmediate { ctl with kb := true } (.v 1) (.v 2) 3).wf = false ∧ (Instr.imad { ctl with kc := true } (.v 1) (.v 2) (.v 3) .lane).wf = false
    ∧ (Instr.popc { ctl with ka := true } (.v 1) (.v 2)).wf = true := by decide
/-- Destinations that R51 does not allow: specials, a scalar where the entry allows none, registers that do not exist. -/
theorem test_wf_destinations :
    (Instr.popc ctl .lane (.v 2)).wf = false ∧ (Instr.popc ctl (.s 1) (.v 2)).wf = false ∧ (Instr.popc ctl (.v 453) (.v 2)).wf = false
    ∧ (Instr.obres ctl .zero 5).wf = false ∧ (Instr.popc ctl .zero (.v 2)).wf = true ∧ (Instr.gred ctl (.s 127) (.v 2) .add .i32).wf = true
    ∧ (Instr.gred ctl (.s 128) (.v 2) .add .i32).wf = false := by decide
/-- Sources that do not exist, odd pairs, quads that are not aligned or pass the last register (R51, R53, R225). -/
theorem test_wf_sources :
    (Instr.popc ctl (.v 1) (.v 320)).wf = false ∧ (Instr.popc ctl (.v 1) (.s 128)).wf = false
    ∧ (Instr.mov ctl (.v 2) (.v 5) true).wf = false ∧ (Instr.mov ctl (.v 3) (.v 4) true).wf = false ∧ (Instr.brx ctl (.v 7)).wf = false
    ∧ (Instr.brx ctl .lane).wf = false ∧ (Instr.st ctl (.s 4) (.v 1) (.v 6) .b128 .n false).wf = false
    ∧ (Instr.ld ctl (.v 6) (.s 4) (.v 1) .b128 false .n false).wf = false ∧ (Instr.ld ctl (.v 316) (.s 4) (.v 1) .b128 false .n false).wf = true
    ∧ (Instr.ld ctl (.v 319) (.s 4) (.v 1) .b64 false .n false).wf = false := by decide
/-- MOD[7] outside class L, scalars of scalar class past s383, the predicate pt as a destination (R49, R52, R122, R155). -/
theorem test_wf_shared_fields :
    (Instr.popc { ctl with fb := true } (.v 1) (.v 2)).wf = false ∧ (Instr.rpub { ctl with fb := true } 1).wf = true
    ∧ (Instr.smov ctl 384 4).wf = false ∧ (Instr.smov ctl 4 384).wf = false ∧ (Instr.smov ctl 383 383).wf = true
    ∧ (Instr.fsetRegisters ctl 7 (.v 5) (.v 6) .lt .set).wf = false ∧ (Instr.plop ctl 7 1 2 8).wf = false := by decide
/-- Limits of the arithmetic entries (R109, R128, R163 to R167). -/
theorem test_wf_arithmetic_entries :
    (Instr.isub ctl (.v 2) (.v 4) (.v 6) .i true true).wf = false ∧ (Instr.gred ctl (.v 1) (.v 2) .and .f32).wf = false
    ∧ (Instr.gred ctl (.v 1) (.v 2) .max .f32).wf = true ∧ (Instr.census ctl (.pred 7) .any 0 false).wf = false
    ∧ (Instr.census ctl (.pred 1) .mask 0 false).wf = false ∧ (Instr.census ctl (.reg (.v 1)) .any 0 false).wf = false
    ∧ (Instr.pack ctl (.v 1) (.v 2) (.v 3) (.v 4) .f32 .rn .sat).wf = false ∧ (Instr.pack ctl (.v 1) (.v 2) (.v 3) (.v 4) .f19 .rn .sat).wf = false
    ∧ (Instr.unpack ctl (.v 1) (.v 2) (.v 3) .f32 false).wf = false ∧ (Instr.unpack ctl (.v 1) (.v 2) (.v 3) .e4m3 true).wf = false
    ∧ (Instr.dp16 ctl (.v 1) (.v 2) (.v 3) (.v 4) .i2 .i2 .ru).wf = false ∧ (Instr.dp16 ctl (.v 1) (.v 2) (.v 3) (.v 4) .i2 .t2 .ru).wf = true
    ∧ (Instr.dp4 ctl (.v 1) (.v 2) (.v 3) (.v 4) .i4 .i8 .rn).wf = false ∧ (Instr.v2p ctl (.v 3) 0).wf = false
    ∧ (Instr.cvt ctl (.v 3) (.v 3) (.el .f32) .i64 .rn .sat).wf = false := by decide
/-- Limits of the memory, matrix, template and system entries (R225 to R231, R237, R249, R258, R290, R300, R342). -/
theorem test_wf_memory_entries :
    (Instr.ld ctl (.v 2) (.s 4) (.v 1) .b32 true .n false).wf = false ∧ (Instr.ld ctl (.v 2) (.s 4) (.v 1) .b16 true .n false).wf = true
    ∧ (Instr.strel ctl (.s 6) (.v 1) (.v 2) false .die true false).wf = false ∧ (Instr.sld ctl 4 6 none .b128 false .n).wf = false
    ∧ (Instr.atom ctl (.v 8) (.s 10) (.v 12) .addF true .dev .rlx).wf = false ∧ (Instr.atom ctl (.v 8) (.s 10) (.v 13) .cas false .dev .rlx).wf = false
    ∧ (Instr.atom ctl (.v 8) (.s 10) (.v 14) .cas true .dev .rlx).wf = false ∧ (Instr.atoms ctl (.v 8) (.v 3) (.v 12) .add false .die .rlx).wf = false
    ∧ (Instr.red ctl (.s 10) (.v 12) .exch false .dev .rlx).wf = false ∧ (Instr.red ctl (.s 10) (.v 12) .add false .dev .acq).wf = false
    ∧ (Instr.fence ctl .rlx .dev).wf = false ∧ (Instr.cpyin ctl 8 126 24).wf = true ∧ (Instr.cpyin ctl 8 382 24).wf = false
    ∧ (Instr.mready ctl 0 0).wf = false ∧ (Instr.mready ctl 0 321).wf = false ∧ (Instr.spawn ctl 4 (.v 8) 5 .zero).wf = false
    ∧ (Instr.spawn ctl 4 (.v 8) 0 .zero).wf = false ∧ (Instr.tinfo ctl (.v 9) .zero 7).wf = false ∧ (Instr.tinfo ctl (.v 9) .lane 1).wf = false
    ∧ (Instr.srd ctl 4 0x00D).wf = false ∧ (Instr.srd ctl 4 0x013).wf = false ∧ (Instr.swr ctl 0x012 4).wf = false
    ∧ (Instr.freeze { ctl with ka := true } (.s 20) 5 1).wf = false := by decide
/-- Clause headers: no word, a SETA or SETB of 12 to 14 (R57). Pair halves: a scalar destination, fields of a no-operation (R64). -/
theorem test_wf_headers_and_halves :
    (Instr.clauseHeader 0 15 15 0).wf = false ∧ (Instr.clauseHeader 0 12 15 1).wf = false ∧ (Instr.clauseHeader 0 15 14 1).wf = false
    ∧ (Instr.clauseHeader 0 11 0 31).wf = true ∧ (Instr.halfIadd (hf (.s 1) (.v 2))).wf = false ∧ (Instr.halfNopLow (hf (.v 1) .zero)).wf = false
    ∧ (Instr.halfMov { hf (.v 1) (.v 2) with ka := true }).wf = false ∧ (Instr.halfIadd { hf (.v 1) .lane with kb := true }).wf = false := by decide
/-- Words R153, R168, R344 and the pair rules say are refused. -/
theorem test_refused_words :
    decode 0 = .bad .illop ∧ decode 0x26F0000000000000 = .bad .illop
    ∧ decode 0x7F8007F800000000 = .bad .illclause ∧ decode 0x7F8007F880000001 = .bad .illclause
    ∧ decode 0x34701C0A06000002 = .bad .illop ∧ decode 0x44F0080606000401 = .bad .illop ∧ decode 0x72F7000000000030 = .bad .illop
    ∧ decode 0x72F7000000000040 = .bad .illop ∧ decode 0x8406A1F0900805E0 = .bad .illpair := by decide

/-- The base state of the tests: an instruction about to run, in group 0 of core 0, with these registers, in these lanes. -/
def st (mask : W32) (regs : List (Nat × Shaped)) (sregs : List (Nat × W64)) : State :=
  let s := State.reset.withFetchWord 64 0
  let s := s.updGroup 0 0 fun g => { g with regs, sregs }
  { s with cur := { active := true, core := 0, slot := 0, pc := 0x1000, mask } }
/-- What lane l of v1 ends with, and scalar s1. -/
def v1 (l : Nat) (o : Out) : Option W32 := match o with | .next t => some (t.endV 1 l) | _ => none
def s1 (o : Out) : Option W64 := match o with | .next t => some (t.endS 1) | _ => none
def pl (p l : Nat) (o : Out) : Option Bool := match o with | .next t => some (t.endP p l) | _ => none
/-- Two operands in v2 and v3, or three; a word of lane 0. -/
def two (a b : W32) : State := st 1 [(2, .u a), (3, .u b)] []
def three (a b e : W32) : State := st 1 [(2, .u a), (3, .u b), (4, .u e)] []
def sc2 (a b : W64) : State := st 1 [] [(2, a), (3, b)]

/-- The table of R112. -/
theorem test_idiv :
    v1 0 (exec (.idiv ctl (.v 1) (.v 2) (.v 3) .i) (two (-7) 2)) = some 0xFFFFFFFD
    ∧ v1 0 (exec (.idiv ctl (.v 1) (.v 2) (.v 3) .n) (two 0xFFFFFFF9 2)) = some 0x7FFFFFFC
    ∧ v1 0 (exec (.idiv ctl (.v 1) (.v 2) (.v 3) .i) (two 5 0)) = some 0xFFFFFFFF
    ∧ v1 0 (exec (.idiv ctl (.v 1) (.v 2) (.v 3) .i) (two 0x80000000 0xFFFFFFFF)) = some 0x80000000 := by decide +kernel
theorem test_irem :
    v1 0 (exec (.irem ctl (.v 1) (.v 2) (.v 3) .i) (two (-7) 2)) = some 0xFFFFFFFF
    ∧ v1 0 (exec (.irem ctl (.v 1) (.v 2) (.v 3) .i) (two 7 (-2))) = some 1
    ∧ v1 0 (exec (.irem ctl (.v 1) (.v 2) (.v 3) .i) (two 5 0)) = some 5
    ∧ v1 0 (exec (.irem ctl (.v 1) (.v 2) (.v 3) .n) (two 0x80000000 0xFFFFFFFF)) = some 0x80000000 := by decide +kernel
/-- R111, R113: wrap, saturation, absolute value of the most negative number. -/
theorem test_iadd_wraps_and_saturates :
    v1 0 (exec (.iaddRegisters ctl (.v 1) (.v 2) (.v 3) .i false false) (two 0x7FFFFFFF 1)) = some 0x80000000
    ∧ v1 0 (exec (.iaddRegisters ctl (.v 1) (.v 2) (.v 3) .i true false) (two 0x7FFFFFFF 1)) = some 0x7FFFFFFF
    ∧ v1 0 (exec (.isub ctl (.v 1) (.v 2) (.v 3) .n true false) (two 1 2)) = some 0
    ∧ v1 0 (exec (.iabs ctl (.v 1) (.v 2) true) (two 0x80000000 0)) = some 0x7FFFFFFF := by decide +kernel
/-- R118's two examples. -/
theorem test_bshuf :
    v1 0 (exec (.bshuf ctl (.v 1) (.v 2) (.v 3) (.v 4)) (three 0x88442211 0xF0 0x10041400)) = some 0x00F0FF11
    ∧ v1 0 (exec (.bshuf ctl (.v 1) (.v 2) (.v 3) (.v 4)) (three 0x85 0 0x10101000)) = some 0xFFFFFF85 := by decide +kernel
/-- R128's example: lanes 0 to 9 active, the predicate true in lanes 2, 3 and 7. -/
theorem test_census :
    let s := (st 0x3FF [] []).updGroup 0 0 fun g => { g with preds := 0x8C :: List.replicate 6 0 }
    pl 1 0 (exec (.census ctl (.pred 1) .any 0 false) s) = some true ∧ pl 1 0 (exec (.census ctl (.pred 1) .all 0 false) s) = some false
    ∧ v1 0 (exec (.census ctl (.reg (.v 1)) .mask 0 false) s) = some 0x8C
    ∧ v1 0 (exec (.census ctl (.reg (.v 1)) .count 0 false) s) = some 3 := by decide +kernel
/-- R160's table. -/
theorem test_frnd_and_fscale :
    v1 0 (exec (.frnd ctl (.v 1) (.v 2) .rn) (two 0x40200000 0)) = some 0x40000000
    ∧ v1 0 (exec (.fscale ctl (.v 1) (.v 2) (.v 3) .rz) (two 0x3F800000 200)) = some 0x7F7FFFFF
    ∧ v1 0 (exec (.fscale ctl (.v 1) (.v 2) (.v 3) .rn) (two 0x40400000 (-128))) = some 0x00600000
    ∧ v1 0 (exec (.ffma ctl (.v 1) (.v 2) (.v 3) (.v 4) .rd false false false) (three 0x3F800000 0xBF800000 0x3F800000)) = some 0x80000000 := by
  decide +kernel
/-- R161's table. -/
theorem test_special_functions :
    v1 0 (exec (.frcp ctl (.v 1) (.v 2) .rz) (two 0x40400000 0)) = some 0x3EAAAAAA
    ∧ v1 0 (exec (.fsqrt ctl (.v 1) (.v 2) .rn) (two 0x40000000 0)) = some 0x3FB504F3
    ∧ v1 0 (exec (.fsin ctl (.v 1) (.v 2)) (two 0xBF800000 0)) = some 0x80000000
    ∧ v1 0 (exec (.fcos ctl (.v 1) (.v 2)) (two 0x3F000000 0)) = some 0 := by decide +kernel
/-- R161's table, R164: −3 as an I8 is 0x0000_00FD. -/
theorem test_exp_log_cvt :
    v1 0 (exec (.fexp2 ctl (.v 1) (.v 2)) (two 0xC3160000 0)) = some 0 ∧ v1 0 (exec (.flog2 ctl (.v 1) (.v 2)) (two 0x41000000 0)) = some 0x40400000
    ∧ v1 0 (exec (.cvt ctl (.v 1) (.v 2) (.el .i8) (.el .f32) .rn .sat) (two 0xC0400000 0)) = some 0xFD := by decide +kernel
/-- R133, R134: the high half of a 64-bit product, an arithmetic shift, SSEL with a guard that holds nowhere. -/
theorem test_scalars :
    s1 (exec (.smulh ctl 1 2 3 .i) (sc2 (-1) 5)) = some (-1) ∧ s1 (exec (.ssra ctl 1 2 3) (sc2 (-8) 65)) = some (-4)
    ∧ s1 (exec (.ssel { ctl with pg := 0 } 1 2 3 false) (sc2 7 9)) = some 9 ∧ s1 (exec (.smov { ctl with pg := 0 } 1 2) (sc2 7 9)) = some 0 := by
  decide +kernel
/-- R127: an exchange by exclusive or reads lanes that are not active. -/
theorem test_shfl : v1 0 (exec (.shfl ctl (.v 1) (.v 2) (.v 3) .xor .seg32) (st 1 [(2, .a 10 1), (3, .u 5)] [])) = some 15 := by decide +kernel
/-- R65, R66: halves write the lanes of their own guards. -/
theorem test_halves :
    v1 0 (exec (.halfIsub (hf (.v 1) (.v 2))) (st 1 [(1, .u 1), (2, .u 3)] [])) = some 0xFFFFFFFE
    ∧ v1 0 (exec (.halfHadd2F16 { hf (.v 1) (.v 2) with pg := 0 }) (st 1 [(1, .u 1), (2, .u 3)] [])) = some 1 := by decide +kernel
/-- R172, R227: a word stored in the scratchpad, little-endian; one past its end traps NOTMAPPED and stores nothing. -/
def scr : State := (st 1 [(2, .u 4), (3, .u 0xDDCCBBAA)] []).updTeam 1 fun t => { t with desc := { t.desc with scratch := 1 } }
theorem test_sts :
    (match exec (.sts ctl (.v 2) .zero (.v 3) .b32 false) scr with | .next t => some ((List.range 6).map fun i => t.scByte 1 (3 + i)) | _ => none)
      = some [0, 0xAA, 0xBB, 0xCC, 0xDD, 0] := by decide +kernel
/-- R222 to R225: a word stored at a global address and read back from its home; the first byte is the low one. -/
theorem test_st :
    (match exec (.st ctl (.s 4) .zero (.v 3) .b32 .n false) (st 1 [(3, .u 0xDDCCBBAA)] [(4, 0x2000)]) with
      | .next t => some ((List.range 4).map fun i => memGet t.mem (0x2000 + i)) | _ => none) = some [0xAA, 0xBB, 0xCC, 0xDD] := by decide +kernel
/-- R230's example: 32 lanes that add 1 to a word of 100 leave 132, lane l being given 100 + l. -/
theorem test_atom :
    let s := (st allOnes32 [(2, .u 1)] [(4, 0x2000)]).homeWr 0x2000 (leBytes 4 100)
    (match exec (.atom ctl (.v 6) (.s 4) (.v 2) .add false .sys .rlx) s with
      | .next t => some (memGet t.mem 0x2000, match exec (.classLCompletion 0 s.serial) t with | .next u => u.endV 6 5 | _ => 0)
      | _ => none) = some (132, 105) := by decide +kernel
/-- R137: a branch goes to PC + 8 × imm26, which holds a header here; elsewhere it traps BADTARGET, here with every thread. -/
theorem test_bra :
    let s (m : W32) := (st m [] []).homeWr 0x1008 (leBytes 8 0x7F8007F840000000)
    (match exec (.bra ctl 1) (s 1) with | .next t => some (t.g.thread 0).pc | _ => none) = some 0x1008
    ∧ (match exec (.bra ctl 2) (s allOnes32) with | .next t => some (t.group? 0 0).isSome | _ => none) = some false := by decide +kernel
/-- R337, R338: TRAP with no handler ends the launch; the team is gone. -/
theorem test_trap : (match exec (.trap ctl 42) (st 1 [] []) with | .next t => some (t.group? 0 0).isSome | _ => none) = some false := by decide +kernel
/-- R342: SRD of %core and of SWR's BINTMR, held to 16 at least. -/
theorem test_srd : s1 (exec (.srd ctl 1 0x009) (st 1 [] [])) = some 1 := by decide +kernel
theorem test_swr :
    (match exec (.swr ctl 0x010 2) (sc2 3 0) with | .next t => some (t.ctx 1).bintmr | _ => none) = some 16 := by decide +kernel
/-- R326: an expected count of 0 is answered with 0x8000_0001. -/
theorem test_bar_exp : v1 0 (exec (.barExp ctl (.v 1) 0 (.v 2)) (two 0 0)) = some 0x80000001 := by decide +kernel
/-- R319: the word at the program counter is fetched, decoded and run: the clause moves on one word. -/
theorem test_step_runs_a_word :
    (match step (State.reset.withFetchWord 64 0x14F024007F01FFFD) with
      | .next t => some ((t.group 0 0).final.reg 9, ((t.group 0 0).thread 0).pc) | _ => none) = some (.u 0xFFFFFFFD, 0x1008) := by decide +kernel
/-- R199: the record of words 2, 3, 10 and 31 of the line at 0x4E_0000_1000 that C1 releases with sequence 7, of 40 bytes. -/
theorem test_record_bytes :
    ({ id := 0, kind := 0, seq := 7, sync := 0, writer := 1, line := 0x4E00001000
       words := [(2, 0x11), (3, 0x22), (10, 0x33), (31, 0x44)] } : DiffRec).bytes
      = leBytes 8 0x001A00009C000020 ++ leBytes 8 7 ++ leBytes 8 0x0000001F000A0022 ++ leBytes 8 0x0000002200000011 ++ leBytes 8 0x0000004400000033 := by
  decide

/-! Witnesses: for each statement with hypotheses, a state and operands that meet them. -/

theorem snd_of {α β : Type} {x : α × β} {b : β} (h : x.2 = b) : x = (x.1, b) := by subst h; rfl
theorem ok_of {α ε β : Type} {x : α × Except ε β} {b : β} (h : x.2.toOption = some b) : x = (x.1, .ok b) := by
  obtain ⟨a, e⟩ := x
  cases e <;> simp_all [Except.toOption]
/-- The spots of checks that pass. -/
def okOf (x : Chk) : Option (List Spot) := match x with | .ok l => some l | _ => none
theorem chk_of {x : State × Chk} {l : List Spot} (h : okOf x.2 = some l) : x = (x.1, .ok l) := by
  obtain ⟨a, e⟩ := x
  cases e <;> simp_all [okOf]
theorem aget_mem {α : Type} {l : List (Nat × α)} {n : Nat} {v : α} (h : aget l n = some v) : (n, v) ∈ l := by
  induction l with
  | nil => simp [aget] at h
  | cons p r ih =>
    unfold aget at h
    split at h
    · cases p; simp_all
    · exact List.mem_cons_of_mem _ (ih h)
/-- Whether no die holds a copy or a twin, by the table of dies. -/
theorem plain_of {s : State} (h : (s.recs.isEmpty && s.dies.all fun d => d.2.copies.isEmpty && d.2.twins.isEmpty) = true) : s.plain := by
  simp only [Bool.and_eq_true, List.isEmpty_iff, List.all_eq_true] at h
  refine ⟨h.1, fun x => ?_⟩
  cases e : aget s.dies x with
  | none => simp [State.die, e]
  | some d => simpa [State.die, e] using h.2 _ (aget_mem e)
/-- Whether the tables of cores and slots are in order. -/
theorem keyedCores_of {s : State} (h : (decide ((s.cores.map (·.1)).Pairwise (· < ·))
    && s.cores.all fun c => decide ((c.2.slots.map (·.1)).Pairwise (· < ·))) = true) : KeyedCores s := by
  simp only [Bool.and_eq_true, decide_eq_true_eq, List.all_eq_true] at h
  refine ⟨h.1, fun c => ?_⟩
  cases e : aget s.cores c with
  | none => simp [State.core, e, Keyed]
  | some d => simpa [State.core, e, Keyed] using h.2 _ (aget_mem e)

theorem witness_IntegerArithmeticResults : Issuing (two 7 9) ∧ (Instr.iaddRegisters ctl (.v 2) (.v 4) (.v 6) .i false true).wf = true
    ∧ (Instr.iaddImmediate ctl (.v 2) (.s 127) 0x1FFFF .n false true).wf = true ∧ (Instr.isub ctl (.v 0) (.v 318) .zero .i false true).wf = true
    ∧ (Instr.iaddRegisters ctl .zero (.v 3) .lane .i true false).wf = true ∧ (Instr.imadw ctl (.v 2) (.v 4) (.v 5) (.s 6) .n).wf = true
    ∧ (Instr.isad ctl (.v 319) (.v 4) (.v 5) .ones .n).wf = true := by unfold Issuing; decide +kernel
theorem witness_IntegerDivisionResults : Issuing (two 5 0) ∧ (Instr.idiv ctl (.v 1) (.v 2) (.v 3) .i).wf = true
    ∧ (Instr.irem ctl (.v 1) .item .group .n).wf = true ∧ (two 5 0).rd (.v 3) 0 = 0 := by unfold Issuing; decide +kernel
theorem witness_ShiftResults : Issuing (two 1 31) ∧ (Instr.shlRegisters ctl (.v 1) (.v 2) (.v 3)).wf = true
    ∧ (Instr.sraImmediate ctl (.v 1) (.v 2) 31).wf = true ∧ (Instr.shf ctl (.v 1) (.v 2) (.v 3) (.v 4) true).wf = true := by
  unfold Issuing; decide +kernel
theorem witness_BitLogicResults : Issuing (two 0 0) ∧ (Instr.bool3 ctl (.v 1) (.v 2) (.v 3) (.v 4) 6 9).wf = true
    ∧ (Instr.clz ctl (.v 1) (.v 2)).wf = true ∧ (Instr.bfx ctl (.v 1) (.v 2) (.v 3) (.v 4) .i).wf = true := by unfold Issuing; decide +kernel
theorem witness_MoveResults : Issuing (two 0 0) ∧ (Instr.mov ctl (.v 2) (.s 4) true).wf = true
    ∧ (Instr.movi ctl (.v 9) (.ins (.v 3) 0x4000)).wf = true ∧ (Instr.sel ctl (.v 2) (.v 4) (.v 6) 7 true true).wf = true
    ∧ (Instr.leaImmediate ctl (.v 1) .lane 9 31).wf = true ∧ (Instr.vshape ctl (.s 1) (.v 2)).wf = true := by unfold Issuing; decide +kernel
theorem witness_PredicateResults : Issuing (two 0 0) ∧ (Instr.isetImmediate ctl 6 (.v 2) 0x10000 .le .n .xor).wf = true
    ∧ (Instr.plop ctl 0 7 6 0xE).wf = true ∧ (Instr.fsetImmediate ctl 1 (.v 5) 6 .nan .or).wf = true ∧ (Instr.v2p ctl (.v 3) 0x7F).wf = true := by
  unfold Issuing; decide +kernel
theorem witness_ScalarResults : Issuing (sc2 1 63) ∧ (Instr.saddImmediate ctl 383 0 0x1FFFF).wf = true ∧ (Instr.slea ctl 1 2 3 4 63).wf = true
    ∧ (Instr.smovi ctl 0 (.ins 383 0xFFFF)).wf = true ∧ ((sc2 1 63).active ctl != 0) = true := by unfold Issuing; decide +kernel
theorem witness_ScalarChoiceResults : Issuing (sc2 1 2) ∧ (Instr.sset ctl 1 2 3 .ge .n).wf = true ∧ (Instr.ssel ctl 1 2 3 true).wf = true := by
  unfold Issuing; decide +kernel
theorem witness_LaneExchangeResults : Issuing (two 1 2) ∧ (Instr.shfl ctl (.v 1) (.v 2) (.v 3) .down .seg2).wf = true
    ∧ (Instr.census ctl (.pred 6) .same 7 true).wf = true ∧ (Instr.gred ctl (.s 127) (.v 2) .max .f32).wf = true
    ∧ (Instr.gred ctl (.v 1) (.v 2) .xor .n32).wf = true ∧ (Instr.matchLanes ctl (.pred 0) (.v 2) true).wf = true
    ∧ (Instr.vlane ctl (.v 1) (.v 2) (.v 3)).wf = true := by unfold Issuing; decide +kernel
theorem witness_FloatResults : Issuing (two 0x7FC00001 0) ∧ (Instr.ffma ctl (.v 8) (.v 9) (.v 10) (.v 11) .rd true true true).wf = true
    ∧ (Instr.fclass ctl (.v 1) (.v 2) .b16).wf = true ∧ val 0x7FC00001 .f32 = .nan ∧ val 0x7F800001 .f32 = .nan ∧ val 0 .f32 ≠ .nan := by
  unfold Issuing; decide +kernel
theorem witness_PackedResults : Issuing (two 0 0) ∧ (Instr.hfma2 ctl (.v 20) (.v 21) (.v 22) (.v 23) .ru true).wf = true
    ∧ (Instr.unpack ctl (.v 1) (.v 2) (.v 3) .t2 false).wf = true ∧ (Instr.unpack ctl (.v 1) (.v 2) (.v 3) .i2 true).wf = true
    ∧ (Instr.dp4 ctl (.v 1) (.v 2) (.v 3) (.v 4) .lg8 .n8 .rd).wf = true ∧ (Instr.dp16 ctl (.v 1) (.v 2) (.v 3) (.v 4) .i2 .t2 .ru).wf = true := by
  unfold Issuing; decide +kernel
/-- 300 overflows an I8 under TRAP; 100 does not. -/
theorem witness_ConversionResults :
    Issuing (two 0x43960000 0) ∧ (Instr.cvt ctl (.v 1) (.v 2) (.el .i8) (.el .f32) .rn .trap).wf = true
    ∧ (Instr.cvt ctl (.v 4) (.v 2) .i64 (.el .f32) .rn .trap).wf = true ∧ (Instr.pack ctl (.v 1) (.v 2) (.v 3) (.v 4) .e4m3 .rn .trap).wf = true
    ∧ (two 0x43960000 0).active ctl = 1
    ∧ convert (cvtSrc (.el .f32) 0x43960000) (.el .i8) .rn .trap = none ∧ (convert (cvtSrc (.el .f32) 0x42C80000) (.el .i8) .rn .trap).isSome = true
    ∧ (convert (cvtSrc (.el .f32) 0x43960000) .i64 .rn .trap).isSome = true
    ∧ pack32 .e4m3 .rn .trap 0x44000000 0 0 = none ∧ (pack32 .e4m3 .rn .trap 0x43E00000 0 0).isSome = true := by
  unfold Issuing; decide +kernel
/-- One half is a tie between 0 and 1, to the even 0. -/
theorem witness_RoundingIsNearest : (0 : Int) < 1 ∧ 2 * 1 = (2 * roundAt .rn false 1 0 1 + 1) * 2 ∧ roundAt .rn false 1 0 1 % 2 = 0
    ∧ 2 * roundAt .rn false 3 0 1 * 2 = 2 * 3 + 2 := by decide
theorem witness_HalfResults : Issuing (two 1 2) ∧ (Instr.halfIadd (hf (.v 0) .lane)).wf = true ∧ (Instr.halfMov (hf (.v 319) (.s 127))).wf = true
    ∧ (Instr.halfHmax2B16 { hf (.v 1) (.v 2) with pg := 0, pn := true, ka := true, kb := true }).wf = true := by unfold Issuing; decide +kernel
theorem witness_ShapesAndLives :
    let s := st allOnes32 [(2, .a 3 4), (3, .u 5), (4, .a 1 1)] []
    Issuing s ∧ s.unheld 1 ∧ s.active ctl = allOnes32 ∧ (s.isU (.v 2) && s.isU (.v 4)) = false ∧ (s.shape (.v 2)).affine = some (3, 4)
    ∧ (s.shape (.v 3)).affine = some (5, 0) ∧ s.shape (.v 3) = .u 5 ∧ s.shape (.v 2) = .a 3 4 ∧ (s.isU (.v 3) && s.isU (.s 1)) = true
    ∧ (Instr.imulRegisters ctl (.v 1) (.v 2) (.v 3)).wf = true ∧ (Instr.mov { ctl with ka := true } (.v 1) (.v 2) false).wf = true
    ∧ s.active { ctl with ka := true } ≠ 0 ∧ s.unheld 2 := by unfold Issuing State.unheld; decide +kernel
/-- A state with a header at 0x1008 and 0x1010 as a target in v2, v3, where there is none. -/
def brs : State := (st 3 [(2, .u 0x1008), (3, .u 0), (4, .u 0x1010), (5, .u 0)] []).homeWr 0x1008 (leBytes 8 0x7F8007F840000000)
/-- The same where the page of the target is in migration. -/
def brsLate : State := { brs with migrating := [0x1000] }
theorem witness_TransfersOfControl :
    (∃ u, Issuing brs ∧ brs.active ctl ≠ 0
      ∧ brs.checkTargets [(BitVec.ofNat 57 brs.cur.pc + (1 : BitVec 26).signExtend 57 * 8).signExtend 64] = (u, [], false)
      ∧ (Instr.call ctl (.v 20) 1).wf = true)
    ∧ (∃ u, brs.checkTargets (brs.targets (brs.active ctl) (brs.rd64 (.v 2)) false) = (u, [], false) ∧ (Instr.brx ctl (.v 2)).wf = true
      ∧ (Instr.callx ctl (.v 20) (.v 2)).wf = true)
    ∧ (∃ u, brs.checkTargets (brs.targets (brs.active ctl) (brs.rd64 (.v 2)) true) = (u, [], false) ∧ (Instr.ret ctl (.v 2)).wf = true)
    ∧ (∃ u, brs.checkTargets (brs.targets (brs.active ctl) (brs.rd64 (.v 4)) false) = (u, [0x1010], false))
    ∧ (∃ u, brs.checkTargets (brs.targets (brs.active ctl) (fun _ => brs.relTarget 2) false) = (u, [0x1010], false))
    ∧ (∃ u, brs.checkTargets (brs.targets (brs.active ctl) (brs.rd64 (.v 4)) true) = (u, [0x1010], false))
    ∧ (∃ u, brsLate.checkTargets (brsLate.targets (brsLate.active ctl) (brsLate.rd64 (.v 2)) false) = (u, [], true))
    ∧ (∃ u, canonical 0x1008 = true ∧ 0x1008 % 8 = 0 ∧ brs.fetch brs.cur.core brs.g.quad brs.tm.ctx 0x1008 = (u, .ok 0x7F8007F840000000))
    ∧ canonical 0x0100000000000000 = false ∧ canonical 0x00FFFFFFFFFFFFF8 = true := by
  refine ⟨⟨_, ?_, ?_, snd_of ?_, ?_⟩, ⟨_, snd_of ?_, ?_⟩, ⟨_, snd_of ?_, ?_⟩, ⟨_, snd_of ?_⟩, ⟨_, snd_of ?_⟩, ⟨_, snd_of ?_⟩, ⟨_, snd_of ?_⟩,
    ⟨_, ?_, ?_, ok_of ?_⟩, ?_⟩ <;> (try unfold Issuing) <;> decide +kernel
theorem witness_RejoinMasks :
    Issuing (st 3 [] [(1, 5)]) ∧ Standing (st 3 [] [(1, 5)]) ∧ (st 3 [] [(1, 5)]).active ctl ≠ 0 ∧ (Instr.jset ctl 2 (some (.s 1))).wf = true
    ∧ (Instr.jread ctl (.s 3) 15).wf = true := by unfold Issuing Standing; decide +kernel
/-- Flag 0 set by one command, and an error on flag 1. -/
def flg : State := (st 3 [(2, .u 65535)] []).updGroup 0 0 fun g =>
  { g with flags := { count := 1 } :: { errs := [((0, 0), { cause := 0x0A, pc := 0x1000, lanes := 1 })] } :: List.replicate 10 {} }
theorem witness_WaitsHeadersAndExits :
    Issuing flg ∧ Standing flg ∧ flg.active ctl ≠ 0
    ∧ (∀ f, f < 12 → (0x801 : BitVec 12).getLsbD f = true → (flg.g.flag f).errs = [])
    ∧ ((List.range 12).any fun f => (0x801 : BitVec 12).getLsbD f && (flg.g.flag f).isSet (flg.now 0)) = true
    ∧ ((List.range 12).any fun f => (0x800 : BitVec 12).getLsbD f && (flg.g.flag f).isSet (flg.now 0)) = false
    ∧ (State.firstErr flg.g 2).isSome = true ∧ (Instr.sleep ctl (.v 2)).wf = true
    ∧ flg.g.present &&& ~~~flg.active ctl ≠ 0
    ∧ (st allOnes32 [] []).g.present &&& ~~~(st allOnes32 [] []).active ctl = 0 ∧ ∀ f, f < 12 → ((st allOnes32 [] []).g.flag f).errs = [] := by
  unfold Issuing Standing; decide +kernel
theorem witness_CommandIssue :
    (Instr.fence ctl .rel .dev).tab.isSome = true ∧ Issuing (two 1 2) ∧ (1 : W32) ≠ 0 := by unfold Issuing; decide +kernel
/-- An outstanding command of group 0 of core 0. -/
def opOf (k : OpKind) : POp := { id := 9, slot := 0, tag := 0, pc := 0x1000, lanes := 1, flag := some 2, team := 1, ctx := 1, kind := k }
def withOp (s : State) (k : OpKind) : State := s.updCore 0 fun c => { c with ops := [opOf k] }
def fx : Xfer := { port := 1, seq := 7, send := true, posted := false, lva := 0, rva := 0, len := 16, start := 0 }
theorem witness_CommandCompletes :
    (∀ k ∈ [OpKind.done [.sca 1 7 0], .release [] [4] [] .dev false, .stamp 3 [], .fabric fx, .fabric { fx with got := some [] },
        .fabric { fx with posted := true }, .fabric { fx with err := some (0x0E, 0, 0) }],
      let s := withOp (two 1 2) k
      s.op? 0 9 = some (opOf k) ∧ (∃ g, s.group? 0 0 = some g ∧ g.saveRec = none ∧ g.saved = false) ∧ (aget (s.core 0).tags 0).getD 0 = 0)
    ∧ (let r : DiffRec := { id := 4, kind := 0, seq := 1, sync := 0, writer := 0, line := 0, words := [] }
      (({ two 1 2 with recs := [r] } : State).recs.any fun r => [4].contains r.id) = true ∧ ((two 1 2).recs.any fun r => [4].contains r.id) = false)
    ∧ (let s := (two 1 2).updTeam 1 fun t => { t with owed := [{ id := 3, tmpl := 0, next := 0, count := 1 }] }
      (s.team 1).owed.any (·.id == 3) = true)
    ∧ (let s := (withOp (two 1 2) (.done [])).updCore 0 fun c => { c with tags := [(0, 1)] }
      s.op? 0 9 = some (opOf (.done [])) ∧ ∀ g, s.group? 0 0 = some g → (aget (s.core 0).tags 0).getD 0 ≠ (opOf (.done [])).tag
        ∧ g.saveRec = none ∧ g.saved = false) := by
  refine ⟨?_, by decide +kernel, by decide +kernel, by decide +kernel, ?_⟩
  case refine_2 =>
    intro g hg
    have e : ((withOp (two 1 2) (.done [])).updCore 0 fun c => { c with tags := [(0, 1)] }).group? 0 0 = some (two 1 2).g := by decide +kernel
    rw [e, Option.some.injEq] at hg
    subst hg
    decide +kernel
  intro k hk
  refine ⟨?_, ⟨(two 1 2).g, ?_, by decide +kernel⟩, ?_⟩ <;> revert k <;> decide +kernel
/-- A word of lane 0 that loads or stores at the address in s4, with what its checks answer. -/
def mm : State := (st 1 [(2, .u 1), (3, .u 2), (4, .u 3)] [(4, 0x2000), (6, 0x3000)])
def mmU : State := (mm.checkAll (mm.who 0) .load 4 4 [(0, 0x2000)] noDet).1
/-- The translation of every page by the one leaf of the tests' page table. -/
def leaf : TlbEntry := (((okOf (mm.checkAll (mm.who 0) .load 4 4 [(0, 0x2000)] noDet).2).getD []).headD default).tr
def at2000 : Spot := { lane := 0, va := 0x2000, tr := leaf, pa := 0x2000 }
theorem witness_ChecksOfAccess :
    mmU.migrating = [] ∧ (mmU.stack 0).moving = false ∧ canonical 0x2000 = true ∧ 0x2000 % 4 = 0
    ∧ ((mmU.tlbOf (mm.who 0)).find? fun e => e.hits (mmU.ctx 1).asid 0x2000 && (!AccKind.load.writes || e.perm.testBit 7)) = some leaf
    ∧ mmU.visible (leaf.ppn + 0x2000 % 2 ^ leaf.bits) = true ∧ leaf.permits (!(mmU.ctx 1).super) .load = true ∧ leaf.ppn + 0x2000 % 2 ^ leaf.bits = 0x2000
    ∧ mm.active ctl ≠ 0 ∧ canonical (mm.vaddr (.s 4) (.v 2) false 0) = true ∧ mm.vaddr (.s 4) (.v 2) false 0 % 4 ≠ 0
    ∧ (let s := st 3 [] [(4, 0x0100000000000000)]; canonical (s.vaddr (.s 4) .zero false 0) = false) := by decide +kernel
theorem witness_LoadResults :
    Issuing mm ∧ Ordinary mm ∧ mm.active ctl = 1 ∧ (Instr.ld ctl (.v 5) (.s 4) .zero .b32 false .n false).wf = true
    ∧ (Instr.lda ctl (.v 5) (.s 4) .zero false .dev false).wf = true ∧ (Instr.sld ctl 5 4 none .b64 false .n).wf = true
    ∧ (∃ u, mm.checkAll (mm.who 0) .load 4 4 ((lanesOf (mm.active ctl)).map fun l => (l, mm.vaddr (.s 4) .zero false l)) noDet = (u, .ok [at2000])
      ∧ u.plain ∧ AtHomes u [at2000] 4)
    ∧ (∃ u, mm.checkAll (mm.who 0) .load 4 4 ((lanesOf (mm.active ctl)).map fun l => (l, mm.vaddr (.s 4) .zero false l))
        (fun _ pa => mm.detAcq (mm.who 0) pa 4) = (u, .ok [at2000]) ∧ u.plain ∧ AtHomes u [at2000] 4)
    ∧ ∃ u, mm.checkAll (mm.who 0) .load 8 8 ((lanesOf (mm.active ctl)).map fun l => (l, mm.sldAddr 4 none)) noDet = (u, .ok [at2000])
      ∧ u.plain ∧ AtHomes u [at2000] 8 :=
  ⟨by unfold Issuing; decide +kernel, by unfold Ordinary; decide +kernel, by decide +kernel, by decide, by decide, by decide,
    ⟨_, chk_of (by decide +kernel), plain_of (by decide +kernel), by unfold AtHomes; decide +kernel⟩,
    ⟨_, chk_of (by decide +kernel), plain_of (by decide +kernel), by unfold AtHomes; decide +kernel⟩,
    ⟨_, chk_of (by decide +kernel), plain_of (by decide +kernel), by unfold AtHomes; decide +kernel⟩⟩
/-- A loaded word lands in register 5 of a group that holds no register for the matrix engine. -/
theorem witness_LoadResults_words : 0 < regsOf 4 ∧ 3 < regsOf 16 ∧ (0 : Nat) < 32 ∧ (1 : W32) ≠ 0
    ∧ (∀ h ∈ ({ mm.g with held := [(0, 1), (9, 1)] } : Group).held, h.1 < 5 ∨ 5 + 4 ≤ h.1) ∧ (∀ a b, laneVal [] a = laneVal [] b) ∧ ([1, 2, 3, 4] : List Byte).length % 4 = 0
    ∧ 4 * 0 + 4 ≤ ([1, 2, 3, 4] : List Byte).length := by
  refine ⟨by decide, by decide, by decide, by decide, by decide +kernel, fun _ _ => rfl, by decide⟩

/-- A TSR in s8 to s15: base 0x2000, elements of 4 bytes, one dimension of 4, a box of 1. -/
def tsrRegs : List (Nat × W64) := [(4, 0x2000), (8, 0x2000), (9, 0x0000000400000102)]
def ts : State := st 1 [] tsrRegs
theorem witness_StoreResults :
    Issuing mm ∧ Ordinary mm ∧ mm.active ctl = 1 ∧ (Instr.st ctl (.s 4) .zero (.v 2) .b32 .n false).wf = true
    ∧ (Instr.strel ctl (.s 4) .zero (.v 2) false .dev true false).wf = true ∧ (Instr.sst ctl 4 none 6 .b64 .n).wf = true
    ∧ (Instr.tsrset ctl (.v 1) (.s 4) 1).wf = true ∧ wideSc .die = false ∧ wideSc .dev = true
    ∧ (tsrOf (((blockRegs 1).map ts.srd).map BitVec.toNat)).isOk = true ∧ tsrOf (((blockRegs 1).map mm.srd).map BitVec.toNat) = .error 1
    ∧ (∃ u, mm.checkAll (mm.who 0) .store 4 4 ((lanesOf (mm.active ctl)).map fun l => (l, mm.vaddr (.s 4) .zero false l)) (mm.detStore 0)
        = (u, .ok [at2000]) ∧ u.plain ∧ WritesHome u [at2000])
    ∧ (∃ u, mm.checkAll (mm.who 0) .store 8 8 ((lanesOf (mm.active ctl)).map fun l => (l, mm.sldAddr 4 none)) (mm.detStore 0)
        = (u, .ok [at2000]) ∧ u.plain ∧ WritesHome u [at2000])
    ∧ ∃ u, ts.checkAll (ts.who 0) .store 64 64 ((lanesOf (ts.active ctl)).map fun l => (l, (ts.rd64 (.s 4) 0).toNat)) (ts.detStore 0)
        = (u, .ok [at2000]) ∧ u.plain ∧ WritesHome u [at2000] :=
  ⟨by unfold Issuing; decide +kernel, by unfold Ordinary; decide +kernel, by decide +kernel, by decide, by decide, by decide, by decide, by decide, by decide,
    by decide +kernel, by rfl,
    ⟨_, chk_of (by decide +kernel), plain_of (by decide +kernel), by unfold WritesHome; decide +kernel⟩,
    ⟨_, chk_of (by decide +kernel), plain_of (by decide +kernel), by unfold WritesHome; decide +kernel⟩,
    ⟨_, chk_of (by decide +kernel), plain_of (by decide +kernel), by unfold WritesHome; decide +kernel⟩⟩
theorem witness_ReleaseWrites :
    let w : RelWrite := { lane := 0, pa := 0x2000, va := 0x2000, bytes := [1, 2, 3, 4] }
    let s := withOp (two 1 2) (.release [w] [] [(0x2000, 1)] .dev false)
    s.op? 0 9 = some (opOf (.release [w] [] [(0x2000, 1)] .dev false)) ∧ s.plain ∧ (s.team 1).desc.det = false ∧ (s.team 1).rerun = none
    ∧ (∀ w' ∈ [w], effCls w'.tr.cls w'.tr.pbmt ≠ 3 ∧ s.movesAt w'.pa = false) ∧ ∀ g, s.group? 0 0 = some g → g.saveRec = none ∧ g.saved = false :=
  ⟨by decide +kernel, plain_of (by decide +kernel), by decide +kernel, by decide +kernel, by decide,
    fun g h => by have e : (withOp (two 1 2) (.release [{ lane := 0, pa := 0x2000, va := 0x2000, bytes := [1, 2, 3, 4] }] [] [(0x2000, 1)] .dev false)).group? 0 0
                      = some (two 1 2).g := by decide +kernel
                  rw [e] at h; cases h; decide +kernel⟩
/-- A scratchpad of 32768 bytes; addresses in v2: the last word of it, in lane 0. -/
def sp (a : W32) (regs : List (Nat × Shaped)) : State := (st 1 ((2, .u a) :: regs) []).updTeam 1 fun t => { t with desc := { t.desc with scratch := 1 } }
theorem witness_ScratchpadResults :
    Issuing (sp 32764 []) ∧ (sp 32764 []).active ctl = 1 ∧ (sp 32764 []).tm.blocks = [] ∧ (sp 32764 []).tm.copying = [] ∧ (Instr.sts ctl (.v 2) .zero (.v 3) .b32 false).wf = true
    ∧ (∀ l, l < 32 → (1 : W32).getLsbD l = true → ((sp 32764 []).rd (.v 2) l + (sp 32764 []).rd .zero l).toNat % 4 = 0
        ∧ (sp 32764 []).tm.inScratch ((sp 32764 []).rd (.v 2) l + (sp 32764 []).rd .zero l).toNat 4 = true
        ∧ (sp 32764 []).scHurt 1 ((sp 32764 []).rd (.v 2) l + (sp 32764 []).rd .zero l).toNat 4 = false)
    ∧ (maskOf fun l => (1 : W32).getLsbD l && ((sp 32765 []).rd (.v 2) l + (sp 32765 []).rd .zero l).toNat % 4 != 0) ≠ 0
    ∧ (maskOf fun l => (1 : W32).getLsbD l && ((sp 32768 []).rd (.v 2) l + (sp 32768 []).rd .zero l).toNat % 4 != 0) = 0
    ∧ (maskOf fun l => (1 : W32).getLsbD l && !(sp 32768 []).tm.inScratch ((sp 32768 []).rd (.v 2) l + (sp 32768 []).rd .zero l).toNat 4) ≠ 0
    ∧ (let s := (sp 32764 []).updTeam 1 fun t => { t with scPoison := [32764] }
      (maskOf fun l => (1 : W32).getLsbD l && s.scHurt 1 (s.rd (.v 2) l + s.rd .zero l).toNat 4) ≠ 0) := by
  unfold Issuing; decide +kernel
theorem witness_AtomicResults :
    Issuing mm ∧ Ordinary mm ∧ mm.active ctl = 1 ∧ (∀ p ∈ [at2000], mmU.poisoned p.pa 4 = false ∧ mmU.l2Hurt 0 p.cls p.pa 4 = false ∧ p.cls ≠ 3)
    ∧ (∃ u, mm.checkAll (mm.who 0) .atomic 4 4 ((lanesOf (mm.active ctl)).map fun l => (l, (mm.rd64 (.s 4) l).toNat))
        (mm.atomBad 0 .add true .ar 4) = (u, .ok [at2000]) ∧ u.plain)
    ∧ ∃ u, (mm.noAudit (mm.who 0)).checkAll ((mm.noAudit (mm.who 0)).who 0) .atomic 4 4 ((lanesOf (mm.active ctl)).map fun l => (l, (mm.rd64 (.s 4) l).toNat))
        ((mm.noAudit (mm.who 0)).atomBad 0 .add false .rel 4) = (u, .ok [at2000]) ∧ u.plain :=
  ⟨by unfold Issuing; decide +kernel, by unfold Ordinary; decide +kernel, by decide +kernel, by decide +kernel,
    ⟨_, chk_of (by decide +kernel), plain_of (by decide +kernel)⟩, ⟨_, chk_of (by decide +kernel), plain_of (by decide +kernel)⟩⟩
/-- The last granule of the scratchpad, empty or full; no other operation waits. -/
def fe (full : Bool) : State := (sp 32752 [(3, .u 16)]).updTeam 1 fun t => { t with fe := if full then [2047] else [] }
theorem witness_FullEmptyResults :
    (∀ full : Bool, Issuing (fe full) ∧ (fe full).active ctl = 1 ∧ (fe full).tm.blocks = [] ∧ Drawn (fe full)
      ∧ (∀ l, l < 32 → (1 : W32).getLsbD l = true → ((fe full).rd (.v 2) l + (fe full).rd .zero l).toNat % 16 = 0
        ∧ ((fe full).rd (.v 3) l).toNat % 16 = 0 ∧ (fe full).tm.inScratch ((fe full).rd (.v 2) l + (fe full).rd .zero l).toNat ((fe full).rd (.v 3) l).toNat = true
        ∧ (fe full).scHurt 1 ((fe full).rd (.v 2) l + (fe full).rd .zero l).toNat 4 = false)
      ∧ (fe full).isFull 1 32752 = full ∧ (∀ x ∈ (fe full).cores, x.2.ops = []))
    ∧ (Instr.sts ctl (.v 2) .zero (.v 3) .b32 true).wf = true := by unfold Issuing Drawn; decide +kernel
/-- Die 1 holds a copy of a line of die 0 with one changed word, and its twin. -/
def tw : State := (two 1 2).updDie 1 fun d => { d with
  copies := [(0x2000, { words := 5 :: List.replicate 31 0, cls := 1 })]
  twins := [(0x2000, { words := List.replicate 32 0, cls := .c, team := 1, made := 0 })] }
/-- Whether no die's twin region is past seven eighths, by the table of dies. -/
theorem region_of {s : State} (h : (s.dies.all fun d => decide (8 * d.2.regionUse ≤ 7 * Config.twinLines)) = true) (x : Nat) :
    8 * (s.die x).regionUse ≤ 7 * Config.twinLines := by
  simp only [List.all_eq_true, decide_eq_true_eq] at h
  cases e : aget s.dies x with
  | none => simp [State.die, e, Die.regionUse]
  | some d => simpa [State.die, e] using h _ (aget_mem e)
theorem witness_PublicationsFencesAndLines :
    (∃ u ps, mm.checkAll (mm.who 0) .line 1 1 (mm.lineList 1 (.s 4) .zero false none) noDet = (u, .ok ps) ∧ ps ≠ [])
    ∧ (∀ d, 8 * (tw.die d).regionUse ≤ 7 * Config.twinLines) ∧ tw.recs = [] ∧ 0x2000 % 128 = 0 ∧ ((aget (tw.die 1).twins 0x2000).map (·.cls)) = some .c ∧ homeOf 0x2000 ≠ 1
    ∧ ((aget (tw.die 1).copies 0x2000).map (·.cls)) = some 1 ∧ Issuing tw ∧ tw.active ctl ≠ 0 ∧ wideSc .die = false ∧ wideSc .sys = true
    ∧ relOrd .acq = false ∧ relOrd .rel = true := by
  refine ⟨⟨_, [at2000], chk_of ?_, ?_⟩, region_of ?_, ?_⟩ <;> (try unfold Issuing) <;> decide +kernel
/-- A tensor of 3 by 5 elements: the element (2, 4) is in bounds; a box of five sizes. -/
theorem witness_TensorAddresses :
    let t : Tsr := { base := 0x2000, size := 4, dims := 2, pad := 0, ext := [3, 5, 0, 0, 0], box := [1, 2, 3, 4, 5], stride := [0, 16, 0, 0, 0] }
    t.dims ≤ 5 ∧ (∀ k, k < t.dims → 1 ≤ t.ext.getD k 0) ∧ (t.elem [2, 4, 0, 0, 0]).1 = true ∧ (t.elem [3, 4, 0, 0, 0]).1 = false
    ∧ t.box = [1, 2, 3, 4, 5] ∧ 1 < 2 ∧ 2 < 3 ∧ 3 < 4 ∧ 4 < 5 := by decide
/-- A reservation of one unit in record 3, ring 2 of the team with one slot acquired and none published. -/
def cp (d : W64) : State :=
  let s := (sp 32752 [(3, .u 16)]).updGroup 0 0 fun g => { g with sregs := [(4, d), (8, 0x2000)] }
  let s := s.updTeam 1 fun t => { t with rings := lset t.rings 2 fun r => { r with n := 2, p := 1, filled := [false, false], phase := [true, true] } }
  s.updCore 0 fun c => { c with resv := [(3, { team := 1, base := 7, len := 1, fmt := 0, blk := 0, sp := false, slay := false, soff := 0 })] }
def copyOp (k : CopyKind) : CopyCmd := { kind := k, addr := 32752, len := 16, dsc := 3, res := some 3 }
theorem witness_CopyCommands :
    Issuing (cp 3) ∧ (cp 3).active ctl = 1 ∧ ((cp 3).core 0).copySlot = some 0 ∧ ((cp 3).srd 4).getLsbD 51 = false
    ∧ ((cp 0x0028000000000000).srd 4).getLsbD 51 = true ∧ ((cp 0x0028000000000000).ring 1 2).n ≠ 0 ∧ ((cp 0x0028000000000000).ring 1 2).qr < ((cp 0x0028000000000000).ring 1 2).p
    ∧ bits ((cp 0x0028000000000000).srd 4).toNat 54 52 = 2
    ∧ ((cp 3).resv? (cp 3).tm.first 3).map (fun v => (v.team, v.releasing, v.len)) = some (1, false, 1)
    ∧ (3 : W64).toNat / 4294967296 = 0 ∧ bits (3 : W64).toNat 7 4 = 0 ∧ bits (3 : W64).toNat 31 8 % 16 = 0
    ∧ ((cp 3).rd (.v 2) 0).toNat % 16 = 0 ∧ ((cp 3).rd (.v 3) 0).toNat = 16
    ∧ (((cp 3).updCore 0 fun c => { c with ops := (List.range 256).map fun n => { opOf (.copy { copyOp .in_ with slotNo := n }) with id := n } }).core 0).copySlot = none := by
  unfold Issuing; decide +kernel
theorem witness_CopyCommands_complete :
    (∀ k ∈ [CopyKind.obS, .obO],
      let s := withOp (cp 3) (.copy (copyOp k))
      s.op? 0 9 = some (opOf (.copy (copyOp k))) ∧ (s.group? 0 0).map (fun g => (g.saveRec, g.saved)) = some (none, false) ∧ (copyOp k).finished = false
      ∧ s.ownMiss (opOf (.copy (copyOp k))) (s.copyRun 0 (opOf (.copy (copyOp k))) (copyOp k)).1 = none ∧ s.scHurt 1 32752 16 = false
      ∧ (s.resv? 0 3).map (fun v => s.obHurt 0 v 0 16) = some false ∧ (aget (s.core 0).tags 0).getD 0 = 0
      ∧ (s.copyRun 0 (opOf (.copy (copyOp k))) (copyOp k)).2 = .done ∧ (copyOp k).bad = false
      ∧ (s.resv? (s.team 1).first 3).isSome = true ∧ bits (copyOp k).dsc.toNat 31 8 + (copyOp k).len ≤ 256 ∧ (s.team 1).inScratch 32752 16 = true ∧ (s.team 1).blocks = [])
    ∧ (let x : CopyCmd := { kind := .in_, tsrVa := 0x2000, bad := true }
      let s := withOp (cp 3) (.copy x)
      let r := s.copyRun 0 (opOf (.copy x)) x
      (match r.2 with | .fault .. => true | _ => false) = true ∧ x.res = none ∧ (r.1.group? 0 0).map (·.flags) = (s.group? 0 0).map (·.flags)
      ∧ (r.1.group? 0 0).map (fun g => (g.saveRec, g.saved)) = some (none, false) ∧ (r.1.core 0).tags = (s.core 0).tags)
    ∧ (let s := (withOp (cp 3) (.copy (copyOp .obS))).updTeam 1 fun t => { t with scPoison := [32760] }
      s.scHurt 1 32752 16 = true ∧ (match (s.copyRun 0 (opOf (.copy (copyOp .obS))) (copyOp .obS)).2 with | .fault c .. => c == 0x0E | _ => false) = true)
    ∧ (let x : CopyCmd := { kind := .in_, tsrVa := 0x2000, coord := [0, 0, 0], dsc := 0, ring := some (2, 1) }
      let s := (withOp (cp 3) (.copy x)).homeWr 0x2000 (leBytes 8 0x3000 ++ leBytes 8 0x0000000403000102)
      (s.copyRun 0 (opOf (.copy x)) x).2 = .done ∧ s.ownMiss (opOf (.copy x)) (s.copyRun 0 (opOf (.copy x)) x).1 = none
      ∧ ((s.copyRun 0 (opOf (.copy x)) x).1.ring 1 2).q ≠ 1) := by decide +kernel
theorem witness_OperandBufferResults :
    (let s := cp 3
    Issuing s ∧ s.active ctl = 1 ∧ firstFree (s.core s.tm.first).resv 16 = some 0
    ∧ (s.resv? s.tm.first (((s.rd (.s 4) 0).toNat) % 16)).map (fun v => (v.team, v.releasing, v.len)) = some (1, false, 1)
    ∧ (((s.srd 4).toNat % 16 = 3) ∧ (BitVec.ofNat 32 (bits (s.srd 4).toNat 31 8) + s.rd (.s 9) 0).toNat % 4 = 0)
    ∧ (Instr.obput ctl 4 (.s 9) (.v 2) false).wf = true
    ∧ (s.resv? s.tm.first 3).map (fun v => s.obHurt s.tm.first v 0 4) = some false)
    ∧ (let n := (0x400 + 7 : Nat); bits n 63 50 = 0 ∧ bits n 23 21 = 0 ∧ bits n 9 0 + bits n 20 10 ≤ 1024 ∧ n.testBit 30 = false)
    ∧ bits (0xFFFFF : Nat) 20 10 + bits (0xFFFFF : Nat) 9 0 > 1024
    ∧ firstFree ((List.range 16).map fun n => (n, (0 : Nat))) 16 = none
    ∧ (let s := (cp 3).updResv 0 3 fun v => { v with team := 2 }
      ∃ r ∈ (s.core 0).resv, r.2.team ≠ s.g.team ∧ r.2.len ≠ 0 ∧ r.2.base < 7 + 1 ∧ 7 < r.2.base + r.2.len)
    ∧ (let s := (cp 3).updResv 0 3 fun v => { v with releasing := true }
      (s.resv? 0 3).map (fun v => (v.releasing, v.users)) = some (true, 0) ∧ ∀ x ∈ s.cores, ∀ y ∈ x.2.slots, y.2.saveRec = none ∧ y.2.saved = false) := by
  unfold Issuing; decide +kernel
/-- A GENERAL group whose blocks hold zeros; record 0 is its team's. -/
def mx : State := (cp 0).updCore 0 fun c => { c with resv := [(0, { team := 1, base := 0, len := 1024, fmt := 0, blk := 0, sp := false, slay := false, soff := 0 })] }
def mcmd (zero : Bool) : MatCmd := { zero, blk := List.replicate 8 0, groups := [(0, 0)], sections := [0], started := true }
theorem witness_MatrixCommands :
    Issuing mx ∧ mx.active ctl = 1 ∧ (mx.core 0).owedV 0 = [] ∧ ((mx.core 0).matOps.filter fun x => x.2.sections.contains mx.g.quad).length < 2
    ∧ Drawn mx ∧ bits (mx.srd 9).toNat 13 12 = 0 ∧ mx.tileGroups (bits (mx.srd 9).toNat 19 16) 0 = some [((0, 0), 0)]
    ∧ (mx.resv? mx.tm.first 0).map (fun v => (v.team, v.releasing)) = some (1, false) ∧ mx.g.offers.length < 2
    ∧ mx.g.spilled = [] ∧ (let w6 := (mx.srd (8 * (3 : BitVec 4).toNat + 6)).toNat; bits w6 3 0 = 0 ∧ bits w6 7 4 = 0) := by
  unfold Issuing Drawn; decide +kernel
theorem witness_MatrixCommands_run :
    (∀ zero : Bool,
      let s := withOp mx (.matrix (mcmd zero))
      s.matOp? 0 9 = some (opOf (.matrix (mcmd zero)), mcmd zero) ∧ (mcmd zero).groups = [(0, 0)] ∧ (aget (s.core 0).tags 0).getD 0 = 0
      ∧ (mcmd zero).users = [] ∧ (mcmd zero).offers = [] ∧ (s.group? 0 0).map (fun g => (g.saved, g.saveRec, g.taint)) = some (false, none, []) ∧ (s.core 0).matFirst (opOf (.matrix (mcmd zero))) (mcmd zero) = true)
    ∧ (let m := { mcmd true with started := false }
      let s := withOp mx (.matrix m)
      s.matReady 0 (opOf (.matrix m)) m = true)
    ∧ (let m := { mcmd false with step := 1 }
      (withOp mx (.matrix m)).matFault 0 (opOf (.matrix m)) m m.steps = none)
    ∧ { mcmd true with bad := true }.bad = true ∧ (opOf (.matrix (mcmd true))).flag = some 2 := by decide +kernel
/-- Template 5, not dropped; STAMP's control words in s8 and s9; the template's id in s6. -/
def tp : State :=
  let s := (st 1 [(8, .u 1)] [(4, 0x1008), (6, 5), (8, 128), (9, 129)])
  let s := { s with tmpls := [(5, { ctx := 1 }), (6, { ctx := 1, dropped := true })] }
  s.updCore 0 fun c => { c with bins := [(0, { team := 1, entry := 0x1008, tmpl := none, n := 2, threads := List.replicate 31 [0, 0], due := 0 })] }
theorem witness_TemplateResults :
    Issuing tp ∧ tp.active ctl = 1 ∧ bits (tp.srd 8).toNat 15 0 = 128 ∧ 128 < bits (tp.srd 9).toNat 15 0 ∧ bits (tp.srd 7).toNat 15 0 = 0
    ∧ (tp.tmplOf (tp.tmplId (.s 6) 1)).map (fun p => (p.1, p.2.dropped)) = some (5, false) ∧ tp.tmplOf (tp.tmplId (.s 8) 1) = none
    ∧ (tp.tmplOf (some 6)).map (fun p => p.2.dropped) = some true
    ∧ (Instr.spawn ctl 4 (.v 8) 2 .zero).wf = true ∧ tp.tm.desc.det = false ∧ (tp.srd 4).toNat % 8 = 0 ∧ canonical (tp.srd 4).toNat = true
    ∧ ((tp.core 0).binOf 1 0x1008 none 2).map (fun p => (p.1, p.2.full, p.2.threads.length + laneCount 1)) = some (0, false, 32) := by
  unfold Issuing; decide +kernel
/-- A whole group, its index register v5 holding A(3, 4), with no range and one item owed. -/
def fz : State := (st allOnes32 [(5, .a 3 4)] [(12, 0x00000000000A0001)])
theorem witness_TemplateResults_freeze :
    Issuing fz ∧ fz.active ctl ≠ 0 ∧ fz.g.present = fz.active ctl ∧ fz.g.wb = [] ∧ aget fz.g.regs 5 = some (.a 3 4)
    ∧ rangesOf ((blockRegs 1).map fz.srd) = [] ∧ bits (((blockRegs 1).map fz.srd).getD 4 0).toNat 15 0 = 1 ∧ fz.tm.prologue = false
    ∧ (∀ f ∈ fz.g.flags, f.isSet (fz.now 0) = false ∧ f.errs = []) ∧ (fz.core 0).ops = [] ∧ (fz.core 0).opLog = []
    ∧ firstFree fz.tmpls 4096 = some 0 ∧ fz.g.tmpl = none ∧ fz.backing 0 + 1024 ≤ Config.backingPages ∧ fz.g.regs.length < 320
    ∧ fz.g.tdepth < 4 ∧ fz.g.spilled = [] ∧ fz.g.held = [] ∧ Opnd.v 5 = .v 5 := by
  unfold Issuing; decide +kernel

/-- Barrier 2 of the team expects e arrivals and has a; v2 holds a count. -/
def br (v : W32) (e a : Nat) (arrived : List (Nat × Nat)) : State := (st 1 [(2, .u v)] []).updTeam 1 fun t =>
  { t with barriers := lset (List.replicate 16 { e := 1 }) 2 fun _ => { e, a, arrived } }
theorem witness_BarrierResults :
    (∀ s ∈ [br 1 2 0 [], br 128 2 0 [], br 0 2 0 [], br 129 2 0 [], br 1 1 0 [], br 1 3 1 [(0, 0)]],
      ((s.group? s.cur.core s.cur.slot).isSome = true ∧ s.cur.replay = false ∧ s.cur.soft = false)
      ∧ (∀ l, l < 32 → s.cur.mask.getLsbD l = true → (s.g.thread l).wait = .run) ∧ (∀ o ∈ (s.core s.cur.core).ops, o.id < s.serial)
      ∧ (decide ((s.cores.map (·.1)).Pairwise (· < ·)) && s.cores.all fun c => decide ((c.2.slots.map (·.1)).Pairwise (· < ·))) = true
      ∧ s.active ctl ≠ 0 ∧ 2 < s.tm.barriers.length)
    ∧ ((br 1 2 0 []).rd (.v 2) 0).toNat = 1 ∧ ((br 128 2 0 []).rd (.v 2) 0).toNat = 128 ∧ ((br 0 2 0 []).rd (.v 2) 0).toNat = 0
    ∧ ((br 129 2 0 []).rd (.v 2) 0).toNat = 129 ∧ ((br 1 2 0 []).barrier 1 2).a + 1 < ((br 1 2 0 []).barrier 1 2).e
    ∧ ((br 1 1 0 []).barrier 1 2).a + 1 = ((br 1 1 0 []).barrier 1 2).e
    ∧ ((br 1 3 1 [(0, 0)]).g.index, (br 1 3 1 [(0, 0)]).g.alloc) ∈ ((br 1 3 1 [(0, 0)]).barrier 1 2).arrived := by decide +kernel
/-- Ring 2 of the team. -/
def rg (r : Ring) : State := (st 1 [] []).updTeam 1 fun t => { t with rings := lset t.rings 2 fun _ => r }
def r0 : Ring := { n := 2, filled := [false, false], phase := [false, false] }
theorem witness_RingResults :
    (∀ r ∈ [{}, r0, { r0 with p := 2 }, { r0 with p := 1, filled := [true, false] }, { r0 with c := 1, p := 1, q := 1, qr := 1 }],
      ((rg r).group? (rg r).cur.core (rg r).cur.slot).isSome = true ∧ (rg r).cur.replay = false ∧ (rg r).cur.soft = false ∧ (∀ o ∈ ((rg r).core 0).ops, o.id < (rg r).serial)
      ∧ (rg r).active ctl ≠ 0 ∧ (∀ k ∈ [RingOp.acq, .pub, .take, .done], (rg r).ringWaiters 1 2 k = []))
    ∧ ((rg {}).ring 1 2).n = 0 ∧ ((rg r0).ring 1 2).n = 2
    ∧ (r0.filled.getD (0 % 2) false = false ∧ (r0.phase.getD (0 % 2) false == decide (0 / 2 % 2 = 1)) = true)
    ∧ (r0.phase.getD (2 % 2) false == decide (2 / 2 % 2 = 1)) = false
    ∧ (([true, false].getD (0 % 2) false = true) ∧ (r0.phase.getD (0 % 2) false == decide (0 / 2 % 2 = 1)) = true)
    ∧ ({ r0 with p := 1 }.qr < { r0 with p := 1 }.p ∧ { r0 with p := 1 }.q = { r0 with p := 1 }.qr) ∧ r0.p ≤ r0.qr
    ∧ { r0 with c := 1 }.d < { r0 with c := 1 }.c ∧ r0.c ≤ r0.d := by decide +kernel
/-- SEND's block: 16 bytes through port 1, bound to context 2 there. -/
def fb : State := { st 1 [] [(8, 0x2000), (9, 0x0000000000001001), (10, 0x4000), (11, 0x0000000000000F01)] with portbind := [(17, 0x8000000000000002)] }
theorem witness_FabricTransfersIssue :
    (∃ u, fb.localCheck (fb.who (firstLane (fb.active ctl))) .load (fb.srd 8).toNat 16 = (u, .ok ()))
    ∧ Issuing fb ∧ Drawn fb ∧ Ordinary fb ∧ fb.active ctl ≠ 0 ∧ (fb.port 1).outstanding.length < Config.portEntries
    ∧ (bits (fb.srd 9).toNat 63 32 = 0 ∧ bits (fb.srd 9).toNat 7 4 = 0 ∧ bits (fb.srd 9).toNat 31 8 = 16 ∧ bits (fb.srd 9).toNat 3 0 = 1
      ∧ (fb.srd 8).toNat % 16 = 0 ∧ (fb.srd 10).toNat % 16 = 0)
    ∧ (fb.port 1).up = true ∧ (fb.binding fb.tm.ctx 1).msb = true ∧ ¬ 16 ≤ bits (fb.srd 11).toNat 31 8 ∧ (fb.binding fb.tm.ctx 2).msb = false := by
  refine ⟨⟨_, ok_of ?_⟩, ?_⟩ <;> (try unfold Issuing Drawn Ordinary) <;> decide +kernel
/-- A pool of 2048 bytes at 0x4000: one 16-byte piece of bitmap. -/
def ar : State := (st 1 [(2, .u 16)] []).updTeam 1 fun t => { t with desc := { t.desc with arena := 0x4000, arenasz := 2048 } }
def at4000 : Spot := { lane := 0, va := 0x4000, tr := leaf, pa := 0x4000 }
theorem witness_ArenaResults :
    findRun 2 [true, false, true, false, false] 0 0 = some 3 ∧ findRun 3 [true, false, true, false, false] 0 0 = none
    ∧ Issuing ar ∧ Ordinary ar ∧ ar.active ctl = 1 ∧ ar.pool 0 = some (0x4000, 2048)
    ∧ (let s := ar.updGroup 0 0 fun g => { g with index := 1 }; Issuing s ∧ Ordinary s ∧ s.active ctl ≠ 0 ∧ s.pool 0 = none)
    ∧ ∃ u, ar.checkAll (ar.who 0) .atomic 16 16 (ar.poolPieces 1) noDet = (u, .ok [at4000]) ∧ u.plain ∧ (∀ p ∈ [at4000], u.poisoned p.pa 16 = false ∧ u.l2Hurt (dieOf ar.cur.core) p.cls p.pa 16 = false)
      ∧ ar.spoilt (0x4000, 2048) = false
      ∧ WritesHome u [at4000] :=
  ⟨by decide, by decide, by unfold Issuing; decide +kernel, by unfold Ordinary; decide +kernel, by decide +kernel, by decide +kernel,
    by unfold Issuing Ordinary; decide +kernel, _, chk_of (by decide +kernel), plain_of (by decide +kernel), by decide +kernel, by decide +kernel, by unfold WritesHome; decide +kernel⟩
def pre : State := (two 1 2).updTeam 1 fun t => { t with preempt := some 5 }
theorem witness_SoftwareTraps :
    Issuing (two 1 2) ∧ (two 1 2).tm.preempt = none ∧ (two 1 2).active ctl ≠ 0 ∧ (two 1 2).active { ctl with pg := 0 } = 0
    ∧ Issuing pre ∧ KeyedCores pre ∧ pre.active ctl ≠ 0 ∧ pre.tm.preempt.isSome = true ∧ pre.g.saveRec = none := by

  refine ⟨?_, ?_, ?_, ?_, ?_, keyedCores_of ?_, ?_⟩ <;> (try unfold Issuing) <;> decide +kernel
/-- The context's handler stands at 0x1008. -/
def hd : State := (((st 3 [] []).homeWr 0x1008 (leBytes 8 0x7F8007F840000000)).updCtx 1 fun c =>
  { c with copy := some [0xA000000000000100, 1, 0, 0x1008, 0, 0, 0, 0], entry := [0xA000000000000100, 1, 0, 0x1008, 0, 0, 0, 0] })
theorem witness_TakingATrap :
    (hd.team 1).preempt = none ∧ (hd.group? 0 0).isSome = true ∧ (hd.handlerPc 0 0 3).map (·.1) = some 0x1008 ∧ 2 ≤ hd.g.budget
    ∧ (hd.team 1).rerun = none ∧ hd.g.held.any (fun x => x.1 == 2 * (hd.g.budget / 2) - 2 || x.1 == 2 * (hd.g.budget / 2) - 2 + 1) = false
    ∧ (two 1 2).handlerPc 0 0 1 = none ∧ (∀ l, l < 32 → ((two 1 2).g.thread l).level = false)
    ∧ ({ cause := 2, pc := 0x1000, lanes := 1 : TrapInfo }.rolls && ((two 1 2).team 1).rollOk) = false
    ∧ (aget (two 1 2).launches ((two 1 2).team 1).launch).map (fun r => (r.queue, r.foreign)) = some (0, none) ∧ ((two 1 2).queue 0).st = .running := by
  decide +kernel
/-- The context with supervisor privilege, or without it. -/
def su (w : W64) : State := (sc2 15 4097).updCtx 1 fun c => { c with copy := some [0xA000000000000100, w, 0, 0, 0, 0, 0, 0], entry := [0xA000000000000100, w, 0, 0, 0, 0, 0, 0] }
theorem witness_SpecialRegisters :
    Issuing (su 1) ∧ (su 1).active ctl ≠ 0 ∧ Issuing (su 3) ∧ (su 3).active ctl ≠ 0 ∧ ((su 1).ctx (su 1).tm.ctx).super = false ∧ ((su 3).ctx (su 3).tm.ctx).super = true
    ∧ 0x100 ≤ (0x100 : BitVec 9).toNat ∧ (0x109 : BitVec 9).toNat ≤ 0x109 ∧ (0x110 : BitVec 9).toNat ≤ 0x118 ∧ (0x118 : BitVec 9).toNat = 0x118
    ∧ (0x120 : BitVec 9).toNat = 0x120 ∧ (0x122 : BitVec 9).toNat ≤ 0x122 ∧ max 16 (min 4096 ((su 1).srd 2).toNat) = 16
    ∧ max 16 (min 4096 ((su 1).srd 3).toNat) = 4096 := by unfold Issuing; decide +kernel
/-- Code lines: none, one that L1 does not hold, one it holds; a set of L1 with four pinned lines. -/
def ic (lines : List ICLine) : State := (st 1 [(2, .u 0), (3, .u 8)] [(4, 0x1000)]).updCore 0 fun c => { c with l1i := lines }
def ln (va : Nat) (pin : Bool) : ICLine := { ctx := 1, va, words := List.replicate 16 0, pin }
theorem witness_InstructionCacheSteering :
    Issuing (ic []) ∧ (ic []).active ctl ≠ 0 ∧ (ic []).g.quad < ((ic []).core 0).l0i.length
    ∧ (ic []).codeLines 1 4 (.v 2) = [] ∧ (ic []).codeLines 1 4 (.v 3) = [0x1000]
    ∧ icFind ((ic []).icLevel true) 1 0x1000 = none ∧ (match ((ic []).codeLine 0 1 0x1000 false).2 with | .ok _ => true | .error _ => false) = true
    ∧ (match ((ic []).codeLine 0 1 (2 ^ 56 - 128) false).2 with | .ok _ => true | .error _ => false) = false
    ∧ icFind ((ic [ln 0x1000 false]).icLevel true) 1 0x1000 = some (ln 0x1000 false)
    ∧ (((ic [ln 0x1000 false]).icLevel true).filter fun z => z.pin && z.va / 128 % 128 == 0x1000 / 128 % 128).length < 8 / 2
    ∧ 8 / 2 ≤ (((ic (ln 0x1000 false :: [0x5000, 0x9000, 0xD000, 0x11000].map fun v => ln v true)).icLevel true).filter
        fun z => z.pin && z.va / 128 % 128 == 0x1000 / 128 % 128).length := by unfold Issuing; decide +kernel
/-- The host-call ring at 0x5000 with 16 slots, its first slot taken or not; queue 3 of the context, of 16 slots at 0x6000, full or not. -/
def hc (b : Byte) (wr : BitVec 32) : State :=
  let s := (sc2 3 0).homeWr 0x5007 [b]
  let s := s.updCtx 1 fun c => { c with hcbase := 0x5004 }
  s.updQueue 3 fun q => { q with st := .running, cfg := 0x104, base := 0x6000, wr }
def hcWords (va : Nat) : List (Nat × Nat) := (List.range 8).map fun j => (0, (va + 8 * j) % 2 ^ 64)
theorem witness_HostCallResults :
    Issuing (hc 0 0) ∧ (hc 0 0).active ctl = 1 ∧ Ordinary (hc 0 0) ∧ Issuing (hc 0x80 0) ∧ (hc 0x80 0).active ctl = 1
    ∧ Issuing (hc 0 16) ∧ (hc 0 16).active ctl = 1 ∧ Ordinary (hc 0 16)
    ∧ (let s := (hc 0 0).noAudit ((hc 0 0).who 0)
      let r := s.checkAll (s.who 0) .load 8 8 [(0, 0x5000)] noDet
      ((okOf r.2).map fun ps => (r.1.poisonTrap 1 ps 8 true).isNone && !(r.1.slotFull 0 ps).1
        && (let v := (r.1.slotFull 0 ps).2.checkAll ((r.1.slotFull 0 ps).2.who 0) .store 8 8 (hcWords 0x5000) noDet
            (okOf v.2).isSome && ((v.1.noRollW (v.1.who 0)).sysWrite { die := 0, core := some 0, ctx := 1 } 0 0x5000 (List.replicate 64 0) true).isSome)) = some true)
    ∧ (let s := (hc 0x80 0).noAudit ((hc 0x80 0).who 0)
      let r := s.checkAll (s.who 0) .load 8 8 [(0, 0x5000)] noDet
      ((okOf r.2).map fun ps => (r.1.poisonTrap 1 ps 8 true).isNone && (r.1.slotFull 0 ps).1) = some true)
    ∧ ((hc 0 0).ctx 1).hcbase ≠ 0 ∧ ((two 1 2).ctx 1).hcbase = 0 ∧ ((sc2 3 0).queue 3).st ≠ .running
    ∧ ((hc 0 0).queue 3).st = .running ∧ bits ((hc 0 0).queue 3).cfg.toNat 15 8 = (hc 0 0).tm.ctx
    ∧ (((hc 0 16).queue 3).wr - ((hc 0 16).queue 3).rd).toNat = 2 ^ (((hc 0 16).queue 3).cfg.toNat % 32)
    ∧ (((hc 0 0).queue 3).wr - ((hc 0 0).queue 3).rd).toNat ≠ 16
    ∧ (let s := (hc 0 0).noAudit ((hc 0 0).who 0)
      let v := s.checkAll (s.who 0) .store 8 8 (hcWords 0x6000) noDet
      (okOf v.2).isSome = true ∧ ((v.1.noRollW (v.1.who 0)).sysWrite { die := 0, core := some 0, ctx := 1 } 0 0x6000 (List.replicate 64 0) true).isSome = true)
    ∧ (let s := (hc 0 0).updTeam 1 fun t => { t with desc := { t.desc with flags := 2 } }; s.tm.desc.det = true) := by
  unfold Issuing Ordinary; decide +kernel

/-- Lane 0 of group 0 sleeps until cycle 0, lane 1 until cycle 1; lane 2 waits for command 9. -/
def sl : State := (two 1 2).updGroup 0 0 fun g => { g with
  threads := g.threads.mapIdx fun l t => { t with wait := if l = 0 then .sleep 0 else if l = 1 then .sleep 1 else if l = 2 then .op 9 else t.wait }
  spilled := [(7, .u 9)] }
def feq (a : Nat) : FeReq := { lane := 2, addr := a, size := 4, want := true, after := false, store := none }
def lg : LogEntry := { slot := 0, tag := 0, team := 1, instr := .smov ctl 1 2, cur := { core := 0, slot := 0, pc := 0x1000, mask := 1 }, group := (two 1 2).g }
/-- A replay of that word in the group with tag n, and the state it leaves. -/
def lgs (n : Nat) : State := (two 1 2).updCore 0 fun c => { c with opLog := [lg], tags := [(0, n)] }
def lgr (n : Nat) : State :=
  let s := (lgs n).updCore 0 fun x => { x with opLog := x.opLog.erase lg, slots := aset x.slots 0 (lg.actor (if n = 0 then some (lgs n).g else none)), tags := aset x.tags 0 0 }
  rerun lg.instr { s with cur := { lg.cur with replay := true, soft := false, first := (lgs n).now 0, last := (lgs n).now 0 } }
theorem witness_WaitsComeToTheirEnd :
    (sl.group? 0 0).map (fun g => (g.saveRec, g.saved, (g.thread 0).wait, (g.thread 1).wait)) = some (none, false, .sleep 0, .sleep 1) ∧ sl.now 0 = 0
    ∧ aget sl.g.spilled 7 = some (.u 9) ∧ (sl.core 0).allocWait < 64
    ∧ (let s := sl.updCore 0 fun c => { c with allocWait := 64 }
      64 ≤ (s.core 0).allocWait ∧ ((s.core 0).slots.map (·.1)).Pairwise (· < ·) ∧ (s.g.regs.map (·.1)).Pairwise (· < ·) ∧ s.spillable 0 0 s.g ≠ []
      ∧ (s.core 0).slots.length = 1 ∧ s.tmpls = [])
    ∧ (let s := withOp sl (.feWait [0] false); s.op? 0 9 = some (opOf (.feWait [0] false)) ∧ (opOf (.feWait [0] false)).slot = 0
      ∧ ([0].filter fun q => s.isFull 1 q == false) ≠ [] ∧ ([0].filter fun q => s.isFull 1 q == true) = [])
    ∧ (let s := withOp sl (.fe [feq 0] [] .zero 4 false false); (s.feStep 1 0 9 true [feq 0] []).1 ≠ []
      ∧ s.scHurt 1 (feq 0).addr (feq 0).size = false)
    ∧ (let s := (withOp sl (.fe [feq 0] [] .zero 4 false false)).updTeam 1 fun t => { t with fe := [0] }; (s.feStep 1 0 9 true [feq 0] []).1 = []
      ∧ s.scHurt 1 (feq 0).addr (feq 0).size = false ∧ (s.team 1).blocks = [])
    ∧ (let s := withOp (rg r0) (.ring .acq 2 0 .zero)
      2 < (s.team 1).rings.length ∧ ((s.ringWaiters 1 2 .acq).map (·.2.id)).min? = some 9
      ∧ (match (s.ring 1 2).try_ .acq 0 with | .granted .. => true | _ => false) = true)
    ∧ (let s := withOp (rg r0) (.ring .pub 2 0 .zero); (match (s.ring 1 2).try_ .pub 0 with | .waits => true | _ => false) = true)
    ∧ (let s := withOp (rg { r0 with p := 2, qr := 1 }) (.ring .pub 2 0 .zero)
      (match (s.ring 1 2).try_ .pub 0 with | .placed .. => true | _ => false) = true)
    ∧ (sl.core 0).opLog = []
    ∧ (∀ n ∈ [0, 1], ((lgs n).core 0).opLog.find? (·.slot == 0) = some lg ∧ (lgs n).upsets = [] ∧ ((lgs n).core 0).tag 0 = n ∧ lg.tag = 0
      ∧ (lgr n).cur.stall = false ∧ (lgr n).cur.hold = false ∧ ((lgr n).core 0).opLog = []
      ∧ (aget (lgr n).teams (lgs n).g.team).isSome = true ∧ ((lgr n).team (lgs n).g.team).rerun = none)
    ∧ ((lgr 0).group? 0 0).map (fun q => (q.alloc == (two 1 2).g.alloc, q.saveRec, q.saved)) = some (true, none, false) := by
  decide +kernel
/-- A team that owes one item of template 5, which die 0 holds; a full bin and one that is not. -/
def it : State :=
  let s := { two 1 2 with tmpls := [(5, { ctx := 1, launch := 0, replicas := [0] })] }
  let s := s.updTeam 1 fun t => { t with owed := [{ id := 3, tmpl := 5, next := 2 ^ 32, count := 1 }], blocks := [(0, 1024, 5)], copying := [(0, 0, 0), (0, 1, 5)], desc := { t.desc with scratch := 1 } }
  s.updCore 0 fun c => { c with bins := [(0, { team := 1, entry := 0x1008, tmpl := none, n := 2, threads := [[1, 2]], due := 0, full := true }),
    (1, { team := 1, entry := 0x1008, tmpl := none, n := 2, threads := [[1, 2]], due := 0 }), (2, { team := 1, entry := 0x1008, tmpl := none, n := 2, threads := [], due := 1 })] }
/-- Whether every slot's number is below 48, by the table of cores. -/
theorem slots_of {s : State} (h : (s.cores.all fun c => c.2.slots.all fun p => decide (p.1 < 48)) = true) (c : Nat) : ∀ p ∈ (s.core c).slots, p.1 < 48 := by
  simp only [List.all_eq_true, decide_eq_true_eq] at h
  cases e : aget s.cores c with
  | none => simp [State.core, e]
  | some d => simpa [State.core, e] using h _ (aget_mem e)
/-- Whether groups are of recorded teams and teams of recorded launches of their queues, by the tables. -/
theorem housed_of {s : State} (h : ((s.cores.all fun c => c.2.slots.all fun p => (aget s.teams p.2.team).isSome)
    && s.teams.all fun t => ((aget s.launches t.2.launch).map fun l => l.queue == t.2.queue).getD false) = true) : Housed s := by
  simp only [Bool.and_eq_true, List.all_eq_true] at h
  refine ⟨fun c k g hg => ?_, fun n t ht => ?_⟩
  · unfold State.group? State.core at hg
    cases e : aget s.cores c with
    | none => simp [e, aget] at hg
    | some d => exact h.1 _ (aget_mem e) _ (aget_mem (by simpa [e] using hg))
  · have := h.2 _ (aget_mem ht)
    cases e : aget s.launches t.launch with
    | none => simp [e] at this
    | some l => exact ⟨l, rfl, by simpa [e] using this⟩
theorem witness_ItemsBinsAndBlocks :
    KeyedCores it ∧ (∀ c, ∀ p ∈ (it.core c).slots, p.1 < 48) ∧ (it.team 1).owed = [{ id := 3, tmpl := 5, next := 2 ^ 32, count := 1 }] ∧ (it.team 1).st = .resident
    ∧ (it.makeItem 1 { id := 3, tmpl := 5, next := 2 ^ 32, count := 1 }).isSome = true
    ∧ (it.makeItem 1 { id := 3, tmpl := 6, next := 2 ^ 32, count := 1 }).isNone = true ∧ ((two 1 2).team 1).owed = []
    ∧ (aget (it.core 0).bins 0).map (fun b => (b.full, b.tmpl, b.team)) = some (true, none, 1)
    ∧ (aget (it.core 0).bins 1).map (fun b => (b.full, decide (b.due ≤ it.now 0), b.threads != [])) = some (false, true, true)
    ∧ (aget (it.core 0).bins 2).map (fun b => (decide (it.now 0 < b.due), b.threads)) = some (true, [])
    ∧ (it.core 0).slots.length < 48 ∧ it.headroom 0 (it.kernel 1).lateBudget = true ∧ it.freeSlots 0 ≠ 0 ∧ (∀ x ∈ it.tmpls, x.2.dropped = false)
    ∧ 0 ∈ (it.team 1).cores ∧ (it.team 1).blockAt 1023 = some (0, 1024, 5) ∧ (it.team 1).blockAt 1024 = none ∧ (0, 0, 0) ∈ (it.team 1).copying ∧ ¬ it.now 0 < 0 ∧ it.now 1 < 5 ∧ Memory.wf (it.team 1).scratch = true
    ∧ ((it.team 1).blocks.Pairwise fun p q => p.1 + p.2.1 ≤ q.1 ∨ q.1 + q.2.1 ≤ p.1) ∧ 1 ∉ (it.team 1).cores :=
  ⟨keyedCores_of (by decide +kernel), slots_of (by decide +kernel), by decide +kernel⟩
/-- Group 0 waits at barrier 3, its watchdog counts at the timeout of 100 ticks or one below. -/
def wd (n : Nat) : State :=
  let s := (two 1 2).updTeam 1 fun t => { t with desc := { t.desc with watchdog := 100 } }
  s.updGroup 0 0 fun g => { g with wdBar := n, wdRing := n, wdFe := n, threads := g.threads.map fun t => { t with wait := .bar 3 0 } }
theorem witness_WatchdogsEndTheLaunch :
    KeyedCores (wd 100) ∧ KeyedCores (wd 99) ∧ Housed (wd 100) ∧ Housed (wd 99) ∧ (aget (wd 100).teams 1).isSome = true
    ∧ ((wd 100).team 1).rerun = none ∧ ((wd 100).core 0).tag 0 = 0
    ∧ (aget (wd 100).launches ((wd 100).team 1).launch).map (fun r => (r.queue, r.foreign)) = some (0, none) ∧ ((wd 100).queue 0).st = .running
    ∧ ((wd 100).team 1).desc.timeout ≤ (wd 100).g.wdBar ∧ ¬ ((wd 99).team 1).desc.timeout ≤ (wd 99).g.wdBar
    ∧ ((wd 100).g.thread 0).wait = .bar 3 0 ∧ (wd 100).g.team = 1
    ∧ (let s := withOp (wd 100) (.ring .acq 2 0 .zero); s.op? 0 9 = some (opOf (.ring .acq 2 0 .zero)) ∧ (s.ringWait 0 0 s.g).isSome = true ∧ s.op? 0 8 = none)
    ∧ (let s := withOp (wd 100) (.fe [feq 0] [] .zero 4 false false); s.op? 0 9 = some (opOf (.fe [feq 0] [] .zero 4 false false))
      ∧ (opOf (.fe [feq 0] [] .zero 4 false false)).team = 1)
    ∧ (let s := withOp (wd 100) (.feWait [0] true); s.op? 0 9 = some (opOf (.feWait [0] true))) :=
  ⟨keyedCores_of (by decide +kernel), keyedCores_of (by decide +kernel), housed_of (by decide +kernel), housed_of (by decide +kernel), by decide +kernel⟩
/-- Two records of one line, the first ripe; a narrow holder; a page of die 1 that die 0 wants, with a pool frame at 0x100000000. -/
def rc : State :=
  let r : DiffRec := { id := 4, kind := 0, seq := 1, sync := 0x3000, writer := 0, line := 0x2000, words := [(0, 7), (31, 8)] }
  let s := { two 1 2 with recs := [r, { r with id := 5, seq := 2 }], pools := [(0, 0x8000000), (1, 0x2000)] }
  (s.updDie 0 fun d => { d with dir := [(0x3000, { narrow := [2] })], migq := [(0x2000, 0, 0x2000, 1)] })
theorem witness_RecordsHostsAndPages :
    Memory.wf rc.mem = true ∧ (rc.dies.map (·.1)).Pairwise (· < ·) ∧ (∀ d ∈ rc.dies, (d.2.twins.map (·.1)).Pairwise (· < ·))
    ∧ (rc.recs.find? (·.id == 4)).map rc.ripe = some true ∧ (rc.recs.find? (·.id == 5)).map rc.ripe = some false ∧ rc.recs.find? (·.id == 6) = none
    ∧ (rc.entry? 0x3000).map (·.narrow) = some [2] ∧ rc.visible 0 = true ∧ rc.visible (2 ^ 50) = false ∧ rc.sdctl.getLsbD 8 = true
    ∧ rc.time.toNat % 100000 = 0 ∧ (rc.die 0).migq = [(0x2000, 0, 0x2000, 1)] ∧ rc.poolFrame 0 = some 0x8000000 ∧ rc.poolFrame 1 = none
    ∧ rc.migrating = [] ∧ (rc.ctx 1).word 6 = 0 ∧ rc.ringRoom 0 1 = true ∧ (rc.die 0).migRec = none
    ∧ rc.shotOwed 0 0 0 true = false
    ∧ (let w : RelWrite := { lane := 0, pa := 0x2000, va := 0x2000, bytes := [1, 2, 3, 4] }
      (withOp rc (.release [w] [] [] .dev false)).shotOwed 0x2000 0 0 true = true)
    ∧ (match rc.walkCtx 1 0x2000 with | .ok e => e.bits != 12 | .error _ => false) = true
    ∧ (let s := (rc.updDie 0 fun d => { d with migRec := some (1, 0x2000, 0x2000, 0x8000000) }).homeWr 0x5018 [1]
      let s := s.updCtx 1 fun c => { c with copy := c.copy.map fun l => lset l 6 fun _ => 0x5000 }
      (s.die 0).migRec = some (1, 0x2000, 0x2000, 0x8000000) ∧ s.ringRoom 0 1 = false) := by decide +kernel
/-- A page table for address 0x2000 with a leaf of 4096 bytes, in five levels. -/
def pg : State :=
  let s := (rc.homeWr 0x100000 (leBytes 8 (0x101 * 1024 + 1))).homeWr 0x101000 (leBytes 8 (0x102 * 1024 + 1))
  let s := (s.homeWr 0x102000 (leBytes 8 (0x103 * 1024 + 1))).homeWr 0x103000 (leBytes 8 (0x104 * 1024 + 1))
  { s.homeWr 0x104010 (leBytes 8 (2 * 1024 + 0xDF)) with migrating := [0x2000] }
theorem witness_RecordsHostsAndPages_leaf :
    (match (pg.pagePublish fun l => l - l % 4096 == 0x2000).walkCtx 1 0x2000 with | .ok e => e.bits == 12 && e.ppn == 0x2000 && !e.nap | .error _ => false) = true
    ∧ 0x2000 ∈ pg.migrating ∧ pg.ringRoom 0 1 = true ∧ (pg.ctx 1).word 6 = 0 := by decide +kernel
def qs (f : Queue → Queue) : State := (two 1 2).updQueue 3 fun q => f { q with cfg := 0x104, stat := 0x200040 }
theorem witness_QueuesUnderTheHost :
    ((qs fun q => { q with st := .running }).queue 3).st = .running ∧ 2 ^ bits ((qs id).queue 3).cfg.toNat 4 0 = 16
    ∧ 16 < ((17 : BitVec 32) - ((qs id).queue 3).rd).toNat ∧ ¬ 16 < ((16 : BitVec 32) - ((qs id).queue 3).rd).toNat
    ∧ ((qs fun q => { q with st := .draining }).queue 3).st = .draining ∧ ((qs id).queue 3).cmds = []
    ∧ ((qs fun q => { q with st := .torn }).queue 3).st = .torn ∧ ((qs id).queue 3).st = .off ∧ ((qs id).queue 3).log2n = 4 ∧ ((qs id).queue 3).ctxNo = 1
    ∧ ((qs id).ctx 1).closing = false ∧ entryOk (((qs id).ctx 1).copy.getD []) = true
    ∧ ((qs id).sysWrite ((qs id).cp 3) 0 ((qs id).queue 3).statVa (List.replicate 64 0) false).isSome = true := by decide +kernel
theorem witness_WindowAndContexts :
    0x1000000 ≤ 0x1000000 ∧ 0xFFFFFC % 8 ≠ 0 ∧ 0 < 4 ∧ 3 < 4 ∧ 255 < 256 ∧ 4095 < 4096 ∧ 1023 < 1024
    ∧ (100 ≤ ((100 : W64).setWidth 32).toNat ∧ ((10000000 : W64).setWidth 32).toNat ≤ 10000000) ∧ ¬ 100 ≤ ((99 : W64).setWidth 32).toNat
    ∧ ((two 1 2).ctx 1).closing = false ∧ ((two 1 2).ctx 1).inUse = true ∧ ((two 1 2).ctx 2).inUse = false ∧ (1 : W64).getLsbD 0 = true ∧ (2 : W64).getLsbD 0 = false
    ∧ ((two 1 2).queues.map (·.1)).Pairwise (· < ·) ∧ ((two 1 2).queue 0).ctxNo = 1 ∧ ((two 1 2).queue 0).st = .running
    ∧ (aget (two 1 2).teams 1).isSome = true ∧ (((two 1 2).updCtx 1 fun c => { c with closing := true }).ctx 1).closing = true := by decide +kernel

/-- Queue 3's head command at 0x6000, with these words. -/
def qc (ws : List W64) : State :=
  ((two 1 2).updQueue 3 fun q => { q with st := .running, cfg := 0x104, stat := 0x200040, base := 0x6000, wr := 1 }).homeWr 0x6000 (ws.flatMap fun w => leBytes 8 w.toNat)
def cmd8 (op a b c : W64) : List W64 := [op, a, b, c, 0, 0, 0, 0]
/-- Whether the head of queue 3 is a well-formed command with this OP, whose turn it is. -/
def ready (ws : List W64) (op : Nat) : Bool :=
  (qc ws).nextCommand 0 == some (3, op) && (match (qc ws).head 3 with | some (_, some l) => cmdOk l && l.headD 0 % 256 == BitVec.ofNat 64 op | _ => false)
/-- A wait in queue 3 for the word at 0x2000, begun at tick 0, with a limit of 10 ticks. -/
def wv (now : W64) : State :=
  let c : Cmd := { index := 0, op := 3, tag := 0, words := [3, 0x2000, 1, 0xFF, 0, 10, 0, 0], start := 0 }
  { (qc []).updQueue 3 fun q => { q with rd := 1, cmds := [c] } with time := now }
/-- The 256 bytes of a descriptor (R315): one GENERAL group of one register, entry 0x1008, the least SPILLSZ. -/
def desc1 : List Byte :=
  leBytes 8 0x1008 ++ leBytes 4 1 ++ leBytes 4 1 ++ leBytes 4 1 ++ (List.range 236).map fun i => [(3, 1), (10, 1), (13, 1), (54, 0x40), (55, 0x20)].foldl (fun b p => if p.1 == i then p.2 else b) 0
theorem witness_QueueCommands :
    (∃ z p, (qc []).spot ((qc []).cp 3) .load 8 8 0x2000 = (z, some p) ∧ z.plain ∧ p.cls = 0)
    ∧ ready (cmd8 4 0 0 0) 4 = true ∧ ready (cmd8 6 0 0 0) 6 = true ∧ ready (cmd8 5 0x2000 0 0) 5 = true ∧ ready (cmd8 2 0x2000 7 0) 2 = true
    ∧ ready (cmd8 2 0x2000 7 8) 2 = true ∧ ready (cmd8 3 0x2000 7 0xFF) 3 = true ∧ ready (cmd8 1 0x7000 0 0) 1 = true
    ∧ (qc (cmd8 7 0 0 0)).nextCommand 0 = some (3, 0) ∧ (match (qc (cmd8 7 0 0 0)).head 3 with | some (_, ws) => headOp ws == 0 | none => false) = true
    ∧ (two 1 2).nextCommand 0 = none
    ∧ ((qc []).spot ((qc []).cp 3) .store 8 8 (2 ^ 60)).2 = none
    ∧ ((qc []).readVa ((qc []).cp 3) (2 ^ 60) 256).2 = none ∧ (((qc []).readVa ((qc []).cp 3) 0x7000 256).2.map ((qc []).descOk 1)) = some false
    ∧ ((wv 10).queue 3).waiting.isSome = true ∧ ((wv 10).queue 3).st = .running ∧ ((two 1 2).queue 3).waiting = none
    ∧ (wv 9).time.toNat < 0 + 10 ∧ 0 + 10 ≤ (wv 10).time.toNat ∧ (wv 10).cmdLate 3 3 [3, 0x2000, 1, 0xFF, 0, 10, 0, 0] = false
    ∧ ({ wv 10 with migrating := [0x2000] } : State).cmdLate 3 3 [3, 0x2000, 1, 0xFF, 0, 10, 0, 0] = true :=
  ⟨⟨_, at2000, snd_of (by decide +kernel), plain_of (by decide +kernel), by decide +kernel⟩, by decide +kernel⟩
/-- A launch with one team to admit, at this priority, waiting since tick 0. -/
def ad : State :=
  { two 1 2 with launches := aset (two 1 2).launches 7 { ctx := 1, queue := 0, pri := 3, desc := { ngeneral := 1, bgeneral := 1 }, todo := [(0, 0)], total := 1 }, time := 10000 }
theorem witness_TeamLives :
    (∃ cs, ad.nextAdmission = some (7, .team 0 0, cs)) ∧ (two 1 2).nextAdmission.isNone = true
    ∧ (let s := ({ ad with teams := aset ad.teams 8 { launch := 7, st := .suspended, ctx := 1, desc := (ad.launchRec 7).desc } } : State).updLaunch 7 fun r => { r with todo := [], suspended := [8] }
      (s.nextAdmission.map fun a => (a.1, a.2.1)) = some (7, .restore 8) ∧ (s.team 8).launch = 7)
    ∧ ad.nextTeams 7 = [.team 0 0] ∧ ad.victimFor 7 (.team 0 0) = some 1 ∧ aget ad.launches 9 = none ∧ (aget ad.launches 7).map (fun r => (r.asked, decide (r.waitsFrom (1, 0) + 10000 ≤ ad.time.toNat))) = some ([], true)
    ∧ ad.doomsWith 0 = []
    ∧ (aget ad.teams 1).isSome = true ∧ (ad.team 1).st = .resident ∧ (ad.team 1).preempt = none ∧ (ad.team 1).rerun = none ∧ ad.storeRoom 1 = true
    ∧ (ad.teams.map (·.1)).Pairwise (· < ·)
    ∧ (∀ x ∈ ad.groupsOf 1, ad.anyRunnable x.1 x.2.2 = true) ∧ pre.time.toNat < 5 ∧ (pre.team 1).preempt = some 5
    ∧ ((pre.updTeam 1 fun t => { t with preempt := some 0 }).team 1).preempt = some 0
    ∧ ad.teamOver 1 = false ∧ (let s := ad.updCore 0 fun c => { c with slots := [] }; s.teamOver 1 = true ∧ (s.team 1).desc.det = false ∧ (s.team 1).prologue = false
      ∧ (s.launchRec 0).foreign = none ∧ (s.team 1).rerun = none)
    ∧ (let s := (ad.updCore 0 fun c => { c with slots := [] }).updLaunch 0 fun r => { r with foreign := some (1, 5, 0) }
      s.teamOver 1 = true ∧ (s.launchRec 0).foreign = some (1, 5, 0) ∧ (s.team 1).desc.audit = false ∧ s.audits = [] ∧ (s.teams.filter fun x => x.2.launch == 0).length = 1)
    ∧ (let s := (ad.updCore 0 fun c => { c with slots := [] }).updTeam 1 fun t => { t with desc := { t.desc with flags := 2 } }; s.teamOver 1 = true ∧ (s.team 1).desc.det = true)
    ∧ (let s := (ad.updCore 0 fun c => { c with slots := [] }).updTeam 1 fun t => { t with prologue := true }
      s.teamOver 1 = true ∧ (s.queue (s.launchRec 0).queue).st = .running)
    ∧ (let s := ad.updTeam 1 fun t => { t with st := .ended, desc := { t.desc with flags := 2 } }
      (s.teams.find? (fun t => t.2.launch == 0 && t.2.st == .ended && t.2.rank == (s.launchRec 0).nextRetire)).map (·.1) = some 1)
    ∧ ad.launchOver 7 = false
    ∧ (let s := (ad.updLaunch 0 fun r => { r with ended := 1, sigVa := 0 }); let s := { s with teams := [] }; s.launchOver 0 = true ∧ (s.launchRec 0).sigVa = 0 ∧ s.signalLate 0 = false) := by
  refine ⟨⟨((ad.nextAdmission.map (·.2.2)).getD []), by decide +kernel⟩, by decide +kernel⟩
def putOk : PutMsg := { seq := 5, ctx := 1, va := 0x2000, bytes := List.replicate 16 1, posted := false, rel := false }
def getOk : GetMsg := { seq := 5, ctx := 1, va := 0x2000, len := 16, acq := false }
def fxs (x : Xfer) : State := (withOp (two 1 2) (.fabric x)).updPort 1 fun p => { p with outstanding := [(7, 0, 9)] }
theorem witness_FabricMessages :
    (two 1 2).delays = false ∧ ({ two 1 2 with migrating := [0x2000] } : State).delays = true ∧ 0x2008 % 16 ≠ 0 ∧ putOk.va % 16 = 0 ∧ putOk.va < 2 ^ 64
    ∧ ((two 1 2).ctx 1).inUse = true ∧ ((two 1 2).ctx 2).inUse = false ∧ putOk.bytes.length = 16
    ∧ (∃ u p, (two 1 2).copySpot (farWho 1 1) .store 16 0x2000 = (u, .ok p) ∧ u.plain ∧ p.cls = 0)
    ∧ (∃ u, (two 1 2).localCheck (farWho 1 1) .load 0x2000 16 = (u, .ok ()))
    ∧ (match ((two 1 2).localCheck (farWho 1 1) .load (2 ^ 60) 16).2 with | .error (some _) => true | _ => false) = true
    ∧ ([fx, { fx with send := false }, { fx with got := some [] }, { fx with err := some (8, 0, 0) }, { fx with posted := true }].all fun x =>
      ((fxs x).xfer 1 7).map (fun p => (p.1, p.2.2)) == some (0, x)) = true
    ∧ ({ fxs fx with time := 100000000 } : State).time.toNat = fx.start + 100000000
    ∧ ((two 1 2).farWrite { (opOf (.fabric fx)).who 0 with ahead := false } 0x2000 false 0 (List.replicate 16 1)).2.isNone = true
    ∧ ((two 1 2).farWrite { (opOf (.fabric fx)).who 0 with ahead := false } (2 ^ 60) false 0 (List.replicate 16 1)).2.isSome = true
    ∧ 1 ≤ 8 ∧ (8 < 9) ∧ (two 1 2).descOk 1 desc1 = true ∧ desc1.length = 256 ∧ (descFields desc1).templated = false ∧ (descFields desc1).det = false
    ∧ (let s : State := { two 1 2 with launches := aset (two 1 2).launches 1 {
          ctx := 1, desc := descFields desc1, raw := desc1, todo := [(0, 0)], total := 1, foreign := some (1, 5, 0) } }
      (s.coresForNext 1 (.team 0 0)).isSome = true)
    ∧ (let s := (two 1 2).updLaunch 0 fun r => { r with away := [(4, 0, 1)] }; (s.launchRec 0).away.any (fun a => a.1 == 4 && a.2.2 == 1) = true)
    ∧ (∀ here : Bool,
      let s := (two 1 2).updPort 1 fun p => { p with sentTeams := [(11, 0, 4)] }
      let s : State := { s with teams := if here then aset s.teams 3 { index := 4, st := .sent } else s.teams }
      (s.xfer 1 11).isNone = true ∧ (s.port 1).sentTeams.find? (·.1 == 11) = some (11, 0, 4) ∧ (aget s.launches 0).isSome = true
      ∧ (s.teams.any fun q => q.2.launch == 0 && q.2.index == 4 && q.2.st == .sent) = here ∧ (s.teams.map (·.1)).Pairwise (· < ·))
    ∧ teamSound { seq := 1, launch := 5, index := 0, queue := 3, fetch := { desc := desc1 } } = true
    ∧ (two 1 2).time.toNat % 100 = 0 ∧ ((two 1 2).port 15).up = true := by
  refine ⟨by decide +kernel, by decide +kernel, by decide, by decide, by decide, by decide +kernel, by decide +kernel, by decide,
    ⟨_, at2000, ok_of (by decide +kernel), plain_of (by decide +kernel), by decide +kernel⟩, ⟨_, ok_of (by decide +kernel)⟩, by decide +kernel⟩
/-- An audit of a launch whose original ran on physical core 0, and the record of its run on core 8 or, in writing mode, 16. -/
def au (r : Rerun) (second : Option (Nat × Option (BitVec 128))) : State :=
  { two 1 2 with
    audits := [{ launch := 0, index := 0, core := 0, digest := 7, second }]
    teams := aset (two 1 2).teams 2 { launch := 0, ctx := 1, cores := [if r.writes then 16 else 8], rerun := some r } }
def qt : State :=
  { two 1 2 with pcores := [(3, { suspicion := 65535, quarantined := true })], teams := [] }
theorem witness_ErrorsAndWear :
    (∀ trapped writes : Bool,
      let s := au { writes, die := 0, trapped } (if writes then some (8, none) else none)
      ((s.team 2).rerun.map fun r => (r.writes, r.trapped)) = some (writes, trapped) ∧ ((s.auditOf (s.team 2)).map (·.1)) = some 0 ∧ s.runEnded 0 0 (if writes then 16 else 8) 2 = true
      ∧ (s.team 2).digest ≠ 7
      ∧ (s.launchRec 0).foreign = none ∧ (s.queue (s.launchRec 0).queue).st = .running)
    ∧ (let s := au { writes := true, die := 0 } (some (8, some ((au { writes := true, die := 0 } none).team 2).digest))
      (s.audits.map (·.second)) = [some (8, some (s.team 2).digest)])
    ∧ (let s := au { writes := false, die := 0 } none
      let s : State := { s with audits := [{ launch := 0, index := 0, core := 0, digest := (s.team 2).digest }] }
      (s.auditOf (s.team 2)).map (·.2.digest) = some (s.team 2).digest)
    ∧ qt.mgmt.halved = false
    ∧ (two 1 2).time.toNat % 1048576 = 0 ∧ (qt.pcore (qt.physOf 3)).quarantined = true ∧ qt.idleCluster 0 0 = true ∧ 3 / 4 ∉ (qt.die 0).withdrawn
    ∧ qt.spare 0 = some 64 ∧ (let s := qt.updDie 0 fun d => { d with clmap := List.range 66 }; s.spare 0 = none) ∧ 3 < (qt.die 0).clmap.length
    ∧ qt.visible 0x2000 = true ∧ qt.visible (2 ^ 50) = false
    ∧ (let k : Stack := { errs := [(4, 2, [])], dropped := List.range 12 |>.map (· + 5) }; k.failing 4 0 = true ∧ k.dropped.length + k.pendingDrop.length = 12)
    ∧ (let k : Stack := { errs := [(4, 1, [])] }; k.failing 4 0 = false)
    ∧ 0x1370000000 + 0x10000000 = 0x1380000000 ∧ qt.mgmt.stopped = false ∧ qt.time.toNat % 100 = 0 ∧ qt.mgmt.capW < 2601 := by
  decide +kernel
theorem witness_ManagementServices :
    (qt.pcores.map (·.1)).Pairwise (· < ·) ∧ qt.mgmt.powered = true ∧ ({ qt.mgmt with powered := false }).powered = false ∧ ({ qt.mgmt with pending := some 16 }).pending = some 16 ∧ qt.mgmt.pending ≠ some 16
    ∧ 1200 ≤ 1200 ∧ 2600 ≤ 2600 ∧ 1199 < 1200 ∧ 2600 < 2601 ∧ 63 < 64 ∧ 64 ≤ 64 ∧ 1 - qt.mgmt.running < qt.mgmt.slotVersions.length
    ∧ qt.mgmt.fused ≤ 1 := by decide +kernel
/-- Whether a state's turn falls to a word, all of the statement's hypotheses among it. -/
def runs (s : State) (n : Nat) : Bool :=
  match s.nextPick with
  | some p =>
    let g := s.group p.core p.slot
    p.issued && p.at_.2 != 0 && (List.range 32).all (fun l => s.position p.core g (g.thread l) != some p.at_ || (g.thread l).left != 0)
      && (match (s.fetch p.core g.quad (s.team g.team).ctx p.at_.1).2 with
        | .ok w => (match wordCheck g.role g.budget p.at_.2 w with | .ok r => r.1.length == n | .error _ => false) | .error _ => false)
  | none => false
theorem witness_StepRunsDecodedWord :
    (let s := State.reset.withFetchWord 64 0x01F0080400180001
    runs s 1 = true ∧ s.inbox = [] ∧ s.mgmt.powered = true ∧ s.mgmt.ready = true ∧ s.mgmt.stopped = false ∧ s.mgmt.halved = false ∧ s.upsets = [] ∧ (s.firstAct s.dueActs).isNone = true)
    ∧ runs (State.reset.withFetchWord 64 0xC80402F0080D43E0) 2 = true := by decide +kernel
theorem witness_StepTakesInput :
    (let s : State := { qt with inbox := [.beaconTimer] }
    s.inbox = [.beaconTimer] ∧ s.holds .beaconTimer = false ∧ isEvent .beaconTimer = true ∧ isPower .beaconTimer = false ∧ isMgmt .beaconTimer = false
      ∧ s.mgmt.stopped = false ∧ s.mgmt.ready = true ∧ (match exec .beaconTimer { s with inbox := [] } with | .next _ => true | _ => false) = true)
    ∧ isPower (.bringUp none) = true ∧ isEvent (.nop ctl) = false ∧ isMgmt .warmReset = true
    ∧ ({ qt with migrating := [0x2000] } : State).holds (.put 1 putOk) = true ∧ ({ qt.mgmt with powered := false }).powered = false := by decide +kernel
theorem witness_ClockInvariant :
    (let s : State := { State.reset with phase := 10 }; ClockInv s ∧ (match step s with | .next t => t.phase == 0 && t.time == 1 | _ => false) = true)
    ∧ ClockInv State.reset ∧ (match step State.reset with | .next t => t.phase == 1 && t.time == 0 | _ => false) = true := by
  unfold ClockInv; decide +kernel
theorem witness_HomeMemory : Memory.wf qt.mem = true ∧ leBytes 8 (7 : W64).toNat = [7, 0, 0, 0, 0, 0, 0, 0] ∧ 8 ≤ 8
    ∧ (aget (tw.die 1).copies 0x2000).isSome = true ∧ lineOf 0x2004 ≤ 0x2000 ∧ 0x2000 < 0x2004 + 8 := by decide +kernel
theorem witness_EncodeRoundTrip :
    (Instr.ld ctl (.v 2) (.s 4) (.v 1) .b32 false .n false).wf = true ∧ encode (.ld ctl (.v 2) (.s 4) (.v 1) .b32 false .n false) = some 0x50700A8801000000
    ∧ (Instr.ld ctl (.v 2) (.s 4) (.v 1) .b32 false .n false).tab.isSome = true ∧ (Instr.ld ctl (.v 2) (.s 4) (.v 1) .b32 false .n false).half = none
    ∧ (Instr.halfIadd (hf (.v 6) (.s 3))).wf = true ∧ encodePair (.halfIadd (hf (.v 6) (.s 3))) (.halfFmul (hf (.v 4) (.v 5))) false = some 0xC80402F0080D43E0
    ∧ pairOk (fld (0xC80402F0080D43E0 : W64) 1 31) (fld (0xC80402F0080D43E0 : W64) 32 31) = true ∧ (0x26F0000000000000 : W64).msb = false
    ∧ fld (0x26F0000000000000 : W64) 55 8 = 0x4D := by decide

/-! More witnesses: the clauses that speak of failed checks, of what waits, and of what is refused. -/

/-- What a failed check names: its number, its lanes, its address. -/
def hardOf (x : Chk) : Option (Nat × W32 × Nat × Bool) := match x with | .hard n m va wk => some (n, m, va, wk) | _ => none
theorem hard_of {x : State × Chk} {n va : Nat} {m : W32} {wk : Bool} (h : hardOf x.2 = some (n, m, va, wk)) : x = (x.1, .hard n m va wk) := by
  obtain ⟨a, e⟩ := x
  cases e <;> simp_all [hardOf]
/-- Every address operand holds 2^56, which is not canonical; TSRSET's registers are well formed. -/
def far : State := st 1 [(2, .u 1), (4, .u 0), (5, .u 0x01000000)] [(4, 0x0100000000000000), (8, 0x2000), (9, 0x0000000400000102)]
/-- Whether the checks of every form of access, of k bytes, fail so. -/
def farFails (k : Nat) : Bool :=
  let s := far.noAudit (far.who 0)
  [far.checkAll (far.who 0) .load k k [(0, far.vaddr (.s 4) .zero false 0)] (fun _ pa => far.detAcq (far.who 0) pa k),
    far.checkAll (far.who 0) .load k k [(0, far.sldAddr 4 none)] noDet,
    far.checkAll (far.who 0) .store k k [(0, far.vaddr (.s 4) .zero false 0)] (far.detStore 0),
    far.checkAll (far.who 0) .store k k [(0, far.sldAddr 4 none)] (far.detStore 0),
    far.checkAll (far.who 0) .store 64 64 [(0, (far.rd64 (.s 4) 0).toNat)] (far.detStore 0),
    far.checkAll (far.who 0) .atomic k k [(0, (far.rd64 (.v 4) 0).toNat)] (far.atomBad 0 .add true .ar k),
    s.checkAll (s.who 0) .atomic k k [(0, (far.rd64 (.v 4) 0).toNat)] (s.atomBad 0 .add false .ar k),
    far.checkAll (far.who 0) .line 1 1 (far.lineList 1 (.s 4) .zero false none) noDet].all fun x =>
      hardOf x.2 == some (1, 1, 0x0100000000000000, false)
theorem witness_ChecksOfAccess_fail :
    (∃ u, far.checkAll (far.who 0) .load 4 4 [(0, far.vaddr (.s 4) .zero false 0)] noDet = (u, .hard 1 1 0x0100000000000000 false))
    ∧ Memory.wf far.mem = true ∧ far.active ctl = 1
    ∧ farFails 4 = true ∧ farFails 8 = true
    ∧ (tsrOf (((blockRegs 1).map far.srd).map BitVec.toNat)).isOk = true
    ∧ (∃ e, mmU.xlate (mm.who 0) 0x2001 .load = (mmU, .ok e) ∧ canonical 0x2001 = true ∧ 0x2001 % 4 ≠ 0) := by
  refine ⟨⟨_, hard_of ?_⟩, ?_, ?_, ?_, ?_, ?_, ⟨leaf, ?_, ?_⟩⟩
  case refine_7 =>
    rw [ok_of (b := leaf) (x := mmU.xlate (mm.who 0) 0x2001 .load) (by decide +kernel), show (mmU.xlate (mm.who 0) 0x2001 .load).1 = mmU by decide +kernel]
  all_goals decide +kernel
/-- A failed target with other threads left to go on, and with none; a target whose page moves, for each way to name one. -/
theorem witness_TransfersOfControl_fail :
    (let u := (brs.checkTargets (brs.targets 3 (brs.rd64 (.v 4)) false)).1; u.goesOn u.cur.core u.cur.slot 3 = true)
    ∧ (let s : State := { brs with cur := { brs.cur with mask := allOnes32 } }
      let u := (s.checkTargets (s.targets allOnes32 (s.rd64 (.v 4)) false)).1
      (s.active ctl = allOnes32 ∧ (s.checkTargets (s.targets allOnes32 (s.rd64 (.v 4)) false)).2 = ([0x1010], false)) ∧ u.goesOn u.cur.core u.cur.slot allOnes32 = false)
    ∧ (brsLate.checkTargets (brsLate.targets 3 (fun _ => brsLate.relTarget 1) false)).2 = ([], true)
    ∧ (brsLate.checkTargets (brsLate.targets 3 (brsLate.rd64 (.v 2)) true)).2 = ([], true) := by decide +kernel
theorem witness_CommandCompletes_moving :
    (let s : State := { two 1 2 with hbm := [(0, { moving := true })] }; s.movesAt 0x2000 = true) ∧ (two 1 2).movesAt 0x2000 = false := by decide +kernel
/-- ATOMS at the last word of the scratchpad. -/
theorem witness_AtomicResults_scratch :
    Issuing (sp 32764 []) ∧ (sp 32764 []).active ctl = 1 ∧ (sp 32764 []).tm.blocks = [] ∧ Memory.wf (sp 32764 []).tm.scratch = true
    ∧ ((sp 32764 []).rd (.v 2) 0).toNat % 4 = 0 ∧ (sp 32764 []).tm.inScratch ((sp 32764 []).rd (.v 2) 0).toNat 4 = true
    ∧ (sp 32764 []).scHurt 1 ((sp 32764 []).rd (.v 2) 0).toNat 4 = false := by unfold Issuing; decide +kernel
/-- Lane 0 names a full granule, lane 1 the empty one after it. -/
def fe2 : State := (st 3 [(2, .a 32736 16)] []).updTeam 1 fun t => { t with fe := [2046], desc := { t.desc with scratch := 1 } }
theorem witness_FullEmptyResults_mixed :
    Issuing fe2 ∧ Drawn fe2 ∧ fe2.active ctl = 3 ∧ fe2.tm.blocks = [] ∧ (∀ x ∈ fe2.cores, x.2.ops = [])
    ∧ (∀ l, l < 2 → (let a := (fe2.rd (.v 2) l + fe2.rd .zero l).toNat
      a = 32736 + 16 * l ∧ a % 4 = 0 ∧ fe2.tm.inScratch a 4 = true ∧ fe2.scHurt 1 a 4 = false ∧ fe2.isFull 1 a = decide (l = 0)))
    ∧ (fe true).isFull 1 32752 = true ∧ (fe false).isFull 1 32752 = false
    ∧ (let s := (fe true).updTeam 1 fun t => { t with scPoison := [32752] }
      Issuing s ∧ s.isFull 1 32752 = true ∧ s.scHurt 1 32752 4 = true) := by unfold Issuing Drawn; decide +kernel
/-- A template-shared block covers the end of the scratchpad. -/
def cpB : State :=
  { (cp 3).updTeam 1 fun t => { t with blocks := [(31744, 1024, 5)] } with tmpls := [(5, { ctx := 1, launch := 0, replicas := [0] })] }
theorem witness_CopyCommands_blocks :
    (∀ k ∈ [CopyKind.obS, .obO],
      let s := withOp (cp 3) (.copy (copyOp k))
      (s.blocksFirst 0 1 (s.copyRun 0 (opOf (.copy (copyOp k))) (copyOp k)).1).isNone = true)
    ∧ (let s := withOp cpB (.copy (copyOp .obO))
      let r := s.copyRun 0 (opOf (.copy (copyOp .obO))) (copyOp .obO)
      (31744, 1024, 5) ∈ (s.team 1).blocks ∧ r.2 = .done ∧ s.ownMiss (opOf (.copy (copyOp .obO))) r.1 = none ∧ (31744, 1024, 5) ∉ (r.1.team 1).blocks) := by
  decide +kernel
/-- Four matrix groups of a quad, in slots 0 to 3 of core 0. -/
def mxs (n : Nat) : State :=
  let s := mx.updGroup 0 0 fun g => { g with role := 1 }
  s.updCore 0 fun c => { c with slots := (List.range n).map fun k => (k, { s.g with index := k, quad := k, alloc := s.g.alloc + k }) }
def mcs (n : Nat) (zero : Bool) : MatCmd :=
  { zero, blk := List.replicate 8 0, groups := (List.range n).map fun k => (k, 0), sections := List.range n, entries := List.replicate n 0, started := true }
/-- Whether the command stands in the queue with its groups in their slots, first, and without a fault. -/
def mcReady (n : Nat) (zero : Bool) : Bool :=
  let m := mcs n zero
  let s := withOp (mxs n) (.matrix m)
  s.matOp? 0 9 == some (opOf (.matrix m), m) && m.groups.contains (0, 0) && decide (m.groups.map (·.1)).Nodup && !m.bad
    && m.groups.all (fun p => (s.core 0).tag p.1 == p.2 && (s.group? 0 p.1).any fun g => !g.saved && g.saveRec.isNone && g.taint.isEmpty)
    && (s.core 0).matFirst (opOf (.matrix m)) m && (zero || (s.matFault 0 (opOf (.matrix m)) m m.steps).isNone)
/-- An MZERO of two tile groups whose partner has offered 100 registers. -/
def mcWait : MatCmd := { mcs 2 true with started := false }
def mxOffer : State := (withOp (mxs 2) (.matrix mcWait)).updGroup 0 1 fun g => { g with offers := [{ first := 0, n := 100, op := 7 }] }
theorem witness_MatrixCommands_groups :
    (mxs 2).tileGroups 3 1 = some [((0, 0), 0), ((1, 0), 1)] ∧ (mxs 4).tileGroups 15 2 = some [((0, 0), 0), ((1, 0), 1), ((2, 0), 2), ((3, 0), 3)]
    ∧ Issuing (mxs 2) ∧ Drawn (mxs 2) ∧ (mxs 2).active ctl = 1 ∧ ((mxs 2).core 0).owedV 0 = [] ∧ (mxs 2).g.spilled = []
    ∧ (∀ q ∈ [0, 1], (((mxs 2).core 0).matOps.filter fun x => x.2.sections.contains q).length < 2)
    ∧ (∀ n ∈ [1, 2, 4], mcReady n true = true ∧ mcReady n false = true)
    ∧ mxOffer.matReady 0 (opOf (.matrix mcWait)) mcWait = true
    ∧ (mxOffer.group 0 1).offers = [{ first := 0, n := 100, op := 7 }]
    ∧ 100 ∈ mxOffer.matRegs (opOf (.matrix mcWait)) mcWait := by
  unfold Issuing Drawn; decide +kernel
/-- The group of `fz` without its index register; with a range of 15 bytes; that would owe 129 items; of the prologue's first group, with
one item; with a flag set. -/
def fzBad : List State :=
  [st allOnes32 [] [(12, 0x00000000000A0001)], st allOnes32 [(5, .a 3 4)] [(8, 0x0000000F00000010)], st allOnes32 [(5, .a 3 4)] [(12, 129)],
    fz.updTeam 1 fun t => { t with prologue := true }, fz.updGroup 0 0 fun g => { g with flags := lset g.flags 2 fun f => { f with count := 1 } }]
theorem aget_all {α : Type} (e : α) (l : List Nat) {n : Nat} (h : n ∈ l) : aget (l.map fun k => (k, e)) n = some e := by
  induction l with
  | nil => simp at h
  | cons k r ih => by_cases hk : k = n <;> simp_all [aget]; exact ih (h.resolve_left fun c => hk c.symm)
theorem full_of (e : Tmpl) (b : Nat) : firstFree ((List.range b).map fun k => (k, e)) b = none := by
  simp only [firstFree, List.find?_eq_none, List.mem_range]
  intro n h
  rw [aget_all e _ (List.mem_range.mpr h)]; simp
/-- A full table of templates has no free entry. -/
@[irreducible] def fullT : List (Nat × Tmpl) := (List.range 4096).map fun k => (k, {})
theorem fullTable : firstFree fullT 4096 = none := by unfold fullT; exact full_of _ _
theorem witness_TemplateResults_refused :
    (st 1 [] []).g.present ≠ (st 1 [] []).active ctl ∧ (∀ s ∈ fzBad, s.active ctl = allOnes32 ∧ s.g.present = allOnes32)
    ∧ (fzBad.map fun s => ((aget s.g.regs 5).isNone, (rangesOf ((blockRegs 1).map s.srd)).any fun r => r.2 % 16 != 0,
      decide (128 < bits (((blockRegs 1).map s.srd).getD 4 0).toNat 15 0), s.tm.prologue && s.g.index == 0, s.g.flags.any fun f => f.isSet (s.now 0)))
      = [(true, false, false, false, false), (false, true, false, false, false), (false, false, true, false, false),
        (false, false, false, true, false), (false, false, false, false, true)]
    ∧ (let s := fz.updGroup 0 0 fun g => { g with tdepth := 4 }; s.g.tdepth = 4 ∧ firstFree s.tmpls 4096 = some 0)
    ∧ (let s : State := { fz with tmpls := [(0, { pages := Config.backingPages, replicas := [0] })] }
      Config.backingPages ≤ s.backing 0 ∧ firstFree s.tmpls 4096 = some 1)
    ∧ (∃ s : State, s = { fz with tmpls := fullT } ∧ firstFree s.tmpls 4096 = none) := by
  refine ⟨?_, ?_, ?_, ?_, ?_, ⟨{ fz with tmpls := fullT }, rfl, fullTable⟩⟩ <;> decide +kernel
/-- A generation of barrier 2 that has as many arrivals as are expected now. -/
theorem witness_BarrierResults_exp :
    ((br 1 3 1 [(0, 0)]).rd (.v 2) 0).toNat = 1 ∧ 1 ≤ ((br 1 3 1 [(0, 0)]).barrier 1 2).a ∧ ¬ 1 ≤ ((br 1 2 0 []).barrier 1 2).a := by decide +kernel
/-- Lane 0 is about to issue IADD v2, v2, 1, and v2 is spilled. -/
def sf : State := (State.reset.withFetchWord 64 0x01F0080400180001).updGroup 0 0 fun g => { g with spilled := [(2, .u 9)] }
/-- A logged word of a group: its load's address is misaligned; it stores to a template-shared block; its page is in migration. -/
def lgOf (i : Instr) (g : Group) : LogEntry := { lg with instr := i, group := g }
def lgIn (s : State) (e : LogEntry) : State := s.updCore 0 fun c => { c with opLog := [e] }
def lgRun (s : State) (e : LogEntry) : State :=
  let s := lgIn s e
  let u := s.updCore 0 fun x => { x with opLog := x.opLog.erase e, slots := aset x.slots 0 (e.actor (some s.g)), tags := aset x.tags 0 0 }
  rerun e.instr { u with cur := { e.cur with replay := true, soft := false, first := s.now 0, last := s.now 0 } }
def ldOdd : LogEntry := lgOf (.ld ctl (.v 5) (.s 4) .zero .b32 false .n false) (st 1 [] [(4, 0x2001)]).g
def ldOk : LogEntry := lgOf (.ld ctl (.v 5) (.s 4) .zero .b32 false .n false) (st 1 [] [(4, 0x2000)]).g
theorem witness_WaitsComeToTheirEnd_more :
    aget sf.g.spilled 2 = some (.u 9) ∧ sf.wantsBack 0 sf.g 2 = true ∧ sf.lacks 0 [(Shaped.u 9).code] = (false, false)
    ∧ sf.olderWaited 0 sf.g.alloc = (false, false) ∧ sf.late (sf.spiller 0 0) .load (sf.spillAt 0 0 2) 128 = false
    ∧ sl.wantsBack 0 sl.g 7 = false
    ∧ sl.spillLate 0 0 (sl.spillable 0 0 sl.g) = false ∧ ({ sl with migrating := [0] } : State).spillLate 0 0 (sl.spillable 0 0 sl.g) = true
    ∧ (sl.blocksFirst 0 1 sl).isNone = true
    ∧ (let r := lgRun (two 1 2) ldOdd; (r.cur.stall, r.cur.hold, r.cur.trap.map (·.cause), (r.group? 0 0).map (·.alloc)) = (false, false, some 7, some (two 1 2).g.alloc)
      ∧ (r.core 0).opLog = [])
    ∧ (let s : State := { two 1 2 with migrating := [0x2000] }; let r := lgRun s ldOk; r.cur.stall = true ∨ 0 < (r.core 0).opLog.length) := by
  decide +kernel
/-- A replay that meets the migrating page again, where 64 other words are logged. -/
theorem witness_WaitsComeToTheirEnd_hold :
    (let s : State := ({ st 1 [] [(4, 0x2000)] with migrating := [0x2000] } : State).updCore 0 fun c => { c with opLog := List.replicate 64 ldOk }
    let r := rerun ldOk.instr { s with cur := { ldOk.cur with replay := true, soft := false } }
    r.cur.stall = false ∧ r.cur.hold = true ∧ (r.core 0).opLog.length = 64) := by decide +kernel
theorem witness_RecordsHostsAndPages_owed :
    pg.pageOwed 0x2000 = false
    ∧ (withOp pg (.release [{ lane := 0, pa := 0x2010, va := 0x2010, bytes := [1, 2, 3, 4] }] [] [] .dev false)).pageOwed 0x2000 = true := by decide +kernel
theorem witness_WindowAndContexts_later :
    (∃ z ∈ ({ two 1 2 with later := [.msi 1 0] } : State).later, z.isOf 1 = true) ∧ (two 1 2).later = [] := by decide +kernel
/-- `desc1` with PEERCTX 1. -/
def desc2 : List Byte := desc1.zipIdx.map fun b => if b.2 == 37 then 1 else b.1
theorem witness_FabricMessages_ports :
    ((two 1 2).port 1).up = true ∧ ((two 1 2).port 1).retries = 0
    ∧ (let s := (two 1 2).updPort 1 fun p => { p with up := false }; (s.port 1).up = false)
    ∧ (let s := (two 1 2).updPort 1 fun p => { p with retries := 16 }; (s.port 1).up = true ∧ (s.port 1).retries ≠ 0 ∧ ¬ (s.port 1).retries < 16)
    ∧ (two 1 2).jams = false
    ∧ (descFields desc2).peerctx = 1 ∧ (two 1 2).descOk 1 desc2 = true ∧ desc2.length = 256 ∧ (descFields desc2).templated = false ∧ (descFields desc2).det = false
    ∧ teamSound { seq := 1, launch := 5, index := 0, queue := 3, fetch := { desc := desc2 } } = true
    ∧ ((two 1 2).ctx 1).inUse = true ∧ ((two 1 2).ctx 1).closing = false ∧ (two 1 2).mgmt.stopped = false
    ∧ (let s := two 1 2
      let r : Launch := { queue := 3, ctx := 1, desc := descFields desc2, raw := desc2, todo := [(0, 0)], total := 1
                          seed := s.time.setWidth 32, waiting := s.time.toNat, foreign := some (1, 5, 0) }
      (State.coresForNext { s with serial := s.serial + 1, launches := aset s.launches s.serial r } s.serial (.team 0 0)).isSome = true) := by
  decide +kernel
theorem witness_ErrorsAndWear_links :
    (let m : Mgmt := { qt.mgmt with linkFails := [(2, 3)] }; 3 ≤ (aget m.linkFails 2).getD 0 ∧ (aget m.linkFails 1).getD 0 < 3)
    ∧ (List.replicate 63 0).length ≠ 64 ∧ (∃ t ∈ List.replicate 64 110, 110 ≤ t) ∧ (∀ t ∈ List.replicate 64 109, t < 110)
    ∧ (∃ i, i < 16 ∧ 95 ≤ (List.replicate 64 95).getD (16 * 3 + i) 0) ∧ qt.time.toNat % 100 = 0 ∧ ({ qt with time := 99 } : State).time.toNat % 100 ≠ 0
    ∧ 0 ≤ Config.spareLanes ∧ Config.spareLanes < ((List.replicate (Config.spareLanes + 1) (2, 0)).filter fun p : Nat × Nat => p.1 == 2).length
    ∧ (let k : Stack := { errs := [(4, 2, [])], dropped := List.range 12 |>.map (· + 5) }; k.failing 4 0 = true ∧ k.dropped.length + k.pendingDrop.length = 12) := by
  refine ⟨by decide, by decide, ⟨110, by decide, by decide⟩, by decide, ⟨0, by decide, by decide⟩, by decide +kernel, by decide +kernel, Nat.zero_le _, by simp, by decide +kernel⟩
theorem witness_ManagementServices_boot :
    (let m : Mgmt := qt.mgmt
    (m.slotSigned.getD m.marked false = true ∧ m.fused ≤ m.slotVersions.getD m.marked 0)
    ∧ (let m : Mgmt := { m with slotSigned := [false, true] }
      m.slotSigned.getD m.marked false = false ∧ m.slotSigned.getD (1 - m.marked) false = true ∧ m.fused ≤ m.slotVersions.getD (1 - m.marked) 0)
    ∧ (let m : Mgmt := { m with slotSigned := [false, false] }; m.slotSigned.getD m.marked false = false ∧ m.slotSigned.getD (1 - m.marked) false = false)
    ∧ (let m : Mgmt := { m with pending := some 4, mbox := [0x10, 0xE0, 0, 1] }
      m.pending = some 4 ∧ m.request = some [0x10, 0xE0, 0, 1] ∧ m.request.bind spdmCode = some 0xE0)
    ∧ (let m : Mgmt := { m with pending := some 4, mbox := [1, 2, 3, 4] }; m.request.bind spdmCode = none ∧ m.pending ≠ none)
    ∧ m.readings[63]? = some 0 ∧ m.readings.length ≤ 64 ∧ 0x85 ∉ spdmCodes ∧ 0xE0 ∈ spdmCodes ∧ m.pending = none)
    ∧ (let n := Config.resetFails qt.freeCtr; (n < 2 ∨ 6 < n) ∨ 2 ≤ n ∧ n ≤ 6) := by
  refine ⟨by decide +kernel, ?_⟩
  omega
/-- R402: an LDA goes past a STREL that has still to write other bytes, and waits where it would read what the STREL writes; a store waits. -/
theorem test_lda_past_strel :
    (let w (va : Nat) : RelWrite := { lane := 0, pa := va, va, bytes := [1, 0, 0, 0] }
    let lda : Instr := .lda ctl (.v 5) .zero .zero false .dev false
    qt.passes lda 1 [w 8] = true ∧ qt.passes lda 1 [w 8, w 0x5000] = false ∧ qt.passes lda 2 [w 0] = true
    ∧ qt.passes (.strel ctl .zero .zero (.v 5) false .dev false false) 1 [w 8] = false) := by
  decide +kernel

end Sys2Proof.Tests
end

section
/-! The clock (R1, R345): what each part of a step does to the phase of the tick and to %time. -/
namespace Sys2Proof.Machine

/-- The clock stands from s to t, or goes on to the tick's next phase, or ends the tick and %time rises (R1, R345). -/
def ClockMoves (s t : State) : Prop :=
  (t.time = s.time ∧ t.phase = s.phase)
  ∨ (s.phase < 10 ∧ t.time = s.time ∧ t.phase = s.phase + 1)
  ∨ (s.phase = 10 ∧ t.time = s.time + 1 ∧ t.phase = 0)

theorem ClockMoves.clockInv {s t : State} (h : ClockMoves s t) (hs : ClockInv s) : ClockInv t := by
  unfold ClockInv at hs ⊢
  obtain ⟨-, hp⟩ | ⟨hl, -, hp⟩ | ⟨-, -, hp⟩ := h <;> omega

theorem ClockMoves.stands_or_rises {s t : State} (h : ClockMoves s t) :
    (t.time = s.time ∧ (t.phase = s.phase ∨ t.phase = s.phase + 1))
      ∨ (t.time = s.time + 1 ∧ s.phase = 10 ∧ t.phase = 0) := by
  obtain ⟨ht, hp⟩ | ⟨-, ht, hp⟩ | ⟨hl, ht, hp⟩ := h
  · exact .inl ⟨ht, .inl hp⟩
  · exact .inl ⟨ht, .inr hp⟩
  · exact .inr ⟨ht, hl, hp⟩

/-- An act of the device moves no clock, whatever it leaves. -/
theorem clockMoves_inTime (s t : State) : ClockMoves s (s.inTime t) := .inl ⟨rfl, rfl⟩

/-- A step of the clock is the next phase, or after the last one the end of the tick. -/
theorem clockMoves_advance {s : State} (hs : ClockInv s) : ClockMoves s s.advance := by
  unfold ClockInv at hs
  simp only [State.advance]
  split
  next hp => exact .inr (.inl ⟨hp, rfl, rfl⟩)
  next hp => exact .inr (.inr ⟨by omega, rfl, rfl⟩)

/-- What the part does of itself is an act, which keeps the clock, or a step of the clock (log 19). -/
theorem onward_cases (s : State) :
    (∃ t, s.onward = s.inTime t) ∨ ∃ n, s.onward = { s.advance with freeCtr := n } := by
  simp only [State.onward]
  split
  · exact .inr ⟨_, rfl⟩
  · split
    next t _ => exact .inl ⟨t, rfl⟩
    next =>
      split
      next t _ => exact .inl ⟨t, rfl⟩
      next =>
        split
        · exact .inr ⟨_, rfl⟩
        · split
          next t _ => exact .inl ⟨_, rfl⟩
          next => exact .inr ⟨_, rfl⟩

theorem clockMoves_onward {s : State} (hs : ClockInv s) : ClockMoves s s.onward := by
  obtain ⟨t, e⟩ | ⟨n, e⟩ := onward_cases s
  · exact e ▸ clockMoves_inTime s t
  · exact e ▸ (clockMoves_advance hs : ClockMoves s { s.advance with freeCtr := n })

/-- Every answer of a step: what the part does of itself, or with an event read an event that is dropped, one that is taken in the
time it came, or a reset, which alone may set the clock (R345, log 1). -/
theorem step_cases {s t : State} (h : step s = .next t) :
    t = s.onward ∨ ∃ i r, s.inbox = i :: r ∧ (t = { s with inbox := r }
      ∨ ∃ u, exec i { s with inbox := r } = .next u ∧ t = if isReset i then u else s.inTime u) := by
  unfold step at h
  split at h
  next =>
    split at h
    · exact .inl (Host.Outcome.next.inj h).symm
    · nomatch h
  next i r hbox =>
    split at h
    · nomatch h
    · split at h
      · exact .inl (Host.Outcome.next.inj h).symm
      · refine .inr ⟨i, r, hbox, ?_⟩
        simp only at h
        split at h
        · exact .inl (Host.Outcome.next.inj h).symm
        · split at h
          next u hu => exact .inr ⟨u, hu, (Host.Outcome.next.inj h).symm⟩
          next => nomatch h
          next => nomatch h

theorem isReset_iff (i : Instr) : isReset i = true ↔ (∃ f, i = .bringUp f) ∨ i = .warmReset := by
  constructor
  · intro h
    unfold isReset at h
    split at h
    next f => exact .inl ⟨f, rfl⟩
    next => exact .inr rfl
    next => nomatch h
  · rintro (⟨f, rfl⟩ | rfl) <;> rfl

@[simp] theorem State.brought_phase (s : State) (n : Nat) (d : Option Fatal) (r : Nat) : (s.brought n d r).phase = 0 := rfl
/-- For any `m`, so that no proof about the clock compares event logs of 65,536 records (R394). -/
theorem State.withMgmt_phase (s : State) (m : Mgmt) : ({ s with mgmt := m } : State).phase = s.phase := rfl
@[simp] theorem State.logEvent_phase (s : State) (source code : Nat) (detail : List Nat) :
    (s.logEvent source code detail).phase = s.phase := State.withMgmt_phase s _
@[simp] theorem State.stuckAt_phase (s : State) (n : Nat) : (s.stuckAt n).phase = s.phase :=
  (State.withMgmt_phase (s.logEvent 5 n []) _).trans (State.logEvent_phase s 5 n [])

/-- Bring-up leaves the package as it is, or begins the clock again (R391). -/
theorem execBringUp_phase {f : Option Nat} {s u : State} (h : execBringUp f s = .next u) : u = s ∨ u.phase = 0 := by
  unfold execBringUp at h
  obtain rfl := Host.Outcome.next.inj h
  split
  · exact .inl rfl
  · right; split <;> simp

/-- So does a warm reset (R392). -/
theorem execWarmReset_phase {s u : State} (h : execWarmReset s = .next u) : u = s ∨ u.phase = 0 := by
  unfold execWarmReset at h
  obtain rfl := Host.Outcome.next.inj h
  split
  · exact .inl rfl
  · right; simp only; split <;> simp

theorem exec_reset_clockInv {i : Instr} {s u : State} (hi : isReset i = true) (hs : ClockInv s) (h : exec i s = .next u) :
    ClockInv u := by
  have begins (hu : u = s ∨ u.phase = 0) : ClockInv u := by
    obtain rfl | hu := hu
    · exact hs
    · rw [ClockInv, hu]; exact Nat.succ_pos 10
  obtain ⟨f, rfl⟩ | rfl := (isReset_iff i).mp hi
  · exact begins (execBringUp_phase h)
  · exact begins (execWarmReset_phase h)

/-- A step moves the clock on, or takes a reset. -/
theorem step_clock {s t : State} (hs : ClockInv s) (h : step s = .next t) :
    ClockMoves s t ∨ ∃ i r, s.inbox = i :: r ∧ isReset i = true ∧ ClockInv t := by
  obtain rfl | ⟨i, r, hbox, rfl | ⟨u, hu, rfl⟩⟩ := step_cases h
  · exact .inl (clockMoves_onward hs)
  · exact .inl (.inl ⟨rfl, rfl⟩)
  · cases hi : isReset i with
    | true => exact .inr ⟨i, r, hbox, hi, exec_reset_clockInv (s := { s with inbox := r }) hi hs hu⟩
    | false => exact .inl (clockMoves_inTime s u)

/-- Settles O56: the step lemma `step_clock`, a reset being the one way for the clock to begin again. -/
theorem clockInvariant : Obligations.ClockInvariant := by
  intro s t hs h
  obtain hm | ⟨i, r, hbox, hi, ht⟩ := step_clock hs h
  · exact ⟨hm.clockInv hs, fun _ => hm.stands_or_rises⟩
  · exact ⟨ht, fun hno => absurd hi (by simp [hno i r hbox])⟩

end Sys2Proof.Machine
end

section
/-! Homes (R5, R179, R195): little-endian words, and what a write at a home leaves of each die. -/
namespace Sys2Proof.Machine

@[simp] theorem leBytes_length (n v : Nat) : (leBytes n v).length = n := by simp [leBytes]

theorem leBytes_succ (n v : Nat) : leBytes (n + 1) v = BitVec.ofNat 8 v :: leBytes n (v >>> 8) := by
  simp [leBytes, List.range_succ_eq_map, ← Nat.shiftRight_add, Nat.mul_add, Nat.add_comm]

/-- The bytes of a number, read back little-endian, are its low bits (R5). -/
theorem leNat_leBytes (n v : Nat) : leNat (leBytes n v) = v % 2 ^ (8 * n) := by
  induction n generalizing v with
  | zero => simp [leBytes, leNat, Nat.mod_one]
  | succ n ih =>
    calc leNat (leBytes (n + 1) v)
        = v % 2 ^ 8 + 2 ^ 8 * leNat (leBytes n (v >>> 8)) := by simp [leBytes_succ, leNat]
      _ = v % 2 ^ 8 + 2 ^ 8 * (v / 2 ^ 8 % 2 ^ (8 * n)) := by rw [ih, Nat.shiftRight_eq_div_pow]
      _ = v % 2 ^ (8 * (n + 1)) := by rw [← Nat.mod_mul, ← Nat.pow_add, Nat.mul_succ, Nat.add_comm]

/-- A table whose values are changed, each by its number, keeps its numbers. -/
theorem aget_map_value {α β : Type} (l : List (Nat × α)) (f : Nat × α → β) (n : Nat) :
    aget (l.map fun p => (p.1, f p)) n = (aget l n).map fun v => f (n, v) := by
  induction l with
  | nil => rfl
  | cons p r ih =>
    obtain ⟨k, v⟩ := p
    by_cases hk : k = n
    · subst hk; simp [aget]
    · simpa [aget, hk] using ih

theorem mem_keys_of_aget {α : Type} {l : List (Nat × α)} {n : Nat} {v : α} (h : aget l n = some v) : n ∈ l.map (·.1) := by
  induction l with
  | nil => nomatch h
  | cons p r ih =>
    obtain ⟨k, w⟩ := p
    by_cases hk : k = n
    · simp [hk]
    · exact List.mem_cons_of_mem _ (ih (by simpa [aget, hk] using h))

/-- The lines that a die caches, that a write of n bytes at pa reaches, and that are not yet among its changed lines. -/
def Die.newlyStale (d : Die) (pa n : Nat) : List Nat :=
  (d.copies.map (·.1)).filter fun l => decide (lineOf pa ≤ l) && decide (l < pa + n) && !d.stale.contains l

/-- The die with those lines among its changed ones. -/
def Die.noteStale (d : Die) (pa n : Nat) : Die := { d with stale := d.stale ++ d.newlyStale pa n }

theorem State.homeWr_dies (s : State) (pa : Nat) (bs : List Byte) :
    (s.homeWr pa bs).dies = s.dies.map fun d => (d.1, d.2.noteStale pa bs.length) := by
  refine List.map_congr_left fun d _ => ?_
  change (if (d.2.newlyStale pa bs.length).isEmpty then d else (d.1, d.2.noteStale pa bs.length)) = _
  split
  next hnone => rw [Die.noteStale, List.isEmpty_iff.mp hnone, List.append_nil]
  next => rfl

/-- A die after a write at a home: what it caches stands, and the lines written wait for its next wide acquire (R192, R195). -/
theorem State.die_homeWr (s : State) (pa : Nat) (bs : List Byte) (x : Nat) :
    (s.homeWr pa bs).die x = (s.die x).noteStale pa bs.length := by
  rw [State.die, State.homeWr_dies, aget_map_value s.dies fun d => d.2.noteStale pa bs.length, State.die]
  cases aget s.dies x with
  | none => rfl
  | some d => rfl

/-- A cached line that a write at its home reaches is among the die's changed lines. -/
theorem mem_stale_die_homeWr {s : State} {pa x line : Nat} {bs : List Byte} {c : Copy} (hc : aget (s.die x).copies line = some c)
    (hlo : lineOf pa ≤ line) (hhi : line < pa + bs.length) : line ∈ ((s.homeWr pa bs).die x).stale := by
  rw [State.die_homeWr]
  by_cases hold : line ∈ (s.die x).stale
  · exact List.mem_append_left _ hold
  · refine List.mem_append_right _ (List.mem_filter.mpr ⟨mem_keys_of_aget hc, ?_⟩)
    simp [hlo, hhi, hold]

theorem lineWords_homeWr_of_cached {s : State} {x line : Nat} {c : Copy} (hc : aget (s.die x).copies line = some c) (pa : Nat)
    (bs : List Byte) : (s.homeWr pa bs).lineWords x line = s.lineWords x line := by
  simp [State.lineWords, State.die_homeWr, Die.noteStale, hc]

theorem homeRd_homeWr_same {s : State} (hm : Memory.wf s.mem = true) (pa : Nat) (bs : List Byte) :
    (s.homeWr pa bs).homeRd pa bs.length = bs := memRd_memWr s.mem pa bs hm

theorem memGet_homeWr_outside {s : State} (hm : Memory.wf s.mem = true) {pa a : Nat} {bs : List Byte}
    (ha : a < pa ∨ pa + bs.length ≤ a) : memGet (s.homeWr pa bs).mem a = memGet s.mem a := by
  rw [State.homeWr_mem, memGet_memWr s.mem pa a bs hm, if_neg (by omega)]

/-- Settles O58: reads of cells after writes (`memRd_memWr`, `memGet_memWr`), and what a write leaves of a die (`State.die_homeWr`). -/
theorem homeMemory : Obligations.HomeMemory := by
  intro s pa bs hm t
  refine ⟨memWr_wf s.mem pa bs hm, homeRd_homeWr_same hm pa bs, fun a ha => memGet_homeWr_outside hm ha,
    ?littleEndian, ?caches, ?cachedLine, rfl⟩
  case littleEndian =>
    intro v n _ hbs
    have hread := homeRd_homeWr_same hm pa bs
    rw [hbs, leBytes_length] at hread
    rw [show t = s.homeWr pa (leBytes n v.toNat) from hbs ▸ rfl, hread, leNat_leBytes]
  case caches =>
    intro x
    rw [State.die_homeWr]
    exact ⟨rfl, rfl, rfl⟩
  case cachedLine =>
    intro x line c hc
    exact ⟨lineWords_homeWr_of_cached hc pa bs, mem_stale_die_homeWr hc⟩

end Sys2Proof.Machine
end

section
/-! The package after reset: no table lists an entry, so every item is the default of its kind (R391). -/
namespace Sys2Proof.Machine

@[simp] theorem State.reset_core (c : Nat) : State.reset.core c = {} := rfl
@[simp] theorem State.reset_die (x : Nat) : State.reset.die x = {} := rfl
@[simp] theorem State.reset_queue (q : Nat) : State.reset.queue q = {} := rfl
@[simp] theorem State.reset_ctx (c : Nat) : State.reset.ctx c = {} := rfl
@[simp] theorem State.reset_port (p : Nat) : State.reset.port p = {} := rfl
@[simp] theorem State.reset_pcore (p : Nat) : State.reset.pcore p = {} := rfl
@[simp] theorem State.reset_group? (c k : Nat) : State.reset.group? c k = none := rfl
@[simp] theorem aget_nil {α : Type} (n : Nat) : aget ([] : List (Nat × α)) n = none := rfl
@[simp] theorem memGet_nil (a : Nat) : memGet [] a = 0 := rfl

theorem clockInv_reset : ClockInv State.reset := Nat.succ_pos 10
theorem plain_reset : State.reset.plain := ⟨rfl, fun _ => by simp⟩
theorem keyedCores_reset : KeyedCores State.reset := ⟨List.Pairwise.nil, fun _ => by simp [Keyed]⟩

/-- Settles O57: each part is the default of its kind. -/
theorem resetState : Obligations.ResetState := by
  have mem_zero (a : Nat) : memGet State.reset.mem a = 0 := memGet_nil a
  have no_team (n : Nat) : aget State.reset.teams n = none := aget_nil n
  have no_launch (n : Nat) : aget State.reset.launches n = none := aget_nil n
  refine ⟨clockInv_reset, rfl, rfl, rfl, rfl, rfl, rfl, rfl, rfl, mem_zero, rfl, rfl, plain_reset, keyedCores_reset,
    State.reset_group?, no_team, no_launch, ?queues, ?contexts, ?dies, rfl, rfl, rfl, ?counters, ?scores, ?ports⟩
  all_goals simp

end Sys2Proof.Machine
end

section
/-! Words and their instructions (R46, R47, R56, R62 to R69): what an encoded word decodes to, and what a decoded word encodes. -/
namespace Sys2Proof.Laws.Encoding

/-- `Statement` for every instruction: one lemma per constructor, in the order of the table. -/
theorem statement (i : Instr) : Statement i :=
  Instr.casesOn (motive := Statement) i nop iaddRegisters iaddImmediate isub imulRegisters imulImmediate imulh imad imadw idiv
    irem imin imax iabs isad shlRegisters shlImmediate shrRegisters shrImmediate sraRegisters sraImmediate shf rot andRegisters
    andImmediate orRegisters orImmediate xorRegisters xorImmediate bool3 popc clz ctz brev bfx bfi bshuf leaRegisters leaImmediate
    mov movi sel saddRegisters saddImmediate ssub smul smulh sandRegisters sandImmediate sor sxor sshlRegisters sshlImmediate
    sshrRegisters sshrImmediate ssra smin smax sset ssel smov smovi slea isetRegisters isetImmediate plop p2v v2p vshape vwiden
    shfl census gred matchLanes vbcast vlane bra brx call callx ret exit jset jarr jdrop jread waitf sleep faddRegisters
    faddImmediate fsub fmulRegisters fmulImmediate ffma fmin fmax fsetRegisters fsetImmediate fclass frnd fscale frcp frsq fsqrt
    fexp2 flog2 fsin fcos ftanh hadd2 hsub2 hmul2 hfma2 hmin2 hmax2 hset2 cvt pack unpack dp2h dp4 dp8 dp16 ld st lda strel lds
    sts sld sst atom atoms red fence publish pref clean inval feset feclr fewait tsrset cpyin cpyout cpyobG cpyobS cpyobO cpyred
    cpypf cpycan obres obrel obput obget mzero mready mloop freeze stamp spawn tdrop tinfo barArv barArr barExp racq rpub rtake
    rdone send fget dalloc dfree live trap bkpt hcall qsig srd swr ipf ipin iunpin halfNopLow halfIadd halfIsub halfImul
    halfIminI32 halfImaxI32 halfIminN32 halfImaxN32 halfShl halfShr halfSra halfAnd halfOr halfXor halfMov halfNopHigh halfFadd
    halfFsub halfFmul halfFmin halfFmax halfHadd2F16 halfHsub2F16 halfHmul2F16 halfHmin2F16 halfHmax2F16 halfHadd2B16 halfHsub2B16
    halfHmul2B16 halfHmin2B16 halfHmax2B16 clauseHeader classLCompletion sleepEnd registerSpill feGrant operandLogReplay
    differenceRecord forcedPublication hostWrite doorbell queueEnable queueDrain drainComplete teardown reset registerWrite launch
    signal waitv waitvPoll waittime order stampts qnop teamAdmission preemptionRequest preemptionDeadline teamRestore teamEnd
    teamRetirement completionSignal itemCreation scratchpadCopyFault binTimerExpiry binLaunch copyCompletion copyFault
    matrixCommandStart matrixCommandCompletion matrixFault reservationFree ringGrant barrierWatchdog ringWatchdog feWatchdog halt
    resume capsel contextTeardown contextTeardownDone contextValidate shootdown shootdownDone migrationWindowReset pageMigration
    beaconTimer put getreq getdata ack nack team teamend beacon unknownMessage sendAckTimeout portDown dieLinkLoss
    pcieWindowRequest auditReexecution auditThirdRun suspicionHalving clusterSubstitution scrub bankDrop restripeRegion
    powerWindow fatalError bringUp warmReset mailboxRequest powerCap firmwareUpdate getVersion getCapabilities negotiateAlgorithms
    getDigests getCertificate challenge getMeasurements unsupportedRequest i3cSensorRead hostPreemption mainPowerLoss
    linkLevelRetry flitResend portRetrain spilledRegisterFetch

end Sys2Proof.Laws.Encoding
namespace Sys2Proof
open Laws.Encoding (statement)

/-! A full-format word and its fields. -/

/-- Two fields that touch are one (R47). -/
theorem fld_append {w : Nat} (x : BitVec w) {hi lo m n : Nat} (h : hi = lo + m) : fld x hi n ++ fld x lo m = fld x lo (n + m) := by
  ext i hi
  simp only [BitVec.getElem_append, fld, BitVec.getElem_extractLsb']
  split
  · rfl
  · congr 1; omega
theorem bit_bitOf {w : Nat} (x : BitVec w) (k : Nat) : bit (bitOf x k) = fld x k 1 := by
  ext i hi
  obtain rfl : i = 0 := by omega
  simp [bit, bitOf, fld]
/-- A word whose top bit is 0 is the word of its fields (R46, R47). -/
theorem Raw.join_split {w : W64} (h : bitOf w 63 = false) : (Raw.split w).join = w := by
  have top : (0#1 : BitVec 1) = fld w 63 1 := by rw [← bit_bitOf, h]; rfl
  simp only [Raw.split, Raw.join, top, bit_bitOf, fld_append]
  exact fld_all w
@[simp] theorem Raw.norm_op (r : Raw) : r.norm.op = r.op := by
  unfold Raw.norm; split <;> rfl

/-- An instruction that is no half and has operands has fields (R47). -/
theorem Instr.raw_isSome_or (i : Instr) : (i.raw.isSome || i.half.isSome || i.tab.isNone) = true := by
  cases i <;> rfl
theorem Instr.wf_of_tab {i : Instr} {t : OpTab} (h : i.tab = some t) : i.wf = t.wf := by
  unfold Instr.wf
  split
  · nomatch h
  · rw [h]
theorem encode_of_raw {i : Instr} {r : Raw} (h : i.raw = some r) : encode i = some r.join := by
  unfold encode
  split
  · nomatch h
  · rw [h]; rfl
/-- An encoded instruction is a header, or it has fields. -/
theorem encode_cases {i : Instr} {w : W64} (h : encode i = some w) :
    (∃ wait sa sb n, i = .clauseHeader wait sa sb n ∧ w = headerWord wait sa sb n) ∨ ∃ r, i.raw = some r ∧ w = r.join := by
  unfold encode at h
  split at h
  next wait sa sb n => exact .inl ⟨wait, sa, sb, n, rfl, (Option.some.inj h).symm⟩
  next => 
    obtain ⟨r, hr, rfl⟩ := Option.map_eq_some_iff.mp h
    exact .inr ⟨r, hr, rfl⟩

theorem headerWord_op (wait : BitVec 12) (sa sb : BitVec 4) (n : BitVec 5) : fld (headerWord wait sa sb n) 55 8 = 0xFF#8 := by
  simp [headerWord, fld_high]; rfl
/-- The header's word (R56). -/
theorem decode_headerWord {wait : BitVec 12} {sa sb : BitVec 4} {n : BitVec 5} (h : (Instr.clauseHeader wait sa sb n).wf = true) :
    decode (headerWord wait sa sb n) = .one (.clauseHeader wait sa sb n) := by
  have top : bitOf (headerWord wait sa sb n) 63 = false := by simp [headerWord, bitOf_high]; rfl
  have fields : fld (headerWord wait sa sb n) 43 12 = wait ∧ fld (headerWord wait sa sb n) 39 4 = sa
      ∧ fld (headerWord wait sa sb n) 35 4 = sb ∧ fld (headerWord wait sa sb n) 30 5 = n ∧ fld (headerWord wait sa sb n) 0 30 = 0#30 := by
    simp [headerWord, fld_low, fld_high, fld_all]
  obtain ⟨hw, ha, hb, hn, hz⟩ := fields
  simp [decode, top, headerWord_op, decodeHeader, hw, ha, hb, hn, hz, h]
/-- A word encoded from a well-formed instruction decodes to it (R46 to R57, R69). -/
theorem decode_of_encode {i : Instr} {w : W64} (hw : i.wf = true) (he : encode i = some w) : decode w = .one i := by
  obtain ⟨wait, sa, sb, n, rfl, rfl⟩ | ⟨r, hr, rfl⟩ := encode_cases he
  · exact decode_headerWord hw
  · obtain ⟨ho, hn, hp⟩ := statement i hw r hr
    exact decode_join hw hr ho hn hp

/-! What each form of a word decodes to (R46, R56, R62, R69). -/

/-- A word of a pair: two halves, or a trap. -/
theorem decodePair_cases (w : W64) : (∃ e, decodePair w = .bad e)
    ∨ ∃ lo hi, decodeHalf (fld w 1 31) = some lo ∧ decodeHalf (fld w 32 31) = some hi ∧ decodePair w = .pair lo hi (bitOf w 0) := by
  unfold decodePair
  simp only
  split
  · split
    next lo hi hlo hhi => exact .inr ⟨lo, hi, hlo, hhi, rfl⟩
    next => exact .inl ⟨_, rfl⟩
  · exact .inl ⟨_, rfl⟩
/-- A word with OP 0xFF: a header, or a trap. -/
theorem decodeHeader_cases (w : W64) : (∃ e, decodeHeader w = .bad e)
    ∨ ∃ wait sa sb n, (Instr.clauseHeader wait sa sb n).wf = true ∧ (fld w 43 12 = wait ∧ fld w 39 4 = sa ∧ fld w 35 4 = sb ∧ fld w 30 5 = n)
      ∧ fld w 0 30 = 0#30 ∧ decodeHeader w = .one (.clauseHeader wait sa sb n) := by
  unfold decodeHeader
  simp only
  split
  next h =>
    obtain ⟨hw, hz⟩ := Bool.and_eq_true_iff.mp h
    exact .inr ⟨_, _, _, _, hw, ⟨rfl, rfl, rfl, rfl⟩, eq_of_beq hz, rfl⟩
  next => exact .inl ⟨_, rfl⟩
/-- Any other full-format word: the instruction of its fields, or ILLOP. -/
theorem decodeFull_cases (w : W64) : decodeFull w = .bad .illop
    ∨ ∃ i, i.wf = true ∧ i.raw = some (Raw.split w).norm ∧ decodeFull w = .one i := by
  unfold decodeFull
  simp only
  split
  next i _ =>
    split
    next h =>
      obtain ⟨hw, hr⟩ := Bool.and_eq_true_iff.mp h
      exact .inr ⟨i, hw, eq_of_beq hr, rfl⟩
    next => exact .inl rfl
  next => exact .inl rfl
theorem decode_of_top {w : W64} (h : bitOf w 63 = true) : decode w = decodePair w := by simp [decode, h]
theorem decode_of_header {w : W64} (h : bitOf w 63 = false) (ho : fld w 55 8 = 0xFF#8) : decode w = decodeHeader w := by
  simp [decode, h, ho]
theorem decode_of_full {w : W64} (h : bitOf w 63 = false) (ho : fld w 55 8 ≠ 0xFF#8) : decode w = decodeFull w := by
  simp [decode, h, ho]

/-- What a word that decodes to one instruction is: the word of a header, or of fields that the instruction has. -/
theorem decode_one {w : W64} {i : Instr} (h : decode w = .one i) : bitOf w 63 = false ∧ i.wf = true ∧
    ((∃ wait sa sb n, i = .clauseHeader wait sa sb n ∧ w = headerWord wait sa sb n) ∨ i.raw = some (Raw.split w).norm) := by
  cases top : bitOf w 63 with
  | true =>
    rw [decode_of_top top] at h
    obtain ⟨e, he⟩ | ⟨lo, hi, -, -, he⟩ := decodePair_cases w <;> rw [he] at h <;> nomatch h
  | false =>
    by_cases op : fld w 55 8 = 0xFF#8
    · rw [decode_of_header top op] at h
      obtain ⟨e, he⟩ | ⟨wait, sa, sb, n, hw, ⟨rfl, rfl, rfl, rfl⟩, hz, he⟩ := decodeHeader_cases w
      · rw [he] at h; nomatch h
      · obtain rfl := Decoded.one.inj (he.symm.trans h)
        refine ⟨rfl, hw, .inl ⟨_, _, _, _, rfl, ?_⟩⟩
        have htop : (0#1 : BitVec 1) = fld w 63 1 := by rw [← bit_bitOf, top]; rfl
        simp only [headerWord, htop, ← op, ← hz, fld_append]
        exact (fld_all w).symm
    · rw [decode_of_full top op] at h
      obtain he | ⟨j, hw, hr, he⟩ := decodeFull_cases w
      · rw [he] at h; nomatch h
      · obtain rfl := Decoded.one.inj (he.symm.trans h)
        exact ⟨rfl, hw, .inr hr⟩
theorem encode_of_decode {w : W64} {i : Instr} (h : decode w = .one i) : i.wf = true ∧ encode i = some (Raw.split w).norm.join := by
  obtain ⟨top, hw, ⟨wait, sa, sb, n, rfl, rfl⟩ | hr⟩ := decode_one h
  · refine ⟨hw, ?_⟩
    have op : (Raw.split (headerWord wait sa sb n)).op = 0xFF#8 := headerWord_op wait sa sb n
    have hn : (Raw.split (headerWord wait sa sb n)).norm = Raw.split (headerWord wait sa sb n) := by simp [Raw.norm, op]
    rw [hn, Raw.join_split top]
    rfl
  · exact ⟨hw, encode_of_raw hr⟩

/-! Pairs (R62 to R66). -/

/-- The operand table of a half is that of its half-opcode: two no-operations, MOV, and the others, low halves in class I and high
halves in class F (R66). -/
theorem Instr.tab_of_half {i : Instr} {hop : BitVec 6} {h : Half} (hh : i.half = some (hop, h)) :
    i.tab = some (if hop = 0x01#6 then h.nop .i else if hop = 0x21#6 then h.nop .f
      else h.tab (if hop.toNat < 0x20 then .i else .f) (hop == 0x0F#6)) := by
  cases i <;> cases hh <;> rfl
theorem halfOf_half {i : Instr} {hop : BitVec 6} {h : Half} (hh : i.half = some (hop, h)) : halfOf hop h = some i := by
  cases i <;> cases hh <;> rfl
theorem Half.ok_of_tab {h : Half} {lc : Lat} {mov : Bool} (hw : (h.tab lc mov).wf = true) : h.da.ok = true ∧ h.sb.ok = true :=
  ⟨(OpTab.parts hw).d, (OpTab.parts hw).b⟩
theorem Half.ok_of_nop {h : Half} {lc : Lat} (hw : (h.nop lc).wf = true) : h.da.ok = true ∧ h.sb.ok = true := by
  have he : h = _ := eq_of_beq (OpTab.parts hw).ok
  rw [he]
  exact ⟨rfl, rfl⟩
/-- The specifiers of a well-formed half are ones that nine bits hold (R51, R63). -/
theorem Instr.half_ok {i : Instr} {hop : BitVec 6} {h : Half} (hw : i.wf = true) (hh : i.half = some (hop, h)) :
    h.da.ok = true ∧ h.sb.ok = true := by
  rw [Instr.wf_of_tab (Instr.tab_of_half hh)] at hw
  split at hw
  · exact Half.ok_of_nop hw
  · split at hw
    · exact Half.ok_of_nop hw
    · exact Half.ok_of_tab hw

theorem halfJoin_op (hop : BitVec 6) (h : Half) : fld (halfJoin hop h) 25 6 = hop := by
  simp [halfJoin, fld_high, fld_all]
theorem halfSplit_halfJoin (hop : BitVec 6) {h : Half} (hd : h.da.ok = true) (hs : h.sb.ok = true) : halfSplit (halfJoin hop h) = h := by
  obtain ⟨da, sb, pg, pn, ka, kb⟩ := h
  simp_all [halfSplit, halfJoin, fld_low, fld_high, fld_all, bitOf_low, bitOf_high]
theorem decodeHalf_halfJoin {i : Instr} {hop : BitVec 6} {h : Half} (hw : i.wf = true) (hh : i.half = some (hop, h)) :
    decodeHalf (halfJoin hop h) = some i := by
  obtain ⟨hd, hs⟩ := Instr.half_ok hw hh
  simp [decodeHalf, halfJoin_op, halfSplit_halfJoin hop hd hs, halfOf_half hh, hw, hh]
/-- A half that decodes is well formed, and its bits are the half's (R63, R64). -/
theorem decodeHalf_eq_some {x : BitVec 31} {i : Instr} (h : decodeHalf x = some i) :
    i.wf = true ∧ ∃ p, i.half = some p ∧ halfJoin p.1 p.2 = x := by
  unfold decodeHalf at h
  split at h
  next j hj =>
    split at h
    next hk =>
      obtain rfl := Option.some.inj h
      obtain ⟨hw, hp⟩ := Bool.and_eq_true_iff.mp hk
      obtain ⟨p, he, hx⟩ := (Option.any_eq_true _ _).mp hp
      exact ⟨hw, p, he, eq_of_beq hx⟩
    next => nomatch h
  next => nomatch h
theorem encodePair_eq_some {lo hi : Instr} {yld : Bool} {w : W64} (h : encodePair lo hi yld = some w) :
    ∃ l k, lo.half = some l ∧ hi.half = some k ∧ w = 1#1 ++ halfJoin k.1 k.2 ++ halfJoin l.1 l.2 ++ bit yld := by
  unfold encodePair at h
  split at h
  next l k hl hk => exact ⟨l, k, hl, hk, (Option.some.inj h).symm⟩
  next => nomatch h
/-- The word of two well-formed halves that keep R64 decodes to them (R62, R64). -/
theorem decode_encodePair {lo hi : Instr} {yld : Bool} {w : W64} (hl : lo.wf = true) (hh : hi.wf = true)
    (he : encodePair lo hi yld = some w) (hk : pairOk (fld w 1 31) (fld w 32 31) = true) : decode w = .pair lo hi yld := by
  obtain ⟨⟨lop, l⟩, ⟨hop, k⟩, hlo, hhi, rfl⟩ := encodePair_eq_some he
  generalize hw : (1#1 ++ halfJoin hop k ++ halfJoin lop l ++ bit yld : W64) = w at *
  have top : bitOf w 63 = true := by rw [← hw]; simp [bitOf_high]; rfl
  have hlow : fld w 1 31 = halfJoin lop l := by rw [← hw]; simp [fld_low, fld_high, fld_all]
  have hhigh : fld w 32 31 = halfJoin hop k := by rw [← hw]; simp [fld_low, fld_high, fld_all]
  have hy : bitOf w 0 = yld := by rw [← hw]; simp [bitOf_low]
  rw [decode_of_top top]
  rw [hlow, hhigh] at hk
  simp [decodePair, hlow, hhigh, hy, hk, decodeHalf_halfJoin hl hlo, decodeHalf_halfJoin hh hhi]
theorem decode_pair {lo hi : Instr} {yld : Bool} {w : W64} (h : decode w = .pair lo hi yld) :
    bitOf w 63 = true ∧ decodeHalf (fld w 1 31) = some lo ∧ decodeHalf (fld w 32 31) = some hi ∧ bitOf w 0 = yld := by
  cases top : bitOf w 63 with
  | true =>
    rw [decode_of_top top] at h
    obtain ⟨e, he⟩ | ⟨l, k, hl, hk, he⟩ := decodePair_cases w
    · rw [he] at h; nomatch h
    · obtain ⟨rfl, rfl, rfl⟩ := Decoded.pair.inj (he.symm.trans h)
      exact ⟨rfl, hl, hk, rfl⟩
  | false =>
    by_cases op : fld w 55 8 = 0xFF#8
    · rw [decode_of_header top op] at h
      obtain ⟨e, he⟩ | ⟨_, _, _, _, -, -, -, he⟩ := decodeHeader_cases w <;> rw [he] at h <;> nomatch h
    · rw [decode_of_full top op] at h
      obtain he | ⟨j, -, -, he⟩ := decodeFull_cases w <;> rw [he] at h <;> nomatch h
theorem encodePair_of_decode {lo hi : Instr} {yld : Bool} {w : W64} (h : decode w = .pair lo hi yld) :
    lo.wf = true ∧ hi.wf = true ∧ encodePair lo hi yld = some w := by
  obtain ⟨top, hlo, hhi, rfl⟩ := decode_pair h
  obtain ⟨hl, p, hp, hlow⟩ := decodeHalf_eq_some hlo
  obtain ⟨hh, q, hq, hhigh⟩ := decodeHalf_eq_some hhi
  have htop : (1#1 : BitVec 1) = fld w 63 1 := by rw [← bit_bitOf, top]; rfl
  refine ⟨hl, hh, ?_⟩
  simp only [encodePair, hp, hq, hlow, hhigh, htop, bit_bitOf, fld_append]
  exact congrArg some (fld_all w)

/-! Unlisted OPs (R67). -/

/-- The OPs of full-format words that R67 does not list. -/
abbrev UnlistedOp (op : Nat) : Prop :=
  op = 0 ∨ (0x4D ≤ op ∧ op ≤ 0x4F) ∨ (0x5C ≤ op ∧ op ≤ 0x5F) ∨ (0x6D ≤ op ∧ op ≤ 0x6F) ∨ (0x78 ≤ op ∧ op ≤ 0x7F) ∨ op = 0x87
    ∨ (0x8B ≤ op ∧ op ≤ 0x8F) ∨ (0x94 ≤ op ∧ op ≤ 0x9F) ∨ (0xAB ≤ op ∧ op ≤ 0xAF) ∨ (0xB5 ≤ op ∧ op ≤ 0xB7) ∨ (0xBB ≤ op ∧ op ≤ 0xBF)
    ∨ (0xC7 ≤ op ∧ op ≤ 0xCF) ∨ (0xD7 ≤ op ∧ op ≤ 0xDF) ∨ op = 0xEE ∨ op = 0xEF ∨ (0xFA ≤ op ∧ op ≤ 0xFE)

/-- No instruction has an unlisted OP. -/
theorem Instr.raw_op_listed (i : Instr) : i.raw.all (fun r => !decide (UnlistedOp r.op.toNat)) = true := by
  cases i <;> rfl
theorem decode_unlisted {w : W64} (top : bitOf w 63 = false) (ho : UnlistedOp (fld w 55 8).toNat) : decode w = .bad .illop := by
  have op : fld w 55 8 ≠ 0xFF#8 := by
    intro e
    rw [e] at ho
    exact absurd ho (by decide)
  rw [decode_of_full top op]
  obtain he | ⟨i, -, hr, -⟩ := decodeFull_cases w
  · exact he
  · have hl := Instr.raw_op_listed i
    rw [hr, Option.all_some, Raw.norm_op] at hl
    exact absurd ho (of_decide_eq_false ((Bool.not_eq_true' _).mp hl))

/-- Settles O59. -/
theorem encodeRoundTrip : Obligations.EncodeRoundTrip := by
  refine ⟨fun i w => decode_of_encode, ?hasWord, fun i w => encode_of_decode, fun lo hi yld w => decode_encodePair,
    fun lo hi yld w => encodePair_of_decode, ?unlisted⟩
  case hasWord =>
    intro i _ ht hh
    have h := Instr.raw_isSome_or i
    rw [hh, Option.isNone_eq_false_iff.mpr ht] at h
    obtain ⟨r, hr⟩ := Option.isSome_iff_exists.mp (by simpa using h)
    rw [encode_of_raw hr]
    rfl
  case unlisted =>
    intro w hw ho
    exact decode_unlisted ((BitVec.msb_eq_getLsbD_last w).symm.trans hw) ho

/-- Settles O60: each of the words is the encoding of its instruction (`decode_of_encode`), or of its two halves. -/
theorem wordsDecode : Obligations.WordsDecode := by
  refine ⟨decode_of_encode rfl rfl, decode_of_encode rfl rfl, decode_of_encode rfl rfl, decode_of_encode rfl rfl, decode_of_encode rfl rfl,
    decode_of_encode rfl rfl, decode_of_encode rfl rfl, decode_of_encode rfl rfl, decode_encodePair rfl rfl rfl (by decide),
    decode_unlisted rfl (by decide)⟩

end Sys2Proof
end

section
/-! Halves of pairs (R65, R66): what each leaves, from what it computes. -/
namespace Sys2Proof.Machine

/-- Sums and differences of sources with a base and a stride (R75). -/
theorem affAdd_lane {s : State} {a b : Opnd} {sub : Bool} {x : Shaped} (h : affAdd sub (s.shape a) (s.shape b) = some x) (l : Nat) :
    x.lane l = if sub then s.rd a l - s.rd b l else s.rd a l + s.rd b l := by
  unfold affAdd at h
  split at h
  next b1 s1 b2 s2 h1 h2 =>
    obtain rfl := Option.some.inj h
    rw [rd_of_affine s a b1 s1 h1, rd_of_affine s b b2 s2 h2]
    cases sub
    · simp only [Bool.false_eq_true, if_false, Shaped.lane, BitVec.mul_add]
      ac_rfl
    · simp only [if_true, Shaped.lane, BitVec.sub_eq_add_neg, BitVec.mul_add, BitVec.neg_add, ← BitVec.mul_neg]
      ac_rfl
  next => nomatch h
theorem rd_of_shape_a {s : State} {o : Opnd} {b st : W32} (h : s.shape o = .a b st) (l : Nat) : s.rd o l = b + BitVec.ofNat 32 l * st :=
  rd_of_affine s o b st (by rw [h]; rfl) l
theorem rd_of_shape_u {s : State} {o : Opnd} {c : W32} (h : s.shape o = .u c) (l : Nat) : s.rd o l = c := by
  rw [rd_of_affine s o c 0 (by rw [h]; rfl) l]; simp
/-- The product of such a source and of one that is U (R75). -/
theorem affMul_lane {s : State} {a b : Opnd} {x : Shaped} (h : affMul (s.shape a) (s.shape b) = some x) (l : Nat) :
    x.lane l = s.rd a l * s.rd b l := by
  unfold affMul at h
  split at h
  next b1 s1 c ha hb =>
    obtain rfl := Option.some.inj h
    rw [rd_of_shape_a ha, rd_of_shape_u hb, Shaped.lane, BitVec.add_mul, BitVec.mul_assoc]
  next c b1 s1 ha hb =>
    obtain rfl := Option.some.inj h
    rw [rd_of_shape_u ha, rd_of_shape_a hb, Shaped.lane, BitVec.mul_comm c, BitVec.add_mul, BitVec.mul_assoc]
  next => nomatch h
/-- Its left shift by one that is U (R75). -/
theorem affShl_lane {s : State} {a b : Opnd} {x : Shaped} (h : affShl (s.shape a) (s.shape b) = some x) (l : Nat) :
    x.lane l = s.rd a l <<< cnt5 (s.rd b l) := by
  unfold affShl at h
  split at h
  next b1 s1 c ha hb =>
    obtain rfl := Option.some.inj h
    rw [rd_of_shape_a ha, rd_of_shape_u hb]
    simp only [Shaped.lane, BitVec.shiftLeft_eq_mul_twoPow, BitVec.add_mul, BitVec.mul_assoc]
  next => nomatch h
/-- A source read with a base and a stride (R75). -/
theorem affSame_lane {s : State} {a : Opnd} {x : Shaped} (h : affSame (s.shape a) = some x) (l : Nat) : x.lane l = s.rd a l := by
  unfold affSame at h
  split at h
  next b st ha =>
    obtain rfl := Option.some.inj h
    rw [rd_of_shape_a ha, Shaped.lane]
  next => nomatch h

/-- A half that computes lane by lane from DA and SB (R65). -/
theorem halfResult_half2 {i : Instr} {s : State} {h : Half} {lat : Lat} {g : W32 → W32 → W32} {aff : Option Shaped} {f : Nat → W32}
    (he : exec i s = .next (s.half2 h lat g aff)) (hf : ∀ l, g (s.rd h.da l) (s.rd h.sb l) = f l)
    (haff : ∀ x, aff = some x → ∀ l, x.lane l = g (s.rd h.da l) (s.rd h.sb l)) : HalfResult i s h f := by
  intro hI _
  obtain rfl : (fun l => g (s.rd h.da l) (s.rd h.sb l)) = f := funext hf
  refine puts_half i s hI h.da (s.hactive h) _ _ lat (fun x hx l _ => ?_) he
  split at hx
  next hu =>
    obtain ⟨ha, hb⟩ := Bool.and_eq_true_iff.mp hu
    obtain rfl := Option.some.inj hx
    rw [rd_of_isU s h.da ha l, rd_of_isU s h.sb hb l]
    rfl
  next => exact haff x hx l
/-- The same of a half that sets no A result (R75). -/
theorem halfResult_plain {i : Instr} {s : State} {h : Half} {lat : Lat} {g : W32 → W32 → W32} {f : Nat → W32}
    (he : exec i s = .next (s.half2 h lat g)) (hf : ∀ l, g (s.rd h.da l) (s.rd h.sb l) = f l) : HalfResult i s h f :=
  halfResult_half2 he hf nofun
theorem halfResult_mov (s : State) (h : Half) : HalfResult (.halfMov h) s h (s.rd h.sb) := by
  intro hI _
  refine puts_half (.halfMov h) s hI h.da (s.hactive h) _ _ .i (fun x hx l _ => ?_) rfl
  split at hx
  next hu =>
    obtain rfl := Option.some.inj hx
    exact (rd_of_isU s h.sb hu l).symm
  next => exact affSame_lane hx l

theorem minT_toInt (a b : W32) : minT .i a b = BitVec.ofInt 32 (min a.toInt b.toInt) := by
  change (if b.toInt < a.toInt then b else a) = _
  split
  · rw [Int.min_eq_right (by omega), BitVec.ofInt_toInt]
  · rw [Int.min_eq_left (by omega), BitVec.ofInt_toInt]
theorem maxT_toInt (a b : W32) : maxT .i a b = BitVec.ofInt 32 (max a.toInt b.toInt) := by
  change (if a.toInt < b.toInt then b else a) = _
  split
  · rw [Int.max_eq_right (by omega), BitVec.ofInt_toInt]
  · rw [Int.max_eq_left (by omega), BitVec.ofInt_toInt]
theorem minT_toNat (a b : W32) : minT .n a b = BitVec.ofNat 32 (min a.toNat b.toNat) := by
  change (if (b.toNat : Int) < a.toNat then b else a) = _
  split
  · rw [Nat.min_eq_right (by omega), BitVec.ofNat_toNat, BitVec.setWidth_eq]
  · rw [Nat.min_eq_left (by omega), BitVec.ofNat_toNat, BitVec.setWidth_eq]
theorem maxT_toNat (a b : W32) : maxT .n a b = BitVec.ofNat 32 (max a.toNat b.toNat) := by
  change (if (a.toNat : Int) < b.toNat then b else a) = _
  split
  · rw [Nat.max_eq_right (by omega), BitVec.ofNat_toNat, BitVec.setWidth_eq]
  · rw [Nat.max_eq_left (by omega), BitVec.ofNat_toNat, BitVec.setWidth_eq]
/-- Two elements of 16 bits, each by itself (R155). -/
theorem packed2_eq (g : W32 → W32 → W32) (x y : W32) : packed2 g x y =
    (g ((x >>> 16) &&& 0xFFFF) ((y >>> 16) &&& 0xFFFF)).setWidth 16 ++ (g (x &&& 0xFFFF) (y &&& 0xFFFF)).setWidth 16 := by
  have low16 (v : W32) : (v &&& 0xFFFF).toNat = v.toNat % 2 ^ 16 := Nat.and_two_pow_sub_one_eq_mod v.toNat 16
  have high (v : W32) : (fld v (16 * 1) 16).setWidth 32 = (v >>> 16) &&& 0xFFFF :=
    BitVec.eq_of_toNat_eq (by rw [low16]; simp [fld]; omega)
  have low (v : W32) : (fld v (16 * 0) 16).setWidth 32 = v &&& 0xFFFF :=
    BitVec.eq_of_toNat_eq (by rw [low16]; simp [fld]; omega)
  simp only [packed2, high, low]

/-- Settles O14: a half writes what it computes from DA and SB in each lane (`halfResult_half2`), whichever shape it is given. -/
theorem halfResults : Obligations.HalfResults := by
  intro s h a b n two lesser greater
  have same {lat : Lat} (i : Instr) (g : W32 → W32 → W32) (he : exec i s = .next (s.half2 h lat g)) :
      HalfResult i s h fun l => g (a l) (b l) := halfResult_plain he fun _ => rfl
  have packed {lat : Lat} (i : Instr) (g : W32 → W32 → W32) (he : exec i s = .next (s.half2 h lat (packed2 g))) :
      HalfResult i s h (two g) := halfResult_plain he fun l => packed2_eq g (a l) (b l)
  refine ⟨rfl, rfl, ?add, ?sub, ?mul, ?minI, ?maxI, ?minN, ?maxN, ?shl, same (.halfShr h) (fun x y => shr32 x (cnt5 y)) rfl,
    same (.halfSra h) (fun x y => sra32 x (cnt5 y)) rfl, same (.halfAnd h) (· &&& ·) rfl, same (.halfOr h) (· ||| ·) rfl,
    same (.halfXor h) (· ^^^ ·) rfl, halfResult_mov s h, same (.halfFadd h) (faddCode .f32 .rn) rfl,
    same (.halfFsub h) (fsubCode .f32 .rn) rfl, same (.halfFmul h) (fmulCode .f32 .rn) rfl, same (.halfFmin h) fmin32 rfl,
    same (.halfFmax h) fmax32 rfl, packed (.halfHadd2F16 h) _ rfl, packed (.halfHsub2F16 h) _ rfl, packed (.halfHmul2F16 h) _ rfl,
    packed (.halfHmin2F16 h) _ rfl, packed (.halfHmax2F16 h) _ rfl, packed (.halfHadd2B16 h) _ rfl, packed (.halfHsub2B16 h) _ rfl,
    packed (.halfHmul2B16 h) _ rfl, packed (.halfHmin2B16 h) _ rfl, packed (.halfHmax2B16 h) _ rfl⟩
  case add => exact halfResult_half2 rfl (fun _ => rfl) fun x hx l => affAdd_lane hx l
  case sub => exact halfResult_half2 rfl (fun _ => rfl) fun x hx l => affAdd_lane hx l
  case mul => exact halfResult_half2 rfl (fun _ => rfl) fun x hx l => affMul_lane hx l
  case shl => exact halfResult_half2 rfl (fun _ => rfl) fun x hx l => affShl_lane hx l
  case minI => exact halfResult_plain rfl fun l => minT_toInt (a l) (b l)
  case maxI => exact halfResult_plain rfl fun l => maxT_toInt (a l) (b l)
  case minN => exact halfResult_plain rfl fun l => minT_toNat (a l) (b l)
  case maxN => exact halfResult_plain rfl fun l => maxT_toNat (a l) (b l)

end Sys2Proof.Machine
end

section
/-! Soft errors to come (log 30): a fetch takes none of them, whatever it changes in caches, page tables, copies and records. -/
namespace Sys2Proof.Machine

theorem foldl_keeps {α β γ : Type} (p : β → γ) {f : β → α → β} (h : ∀ b a, p (f b a) = p b) (l : List α) (b : β) :
    p (l.foldl f b) = p b := by
  induction l generalizing b with
  | nil => rfl
  | cons a r ih => rw [List.foldl_cons, ih, h]

section
variable (s : State) (x line : Nat)

@[simp] theorem State.countDie_upsets (n k : Nat) : (s.countDie x n k).upsets = s.upsets := rfl
@[simp] theorem State.l1Drop_upsets (keep : Option Nat) : (s.l1Drop x line keep).upsets = s.upsets := rfl
@[simp] theorem State.touchL2_upsets (h : Hint) : (s.touchL2 x line h).upsets = s.upsets := rfl
@[simp] theorem State.freeTwin_upsets : (s.freeTwin x line).upsets = s.upsets := rfl
@[simp] theorem State.dropCopy_upsets : (s.dropCopy x line).upsets = s.upsets := rfl
@[simp] theorem State.forward_upsets (p : DiffRec → Bool) : (s.forward p).upsets = s.upsets := rfl
@[simp] theorem State.forwardLine_upsets : (s.forwardLine x line).upsets = s.upsets := rfl
@[simp] theorem State.homeWordsWr_upsets (ws : List (Nat × W32)) : (s.homeWordsWr line ws).upsets = s.upsets := by
  exact foldl_keeps State.upsets (fun t w => State.homeWr_upsets t _ _) ws s
@[simp] theorem State.merge_upsets (r : DiffRec) : (s.merge r).upsets = s.upsets := by simp [State.merge]
@[simp] theorem State.landN_upsets (upto n : Nat) : (s.landN upto n).upsets = s.upsets := by
  induction n generalizing s with
  | zero => rfl
  | succ n ih =>
    unfold State.landN
    split
    next r _ => rw [ih, State.merge_upsets]
    next => rfl
@[simp] theorem State.publish_upsets (kind seq sync launch : Nat) (held : Bool) :
    (s.publish x line kind seq sync launch held).2.upsets = s.upsets := by
  unfold State.publish
  simp only [State.fresh]
  repeat' split
  all_goals simp
@[simp] theorem State.publishNow_upsets (kind : Nat) : (s.publishNow x line kind).upsets = s.upsets := by
  simp [State.publishNow, State.land]
@[simp] theorem State.writeBack_upsets : (s.writeBack x line).upsets = s.upsets := by
  unfold State.writeBack
  repeat' split
  all_goals simp
@[simp] theorem State.reclass_upsets (cls : Nat) : (s.reclass x line cls).upsets = s.upsets := by
  unfold State.reclass
  simp only [apply_ite State.upsets, State.l1Drop_upsets, State.dropCopy_upsets, State.writeBack_upsets, State.publishNow_upsets, ite_self]
@[simp] theorem State.carryHurt_upsets : (s.carryHurt x line).upsets = s.upsets := by
  unfold State.carryHurt
  simp only
  split <;> simp
@[simp] theorem State.ensureCopy_upsets (cls : Nat) : (s.ensureCopy x line cls).2.upsets = s.upsets := by
  unfold State.ensureCopy
  split
  · simp only; split <;> simp
  · simp
@[simp] theorem State.loadAt_upsets (cls pa n : Nat) (h : Hint) : (s.loadAt x cls pa n h).2.2.upsets = s.upsets := by
  unfold State.loadAt
  simp only
  split <;> simp
@[simp] theorem State.countPage_upsets (w : Who) (p : Spot) : (s.countPage w p).upsets = s.upsets := by
  unfold State.countPage
  simp only
  repeat' split
  all_goals simp
@[simp] theorem State.orPte_upsets (a m : Nat) : (s.orPte a m).upsets = s.upsets := rfl
@[simp] theorem State.setTlb_upsets (w : Who) (l : List TlbEntry) : (s.setTlb w l).upsets = s.upsets := by
  unfold State.setTlb
  split <;> rfl
@[simp] theorem State.xlate_upsets (w : Who) (va : Nat) (k : AccKind) : (s.xlate w va k).1.upsets = s.upsets := by
  unfold State.xlate
  simp only
  repeat' split
  all_goals simp
@[simp] theorem State.check1_upsets (w : Who) (k : AccKind) (align size va : Nat) (det : Nat → Bool) :
    (s.check1 w k align size va det).1.upsets = s.upsets := by
  unfold State.check1
  split
  · rfl
  split
  · rfl
  have hx := State.xlate_upsets s w va k
  split
  next heq => rwa [heq] at hx
  next heq =>
    rw [heq] at hx
    simp only
    repeat' split
    all_goals exact hx
@[simp] theorem State.checkLanes_upsets (w : Who) (k : AccKind) (align size : Nat) (l : List (Nat × Nat)) (det : List Nat → Nat → Bool) :
    (s.checkLanes w k align size l det).1.upsets = s.upsets := by
  unfold State.checkLanes
  simp only
  generalize hF : l.foldl _ _ = F
  have hs : F.1.upsets = s.upsets := by
    rw [← hF]
    exact foldl_keeps (fun a : State × List (Nat × Nat × Except (Nat × Bool) (TlbEntry × Nat)) => a.1.upsets)
      (fun _ _ => State.check1_upsets ..) l _
  split <;> exact hs
end
@[simp] theorem State.codeLine_upsets (s : State) (c ctx line : Nat) (late : Bool) : (s.codeLine c ctx line late).1.upsets = s.upsets := by
  have hk := State.checkLanes_upsets s { die := dieOf c, core := some c, ctx } .fetch 1 1 [(0, (sext57 line).toNat)] noDet
  unfold State.codeLine
  simp only
  split
  next t p heq =>
    rw [heq] at hk
    split
    · exact hk
    split
    · exact hk
    split
    · exact hk
    generalize hF : (List.range 16).foldl _ _ = F
    have hl : F.2.2.upsets = t.upsets := by
      rw [← hF]
      exact foldl_keeps (fun a : List W64 × Bool × State => a.2.2.upsets) (fun _ _ => State.loadAt_upsets ..) _ _
    split
    · exact (State.countPage_upsets ..).trans (hl.trans hk)
    · exact hl.trans hk
  next heq => rwa [heq] at hk
  next heq => rwa [heq] at hk
@[simp] theorem State.fetch_upsets (s : State) (c quad ctx pc : Nat) : (s.fetch c quad ctx pc).1.upsets = s.upsets := by
  have hk := State.checkLanes_upsets s { die := dieOf c, core := some c, ctx } .fetch 1 1 [(0, (sext57 pc).toNat)] noDet
  unfold State.fetch State.fetchAs
  simp only
  split
  next heq => rwa [heq] at hk
  next t ps heq =>
    rw [heq] at hk
    split
    · exact hk
    split
    · exact hk
    split
    · exact hk
    have hl := State.codeLine_upsets t c ctx (pc - pc % 128) true
    split
    next heq => rw [heq] at hl; exact hl.trans hk
    next heq => rw [heq] at hl; exact hl.trans hk
  next heq => rwa [heq] at hk

end Sys2Proof.Machine
end

section
/-! An issue (R46, R55, R58, R65, R69, R142, R319): what the turn of a step answers, from the word that its group's threads stand at. -/
namespace Sys2Proof.Machine

/-- A mask without a lane. -/
theorem maskOf_eq_zero {p : Nat → Bool} (h : ∀ l, l < 32 → p l = false) : maskOf p = 0 := by
  refine BitVec.eq_of_getLsbD_eq fun l hl => ?_
  rw [maskOf_bit p l hl, h l hl]
  exact BitVec.getLsbD_zero.symm

/-! The turn: from the package's choice down to the word tried (R18, R55, R80, R142). -/

theorem State.tryIssue_ok {s t : State} {core slot pc left : Nat} {b : Bool} (h : s.tryIssue core slot pc left = .ok (b, t)) :
    s.tryWord core slot pc left = .ok (b, t) := by
  unfold State.tryIssue at h
  split at h
  next b' t' hw =>
    split at h
    · nomatch h
    · rw [hw, h]
  next => exact h
theorem State.tryBehind_ok {s t : State} {core slot : Nat} {older : Bool × Bool} {p : Nat × Nat} {b : Bool}
    (h : s.tryBehind core slot older p = .ok (b, t)) : s.tryIssue core slot p.1 p.2 = .ok (b, t) := by
  unfold State.tryBehind at h
  split at h
  next b' t' hw =>
    simp only at h
    split at h
    · split at h
      · nomatch h
      · rw [hw, h]
    · split at h
      · nomatch h
      · rw [hw, h]
  next => exact h
/-- A turn taken by a slot's group is a word tried there. -/
theorem State.groupPick_eq_some {s : State} {core slot : Nat} {p : Pick} (h : s.groupPick core slot = some p) :
    s.tryWord p.core p.slot p.at_.1 p.at_.2 = .ok (p.issued, p.after) := by
  unfold State.groupPick at h
  split at h
  · nomatch h
  · obtain ⟨q, -, hq⟩ := List.exists_of_findSome?_eq_some h
    split at hq
    next b t ht =>
      obtain rfl := Option.some.inj hq
      exact State.tryIssue_ok (State.tryBehind_ok ht)
    next => nomatch hq
theorem State.nextPick_eq_some {s : State} {p : Pick} (h : s.nextPick = some p) :
    s.tryWord p.core p.slot p.at_.1 p.at_.2 = .ok (p.issued, p.after) := by
  obtain ⟨c, -, hc⟩ := List.exists_of_findSome?_eq_some h
  split at hc
  · nomatch hc
  · obtain ⟨q, -, hq⟩ := List.exists_of_findSome?_eq_some hc
    unfold State.quadPick at hq
    simp only at hq
    split at hq
    · nomatch hq
    · obtain ⟨k, -, hk⟩ := List.exists_of_findSome?_eq_some hq
      exact State.groupPick_eq_some hk

/-- With no act due and no input waiting, a step is the turn's issue, and the clock stays (R345, log 19). -/
theorem step_of_nextPick {s : State} {p : Pick} (hi : s.inbox = []) (hp : s.mgmt.powered = true) (hr : s.mgmt.ready = true)
    (hs : s.mgmt.stopped = false) (hh : s.mgmt.halved = false) (ha : s.firstAct s.dueActs = none) (hn : s.nextPick = some p) :
    step s = .next (s.inTime (s.aged p)) := by
  simp [step, State.onward, State.nextIssue, hi, hp, hr, hs, hh, ha, hn]

/-! The word (R69). -/

/-- What the checks let by decodes to one instruction, or to the two halves of a pair. -/
theorem wordCheck_ok {role budget left : Nat} {w : W64} {is : List Instr} {yld : Bool} {gap : Nat}
    (h : wordCheck role budget left w = .ok (is, yld, gap)) :
    (∃ i, is = [i] ∧ decode w = .one i) ∨ ∃ lo hi, is = [lo, hi] ∧ decode w = .pair lo hi yld ∧ gap = 0 := by
  unfold wordCheck at h
  simp only at h
  split at h
  · nomatch h
  · split at h
    · nomatch h
    · nomatch h
    · nomatch h
    next i hd =>
      split at h
      · nomatch h
      · split at h
        · nomatch h
        · split at h
          · nomatch h
          · obtain ⟨rfl, -⟩ := Prod.mk.inj (Except.ok.inj h)
            exact .inl ⟨i, rfl, hd⟩
    next lo hi y hd =>
      split at h
      · nomatch h
      · obtain ⟨rfl, hy⟩ := Prod.mk.inj (Except.ok.inj h)
        obtain ⟨rfl, rfl⟩ := Prod.mk.inj hy
        exact .inr ⟨lo, hi, rfl, hd, rfl⟩

/-- The cycles and passes of a decoded word (R18, R54). -/
def State.cyclesOf (s : State) (is : List Instr) : Nat × Nat :=
  wordCycles (match is with | [i] => (i.tab.map (·.lat)).getD .i | _ => .i) (match is with | [i] => scalarWord i | _ => false)
    (laneCount (is.foldl (fun m i => m ||| s.lanesFor i) 0))
/-- What the end of a pair adds to its halves: lives that end, and threads at the next word (R65, R79). -/
def State.pairEnd (s3 t : State) (is : List Instr) (core slot : Nat) (mask : W32) : State :=
  match is with
  | [lo, hi] => t.updGroup core slot fun g =>
    let ks := [lo, hi].flatMap fun i => if s3.lanesFor i == 0 then [] else Instr.kills i
    let ds := [lo, hi].flatMap fun (i : Instr) => (i.tab.map OpTab.vwrites).getD []
    ((ks.filter fun r => !ds.contains r).foldl Group.kill g).updThreads mask Thread.past
  | _ => t
theorem State.struck_of_no_upsets {before after : State} (h : before.upsets = []) : before.struck after = after := by
  rw [State.struck, h]
theorem right_of_ite {α : Type} {c : Prop} [Decidable c] {a b x : α} (h : (if c then a else b) = x) (ha : a ≠ x) : b = x := by
  split at h
  · exact absurd h ha
  · exact h
/-- What an issue leaves, where no soft error strikes and no thread stands at a header (R46, R65, R69, R81): from s2, the state of the
issue as its word is fetched, and s3, the same with the cycles that the word takes. -/
theorem State.tryWord_issued {s s' s2 s3 u : State} {core slot pc left now : Nat} {g : Group} {mask : W32} {w : W64} {is : List Instr}
    {yld : Bool} {gap : Nat} {e : Nat × Nat} (hg : s.group core slot = g) (hnow : s.now core = now)
    (hmask : (maskOf fun l => s.position core g (g.thread l) == some (pc, left)) = mask)
    (hf : s.fetch core g.quad (s.team g.team).ctx pc = (s', .ok w)) (hl : left ≠ 0)
    (hm : ∀ l, mask.getLsbD l = true → (g.thread l).left ≠ 0) (hc : wordCheck g.role g.budget left w = .ok (is, yld, gap))
    (hu : s.upsets = [])
    (hs2 : ({ s' with cur := { active := true, core, slot, pc, mask, first := now, last := now, word := w } } : State) = s2)
    (he : s2.cyclesOf is = e)
    (hs3 : ({ s2 with cur := { active := true, core, slot, pc, mask, first := now, last := now + e.1 - 1, word := w } } : State) = s3)
    (h : s.tryWord core slot pc left = .ok (true, u)) :
    let dests := is.flatMap fun (i : Instr) => if s3.lanesFor i == 0 then [] else (i.tab.map OpTab.vwrites).getD []
    u = (({ s3.pairEnd (is.foldl (fun t i => took (exec i t) t) s3) is core slot mask with cur := {} } : State).updGroup core slot fun h =>
      if h.alloc == g.alloc then { h with recent := (dests :: g.recent).take 8, stop := none } else h).issued
      core slot g.quad 1 (now + e.1 - 1) e.2 gap yld := by
  have hz : (maskOf fun l => mask.getLsbD l && (g.thread l).left == 0) = 0 := by
    refine maskOf_eq_zero fun l _ => ?_
    rw [Bool.and_eq_false_iff]
    cases hb : mask.getLsbD l with
    | false => exact .inl rfl
    | true => exact .inr (by simpa using hm l hb)
  have hs : s3.upsets = [] := by
    have := State.fetch_upsets s core g.quad (s.team g.team).ctx pc
    rw [hf] at this
    rw [← hs3, ← hs2]
    exact this.trans hu
  have hsoft : (([] : List Upset).head? == some Upset.soft) = false := rfl
  have hleft : (left == 0) = false := beq_false_of_ne hl
  unfold State.tryWord at h
  simp only [State.cyclesOf] at he
  obtain ⟨i, rfl, -⟩ | ⟨lo, hi, rfl, -, -⟩ := wordCheck_ok hc
  all_goals
    simp only [hg, hnow, hmask, hf, hz, hc, hu, hsoft, hleft, BEq.rfl, Bool.false_eq_true, if_false, if_true, hs2, he, hs3] at h
    have ready := right_of_ite h nofun
    have present := right_of_ite ready nofun
    have unshared := right_of_ite present fun e => nomatch right_of_ite e nofun
    have unstalled := right_of_ite unshared nofun
    have kept := right_of_ite unstalled nofun
    have stored := right_of_ite kept nofun
    rw [State.struck_of_no_upsets hs] at stored
    simp only [State.pairEnd, Instr.kills]
    exact (congrArg Prod.snd (Except.ok.inj stored)).symm

theorem State.cyclesOf_one (s : State) (i : Instr) :
    s.cyclesOf [i] = wordCycles ((i.tab.map (·.lat)).getD .i) (scalarWord i) (laneCount (s.lanesFor i)) := by
  simp [State.cyclesOf]
theorem State.cyclesOf_pair (s : State) (lo hi : Instr) :
    s.cyclesOf [lo, hi] = wordCycles .i false (laneCount (s.lanesFor lo ||| s.lanesFor hi)) := by
  simp [State.cyclesOf]
theorem took_of_next {o : Out} {s t : State} (h : o = .next t) : took o s = t := by rw [h]; rfl

/-- Settles O54: the step is the turn's issue (`step_of_nextPick`), the turn a word tried (`State.nextPick_eq_some`), and what that leaves is
`State.tryWord_issued`. -/
theorem stepRunsDecodedWord : Obligations.StepRunsDecodedWord := by
  intro s s' p w is yld gap g now mask hinbox hpow hready hstop hhalf hups hact hpick hiss hleft hstand hfetch hcheck cur s1 ended ends
  have hword := State.nextPick_eq_some hpick
  rw [hiss] at hword
  refine ⟨step_of_nextPick hinbox hpow hready hstop hhalf hact hpick, ?one, ?pair⟩
  case one =>
    rintro i rfl e
    obtain ⟨j, hj, hd⟩ | ⟨_, _, hj, -⟩ := wordCheck_ok hcheck
    · obtain rfl : i = j := (List.cons.inj hj).1
      refine ⟨hd, fun t ht => ?_⟩
      have h := State.tryWord_issued rfl rfl rfl hfetch hleft hstand hcheck hups rfl (State.cyclesOf_one s1 i) rfl hword
      rw [List.foldl_cons, took_of_next ht] at h
      exact h
    · nomatch hj
  case pair =>
    rintro lo hi rfl e s3
    obtain ⟨_, hj, -⟩ | ⟨lo', hi', hj, hd, rfl⟩ := wordCheck_ok hcheck
    · nomatch hj
    · obtain ⟨rfl, rfl⟩ : lo = lo' ∧ hi = hi' := by simpa using hj
      refine ⟨hd, fun t u hlo hhi => ?_⟩
      have h := State.tryWord_issued rfl rfl rfl hfetch hleft hstand hcheck hups rfl (State.cyclesOf_pair s1 lo hi) rfl hword
      rw [List.foldl_cons, took_of_next hlo, List.foldl_cons, took_of_next hhi] at h
      exact h

end Sys2Proof.Machine
end

section
/-! Words that steer threads (R56 to R60, R141, R149, R150, R366): a change to the threads and the rejoin masks of the group that issues, and
what its registers end with, which such a change does not touch. -/
namespace Sys2Proof.Machine

theorem Group.thread_updThreads (g : Group) (m : W32) (f : Thread → Thread) {l : Nat} (hl : l < 32) :
    (g.updThreads m f).thread l = if m.getLsbD l then f (g.thread l) else g.thread l := by
  simp [Group.updThreads, Group.thread, allLanes, hl]
theorem Group.commit_steered (g : Group) (ts : List Thread) (js : List W32) (w : Wb) :
    ({ g with threads := ts, joins := js } : Group).commit w = { g.commit w with threads := ts, joins := js } := by
  cases w with
  | vec r m v d =>
    simp only [Group.commit, Group.writeV]
    split <;> rfl
  | sca r v d => rfl
  | prd n m b d => rfl
/-- Threads and rejoin masks have no part in what results make of a group (R84). -/
theorem Group.final_steered (g : Group) (ts : List Thread) (js : List W32) :
    ({ g with threads := ts, joins := js } : Group).final = { g.final with threads := ts, joins := js } := by
  have fold (ws : List Wb) (h : Group) : ws.foldl Group.commit { h with threads := ts, joins := js }
      = { ws.foldl Group.commit h with threads := ts, joins := js } := by
    induction ws generalizing h with
    | nil => rfl
    | cons w r ih => rw [List.foldl_cons, Group.commit_steered, ih]; rfl
  exact fold g.wb { g with wb := [] }

/-- A change to nothing but threads and rejoin masks. -/
def Group.Steered (g h : Group) : Prop := h = { g with threads := h.threads, joins := h.joins }

theorem Group.Steered.refl (g : Group) : g.Steered g := rfl
theorem Group.Steered.trans {g h k : Group} (a : g.Steered h) (b : h.Steered k) : g.Steered k := by
  unfold Group.Steered at *
  rw [b, a]
theorem Group.Steered.flag_eq {g h : Group} (a : g.Steered h) (f : Nat) : h.flag f = g.flag f := by rw [a]; rfl
/-- What a group ends with, where another is that one steered. -/
theorem Group.Steered.ends {g h : Group} (a : g.Steered h) : (∀ r, h.final.reg r = g.final.reg r) ∧ (∀ r, h.final.sreg r = g.final.sreg r)
    ∧ h.final.preds = g.final.preds := by
  rw [a, Group.final_steered]
  exact ⟨fun _ => rfl, fun _ => rfl, rfl⟩

theorem OnlyGroup.refl (s : State) : OnlyGroup s s := ⟨rfl, fun _ => rfl, fun _ _ _ => rfl⟩
theorem OnlyGroup.cur_eq {s t : State} (h : OnlyGroup s t) : t.cur = s.cur := by rw [h.rest]
theorem OnlyGroup.trans {s t u : State} (h : OnlyGroup s t) (k : OnlyGroup t u) : OnlyGroup s u := by
  refine ⟨?_, fun c => ?_, fun c j hne => ?_⟩
  · rw [k.rest, h.rest]
  · rw [k.cores, h.cores]
  · rw [k.slots c j (by rwa [h.cur_eq]), h.slots c j hne]

/-- No thread steered yet. -/
theorem Steers.refl (i : Instr) (s : State) : Steers i s s s [] [] (fun _ t => t) s.g.join :=
  ⟨rfl, .refl s, rfl, fun _ _ => rfl, fun _ _ => rfl, fun _ _ _ _ _ => rfl, fun _ _ => rfl, fun _ _ _ => rfl⟩
/-- A word whose group is then steered by k. -/
theorem Steers.updG {i : Instr} {s u t : State} {vs ss : List Nat} {f f' : Nat → Thread → Thread} {js js' : Nat → W32}
    (h : Steers i s u t vs ss f js) (k : Group → Group) (hlive : (t.group? t.cur.core t.cur.slot).isSome = true)
    (hk : t.g.Steered (k t.g)) (hthreads : ∀ l, l < 32 → (k t.g).thread l = f' l (s.g.thread l))
    (hjoins : ∀ n, n < 16 → (k t.g).join n = js' n) : Steers i s u (t.updG k) vs ss f' js' := by
  have hg := State.g_updG t k hlive
  obtain ⟨hv, hs, hp⟩ := hk.ends
  refine ⟨h.same, h.only.trans (OnlyGroup.updG t k), ?_, ?_, ?_, ?_, ?_, ?_⟩
  · rw [hg, hk, h.group]
  · rw [hg]; exact hthreads
  · rw [hg]; exact hjoins
  · intro r l hl hr hkill
    rw [State.endV, hg, hv]
    exact h.vecs r l hl hr hkill
  · intro r hr
    rw [State.endS, hg, hs]
    exact h.scalars r hr
  · intro p l hp7
    rw [State.endP, hg, hp]
    exact h.preds p l hp7
/-- A word that writes nothing and goes on (R60). -/
theorem Frame.steers {i : Instr} {s t : State} (h : Frame i s t [] [] []) (f : Nat → Thread → Thread) :
    Steers i s s t [] [] (s.thenAt 0 f) s.g.join := by
  have hthread (l : Nat) (hl : l < 32) : t.g.thread l = s.thenAt 0 f l (s.g.thread l) := by
    rw [h.group]
    exact (Group.thread_updThreads s.g s.cur.mask Thread.past hl).trans (by simp [State.thenAt])
  refine ⟨rfl, h.only, ?_, hthread, fun n _ => by rw [h.group]; rfl, h.vecs, h.scalars, fun p l hp => h.preds p l hp (by simp)⟩
  rw [h.group]
theorem steers_done {i : Instr} {tb : OpTab} (hi : i.tab = some tb) {s : State} (hI : Issuing s) (f : Nat → Thread → Thread) :
    Steers i s s (s.finish i) [] [] (s.thenAt 0 f) s.g.join :=
  (frame_of_push i tb hi s hI [] [] [] [] (by simp)).steers f

theorem State.mask_of_active {s : State} {c : Ctl} {l : Nat} (h : (s.active c).getLsbD l = true) : s.cur.mask.getLsbD l = true := by
  have hl := BitVec.lt_of_getLsbD h
  rw [State.active, maskOf_bit _ l hl] at h
  exact (Bool.and_eq_true_iff.mp h).1

/-! Flags with errors (R366). -/

theorem State.firstErr_eq_none {g : Group} {flags : Nat} (h : ∀ f, f < 12 → flags.testBit f = true → (g.flag f).errs = []) :
    State.firstErr g flags = none := by
  have hes : (((List.range 12).filter flags.testBit).flatMap fun f => (g.flag f).errs.map fun e => ((e.1.1, f, e.1.2), e.2)) = [] := by
    rw [List.flatMap_eq_nil_iff]
    intro f hf
    obtain ⟨hr, hb⟩ := List.mem_filter.mp hf
    rw [h f (List.mem_range.mp hr) hb, List.map_nil]
  unfold State.firstErr
  rw [hes]
  rfl
theorem State.asyncFault_eq_none {s : State} {lanes : W32} {m : BitVec 12}
    (h : ∀ f, f < 12 → m.getLsbD f = true → (s.g.flag f).errs = []) : s.asyncFault s.cur.core s.cur.slot lanes m.toNat = none := by
  rw [State.asyncFault, State.firstErr_eq_none (g := s.group s.cur.core s.cur.slot) h, Option.map_none]
theorem State.asyncFault_eq_some {s : State} {lanes : W32} {m : BitVec 12} {ti : TrapInfo} (h : State.firstErr s.g m.toNat = some ti) :
    s.asyncFault s.cur.core s.cur.slot lanes m.toNat = some (s.trap s.cur.core s.cur.slot { ti with lanes }) := by
  rw [State.asyncFault, show State.firstErr (s.group s.cur.core s.cur.slot) m.toNat = some ti from h, Option.map_some]

/-- Whether some flag that a wait names is seen as set (R58). -/
def State.anyFlagSet (s : State) (m : BitVec 12) : Bool :=
  (List.range 12).any fun f => m.getLsbD f && (s.g.flag f).isSet (s.now s.cur.core)

/-! WAITF, the header, SLEEP (R56 to R60, R149, R150). -/

theorem State.live_finish (s : State) (i : Instr) :
    ((s.finish i).group? (s.finish i).cur.core (s.finish i).cur.slot).isSome = (s.group? s.cur.core s.cur.slot).isSome := by
  unfold State.finish
  split
  · rfl
  · split
    · exact State.live_updG ..
    · rfl

section
variable {s : State} {c : Ctl} {m : BitVec 12}

theorem exec_waitf_idle (h : s.active c = 0) : exec (.waitf c m) s = .next (s.finish (.waitf c m)) :=
  if_pos (beq_iff_eq.mpr h)
theorem exec_waitf_active (h : s.active c ≠ 0) : exec (.waitf c m) s =
    match s.asyncFault s.cur.core s.cur.slot (s.active c) m.toNat with
    | some t => .next t
    | none => if s.anyFlagSet m then
        .next (s.updG fun g => (g.updThreads (s.cur.mask &&& ~~~s.active c) Thread.past).updThreads (s.active c) fun t =>
          { t with left := t.left - 1, wait := .waitf m.toNat })
      else s.done (.waitf c m) :=
  if_neg (by simpa using h)
theorem exec_waitf_goes (hm : ∀ f, f < 12 → m.getLsbD f = true → (s.g.flag f).errs = []) (h : s.anyFlagSet m = false ∨ s.active c = 0) :
    exec (.waitf c m) s = .next (s.finish (.waitf c m)) := by
  by_cases ha : s.active c = 0
  · exact exec_waitf_idle ha
  · rw [exec_waitf_active ha, State.asyncFault_eq_none hm]
    simp [h.resolve_right ha, State.done]
theorem exec_waitf_holds (hm : ∀ f, f < 12 → m.getLsbD f = true → (s.g.flag f).errs = []) (h : s.anyFlagSet m = true) (ha : s.active c ≠ 0) :
    exec (.waitf c m) s = .next (s.updG fun g =>
      (g.updThreads (s.cur.mask &&& ~~~s.active c) Thread.past).updThreads (s.active c) fun t =>
        { t with left := t.left - 1, wait := .waitf m.toNat }) := by
  rw [exec_waitf_active ha, State.asyncFault_eq_none hm]
  exact if_pos h
theorem exec_waitf_traps {ti : TrapInfo} (ha : s.active c ≠ 0) (h : State.firstErr s.g m.toNat = some ti) :
    exec (.waitf c m) s = .next (s.trap s.cur.core s.cur.slot { ti with lanes := s.active c }) := by
  rw [exec_waitf_active ha, State.asyncFault_eq_some h]

theorem exec_sleep {a : Opnd} : exec (.sleep c a) s = .next ((s.finish (.sleep c a)).updG fun g => g.updThreads (s.active c) fun t =>
    { t with wait := .sleep (s.cur.last + 1 + (s.rd a (firstLane (s.active c))).toNat % 65536) }) := rfl
theorem exec_clauseHeader {sa sb : BitVec 4} {n : BitVec 5} : exec (.clauseHeader m sa sb n) s =
    match s.asyncFault s.cur.core s.cur.slot s.cur.mask m.toNat with
    | some t => .next t
    | none => if s.anyFlagSet m then .next s else .next (s.updG fun g => g.updThreads s.cur.mask fun t =>
        { t with pc := pcMod (t.pc + 8), seta := sa.toNat, setb := sb.toNat, left := n.toNat }) := rfl
theorem exec_header_opens {sa sb : BitVec 4} {n : BitVec 5} (hm : ∀ f, f < 12 → m.getLsbD f = true → (s.g.flag f).errs = [])
    (h : s.anyFlagSet m = false) : exec (.clauseHeader m sa sb n) s = .next (s.updG fun g => g.updThreads s.cur.mask fun t =>
      { t with pc := pcMod (t.pc + 8), seta := sa.toNat, setb := sb.toNat, left := n.toNat }) := by
  rw [exec_clauseHeader, State.asyncFault_eq_none hm]
  exact if_neg (by simp [h])
theorem exec_header_holds {sa sb : BitVec 4} {n : BitVec 5} (hm : ∀ f, f < 12 → m.getLsbD f = true → (s.g.flag f).errs = [])
    (h : s.anyFlagSet m = true) : exec (.clauseHeader m sa sb n) s = .next s := by
  rw [exec_clauseHeader, State.asyncFault_eq_none hm]
  exact if_pos h
theorem exec_header_traps {sa sb : BitVec 4} {n : BitVec 5} {ti : TrapInfo} (h : State.firstErr s.g m.toNat = some ti) :
    exec (.clauseHeader m sa sb n) s = .next (s.trap s.cur.core s.cur.slot { ti with lanes := s.cur.mask }) := by
  rw [exec_clauseHeader, State.asyncFault_eq_some h]
end

/-- Some threads of the issue held as f makes them, the others past their word (R18, R149). -/
theorem steers_hold {i : Instr} {s : State} (hI : Issuing s) (c : Ctl) (f : Thread → Thread) :
    Steers i s s (s.updG fun g => (g.updThreads (s.cur.mask &&& ~~~s.active c) Thread.past).updThreads (s.active c) f) [] []
      (s.thenAt (s.active c) fun _ t => f t) s.g.join := by
  refine (Steers.refl i s).updG _ hI.1 rfl (fun l hl => ?_) fun _ _ => rfl
  rw [Group.thread_updThreads _ _ _ hl, Group.thread_updThreads _ _ _ hl, State.thenAt]
  have hrest : (s.cur.mask &&& ~~~s.active c).getLsbD l = (s.cur.mask.getLsbD l && !(s.active c).getLsbD l) := by
    rw [BitVec.getLsbD_and, BitVec.getLsbD_not, decide_eq_true hl, Bool.true_and]
  rw [hrest]
  by_cases ha : (s.active c).getLsbD l = true
  · simp [ha]
  · simp [ha]
/-- A header's threads enter its clause (R58, R60). -/
theorem steers_header {i : Instr} {s : State} (hI : Issuing s) (f : Thread → Thread) :
    Steers i s s (s.updG fun g => g.updThreads s.cur.mask f) [] [] (fun l t => if s.cur.mask.getLsbD l then f t else t) s.g.join :=
  (Steers.refl i s).updG _ hI.1 rfl (fun _ hl => Group.thread_updThreads _ _ _ hl) fun _ _ => rfl
/-- A finished word whose active threads then wait (R150). -/
theorem steers_finish_wait {i : Instr} {tb : OpTab} (hi : i.tab = some tb) {s : State} (hI : Issuing s) (c : Ctl) (f : Thread → Thread) :
    Steers i s s ((s.finish i).updG fun g => g.updThreads (s.active c) f) [] [] (s.thenAt (s.active c) fun _ t => f t.past) s.g.join := by
  have base := steers_done hi hI fun _ t => t
  refine base.updG _ ((State.live_finish s i).trans hI.1) rfl (fun l hl => ?_) base.joins
  rw [Group.thread_updThreads _ _ _ hl, base.threads l hl]
  by_cases ha : (s.active c).getLsbD l = true
  · simp [State.thenAt, ha, State.mask_of_active ha]
  · simp [State.thenAt, ha]

/-! EXIT and the rejoin masks it empties (R141, R148). -/

/-- One rejoin mask limited to the threads that are left (R141). -/
def Group.limit (clk : Nat) (g : Group) (n : Nat) : Group := if g.join n == 0 then g else g.setJoin n (g.join n) clk
theorem Group.present_bit (g : Group) {l : Nat} (hl : l < 32) : g.present.getLsbD l = ((g.thread l).wait != .empty) := maskOf_bit _ l hl
theorem Group.present_congr {g h : Group} (a : ∀ l, l < 32 → ((h.thread l).wait = .empty ↔ (g.thread l).wait = .empty)) : h.present = g.present := by
  refine BitVec.eq_of_getLsbD_eq fun l hl => ?_
  rw [Group.present_bit _ hl, Group.present_bit _ hl, Bool.eq_iff_iff, bne_iff_ne, bne_iff_ne]
  exact not_congr (a l hl)

/-- Whether limiting mask n to those left empties it and so frees a thread (R148). -/
def Group.frees (g : Group) (n : Nat) (t : Thread) : Prop := g.join n ≠ 0 ∧ g.join n &&& g.present = 0 ∧ t.wait = .jarr n


section
variable {clk n : Nat} {g : Group}

theorem Group.limit_of_zero (h : g.join n = 0) : g.limit clk n = g := if_pos (beq_iff_eq.mpr h)
theorem Group.limit_of_nonzero (h : g.join n ≠ 0) (k : g.join n &&& g.present ≠ 0) :
    g.limit clk n = { g with joins := vset 16 0 g.joins n fun _ => g.join n &&& g.present } :=
  (if_neg (by simpa using h)).trans (if_pos (by simpa using k))
theorem Group.limit_of_emptied (h : g.join n ≠ 0) (k : g.join n &&& g.present = 0) :
    g.limit clk n = Group.updThreads { g with joins := vset 16 0 g.joins n fun _ => 0 } (maskOf fun l => (g.thread l).wait == .jarr n)
      fun t => t.freed clk := by
  simp only [Group.limit, Group.setJoin, k]
  exact if_neg (by simpa using h)

theorem Group.steered_limit : g.Steered (g.limit clk n) := by
  by_cases h : g.join n = 0
  · rw [Group.limit_of_zero h]; exact .refl g
  · by_cases k : g.join n &&& g.present = 0
    · rw [Group.limit_of_emptied h k]; rfl
    · rw [Group.limit_of_nonzero h k]; rfl
theorem Group.join_limit {m : Nat} (hm : m < 16) : (g.limit clk n).join m = if m = n then g.join m &&& g.present else g.join m := by
  by_cases h : g.join n = 0
  · rw [Group.limit_of_zero h]
    split
    · next e => subst e; simp [h]
    · rfl
  · by_cases k : g.join n &&& g.present = 0
    · rw [Group.limit_of_emptied h k]
      refine (vset_getD 16 0 g.joins n m (fun _ => 0) hm).trans ?_
      split
      · next e => subst e; exact k.symm
      · rfl
    · rw [Group.limit_of_nonzero h k]
      refine (vset_getD 16 0 g.joins n m (fun _ => g.join n &&& g.present) hm).trans ?_
      split
      · next e => subst e; rfl
      · rfl
theorem Group.thread_limit_freed {l : Nat} (hl : l < 32) (h : g.frees n (g.thread l)) : (g.limit clk n).thread l = (g.thread l).freed clk := by
  obtain ⟨hn, hp, hw⟩ := h
  rw [Group.limit_of_emptied hn hp, Group.thread_updThreads _ _ _ hl, maskOf_bit _ l hl, hw]
  exact if_pos (beq_self_eq_true _)
theorem Group.thread_limit_kept {l : Nat} (hl : l < 32) (h : ¬ g.frees n (g.thread l)) : (g.limit clk n).thread l = g.thread l := by
  by_cases hz : g.join n = 0
  · rw [Group.limit_of_zero hz]
  · by_cases k : g.join n &&& g.present = 0
    · rw [Group.limit_of_emptied hz k, Group.thread_updThreads _ _ _ hl, maskOf_bit _ l hl]
      exact if_neg fun hw => h ⟨hz, k, beq_iff_eq.mp hw⟩
    · rw [Group.limit_of_nonzero hz k]; rfl
theorem Group.present_limit : (g.limit clk n).present = g.present := by
  refine Group.present_congr fun l hl => ?_
  by_cases h : g.frees n (g.thread l)
  · rw [Group.thread_limit_freed hl h, h.2.2]
    simp [Thread.freed]
  · rw [Group.thread_limit_kept hl h]
end

/-- The masks ns of g limited one after the other to the threads left. -/
structure Group.Limited (clk : Nat) (ns : List Nat) (g h : Group) : Prop where
  steered : g.Steered h
  present : h.present = g.present
  joins : ∀ m, m < 16 → h.join m = if m ∈ ns then g.join m &&& g.present else g.join m
  freed : ∀ l, l < 32 → (∃ n ∈ ns, g.frees n (g.thread l)) → h.thread l = (g.thread l).freed clk
  kept : ∀ l, l < 32 → (∀ n ∈ ns, ¬ g.frees n (g.thread l)) → h.thread l = g.thread l

theorem Group.limited_foldl (clk : Nat) {ns : List Nat} (hns : ns.Nodup) (hlt : ∀ n ∈ ns, n < 16) (g : Group) :
    g.Limited clk ns (ns.foldl (Group.limit clk) g) := by
  induction ns generalizing g with
  | nil => exact ⟨.refl g, rfl, fun _ _ => by simp, fun _ _ h => by simp at h, fun _ _ _ => rfl⟩
  | cons n r ih =>
    obtain ⟨hn, hr⟩ := List.nodup_cons.mp hns
    obtain ⟨hn16, hr16⟩ := List.forall_mem_cons.mp hlt
    have rest := ih hr hr16 (g.limit clk n)
    -- the masks of r are as they were in g, so they free in the new group what they free in g
    have later {m : Nat} (hm : m ∈ r) (t : Thread) : (g.limit clk n).frees m t ↔ g.frees m t := by
      rw [Group.frees, Group.frees, Group.present_limit, Group.join_limit (hr16 m hm), if_neg (by rintro rfl; exact hn hm)]
    refine ⟨Group.steered_limit.trans rest.steered, rest.present.trans Group.present_limit, fun m hm => ?_, fun l hl hf => ?_, fun l hl hk => ?_⟩
    · rw [List.foldl_cons, rest.joins m hm, Group.present_limit, Group.join_limit hm]
      by_cases e : m = n
      · subst e; simp [hn]
      · simp [e]
    · by_cases hf1 : g.frees n (g.thread l)
      · have ht := Group.thread_limit_freed (clk := clk) hl hf1
        rw [List.foldl_cons, rest.kept l hl fun m _ hc => ?_, ht]
        rw [ht] at hc
        simp [Group.frees, Thread.freed] at hc
      · have ht := Group.thread_limit_kept (clk := clk) hl hf1
        obtain ⟨m, hm, hfm⟩ := hf
        have hmr : m ∈ r := (List.mem_cons.mp hm).resolve_left (by rintro rfl; exact hf1 hfm)
        rw [List.foldl_cons, rest.freed l hl ⟨m, hmr, by rw [ht]; exact (later hmr _).mpr hfm⟩, ht]
    · have ht := Group.thread_limit_kept (clk := clk) hl (hk n (List.mem_cons_self ..))
      rw [List.foldl_cons, rest.kept l hl fun m hm => ?_, ht]
      rw [ht, later hm]
      exact hk m (List.mem_cons_of_mem _ hm)

/-- An EXIT's group with its threads past the word and those of act gone. -/
def Group.left (g : Group) (mask act : W32) : Group := (g.updThreads mask Thread.past).updThreads act fun t => { t with wait := .empty }

theorem Group.thread_left (g : Group) (mask act : W32) (hsub : ∀ l, act.getLsbD l = true → mask.getLsbD l = true) {l : Nat} (hl : l < 32) :
    (g.left mask act).thread l = if act.getLsbD l then { (g.thread l).past with wait := .empty }
      else if mask.getLsbD l then (g.thread l).past else g.thread l := by
  rw [Group.left, Group.thread_updThreads _ _ _ hl, Group.thread_updThreads _ _ _ hl]
  by_cases ha : act.getLsbD l = true
  · simp [ha, hsub l ha]
  · simp [ha]
theorem Group.present_left (g : Group) (mask act : W32) (hsub : ∀ l, act.getLsbD l = true → mask.getLsbD l = true) :
    (g.left mask act).present = g.present &&& ~~~act := by
  refine BitVec.eq_of_getLsbD_eq fun l hl => ?_
  rw [Group.present_bit _ hl, Group.thread_left g mask act hsub hl, BitVec.getLsbD_and, BitVec.getLsbD_not, decide_eq_true hl,
    Group.present_bit _ hl]
  by_cases ha : act.getLsbD l = true
  · simp [ha]
  · by_cases hm : mask.getLsbD l = true
    · simp [ha, hm, Thread.past]
    · simp [ha, hm]

/-- The group of an EXIT: its threads past the word, those of act gone, every rejoin mask limited to the rest (R141). -/
def Group.exits (g : Group) (mask act : W32) (clk : Nat) : Group := (List.range 16).foldl (Group.limit clk) (g.left mask act)
theorem Group.limited_exits (g : Group) (mask act : W32) (clk : Nat) : (g.left mask act).Limited clk (List.range 16) (g.exits mask act clk) :=
  Group.limited_foldl clk List.nodup_range (fun _ => List.mem_range.mp) (g.left mask act)
theorem Group.steered_exits (g : Group) (mask act : W32) (clk : Nat) : g.Steered (g.exits mask act clk) :=
  Group.Steered.trans (show g.Steered (g.left mask act) from rfl) (Group.limited_exits g mask act clk).steered

section
variable {g : Group} {mask act : W32} (hsub : ∀ l, act.getLsbD l = true → mask.getLsbD l = true) (clk : Nat)
include hsub

theorem Group.present_exits : (g.exits mask act clk).present = g.present &&& ~~~act :=
  (Group.limited_exits g mask act clk).present.trans (Group.present_left g mask act hsub)
theorem Group.join_exits {n : Nat} (hn : n < 16) : (g.exits mask act clk).join n = g.join n &&& (g.present &&& ~~~act) := by
  rw [(Group.limited_exits g mask act clk).joins n hn, if_pos (List.mem_range.mpr hn), Group.present_left g mask act hsub]
  rfl
/-- A thread of the group after an EXIT: gone, past the word, or freed from the mask it waited on (R141, R148). -/
theorem Group.thread_exits (hrun : ∀ l, l < 32 → mask.getLsbD l = true → (g.thread l).wait = .run) {l : Nat} (hl : l < 32) :
    (g.exits mask act clk).thread l =
      if act.getLsbD l then { (g.thread l).past with wait := .empty }
      else if mask.getLsbD l then (g.thread l).past
      else match (g.thread l).wait with
        | .jarr n => if n < 16 ∧ g.join n ≠ 0 ∧ g.join n &&& (g.present &&& ~~~act) = 0 then (g.thread l).freed clk else g.thread l
        | _ => g.thread l := by
  have lim := Group.limited_exits g mask act clk
  have ht := Group.thread_left g mask act hsub hl
  have hfrees (n : Nat) (t : Thread) :
      (g.left mask act).frees n t ↔ g.join n ≠ 0 ∧ g.join n &&& (g.present &&& ~~~act) = 0 ∧ t.wait = .jarr n := by
    rw [Group.frees, Group.present_left g mask act hsub]; rfl
  by_cases ha : act.getLsbD l = true
  · rw [if_pos ha] at ht ⊢
    rw [lim.kept l hl fun n _ => ?_, ht]
    simp [ht, hfrees]
  rw [if_neg ha] at ht ⊢
  by_cases hm : mask.getLsbD l = true
  · rw [if_pos hm] at ht ⊢
    rw [lim.kept l hl fun n _ => ?_, ht]
    simp [ht, hfrees, Thread.past, hrun l hl hm]
  rw [if_neg hm] at ht ⊢
  split
  · next n hw =>
    split
    · next hc => rw [lim.freed l hl ⟨n, List.mem_range.mpr hc.1, by rw [ht, hfrees]; exact ⟨hc.2.1, hc.2.2, hw⟩⟩, ht]
    · next hc =>
      rw [lim.kept l hl fun k hk hf => ?_, ht]
      rw [ht, hfrees, hw, TWait.jarr.injEq] at hf
      obtain ⟨hz, he, rfl⟩ := hf
      exact hc ⟨List.mem_range.mp hk, hz, he⟩
  · next hno =>
    rw [lim.kept l hl fun k _ hf => ?_, ht]
    rw [ht, hfrees] at hf
    exact hno k hf.2.2
end

/-! A slot given up (R141). -/

/-- Nothing of the package differs but counters of its cores. -/
structure SameSlots (s t : State) : Prop where
  rest : t = { s with cores := t.cores }
  groups : ∀ c k, t.group? c k = s.group? c k

theorem SameSlots.refl (s : State) : SameSlots s s := ⟨rfl, fun _ _ => rfl⟩
theorem SameSlots.countCore (s : State) (c n k : Nat) : SameSlots s (s.countCore c n k) := by
  refine ⟨rfl, fun d j => ?_⟩
  unfold State.group? State.countCore
  by_cases hd : d = c
  · subst hd; rw [State.core_updCore]
  · rw [State.core_updCore_ne _ _ _ _ hd]
theorem SameSlots.cur_eq {s t : State} (h : SameSlots s t) : t.cur = s.cur := by rw [h.rest]
theorem SameSlots.g_eq {s t : State} (h : SameSlots s t) : t.g = s.g := by
  rw [State.g, State.g, State.group, State.group, h.cur_eq, h.groups]

theorem State.group?_freeTmpls_none {s : State} {c k : Nat} (gone : Nat → Bool) (h : s.group? c k = none) :
    (s.freeTmpls gone).group? c k = none := by
  unfold State.group? State.core at *
  simp only [State.freeTmpls, aget_map_value]
  cases hc : aget s.cores c with
  | none => rfl
  | some d =>
    rw [hc] at h
    simp only [Option.map_some, Option.getD_some, aget_map_value] at h ⊢
    rw [h]; rfl
theorem State.group?_sweep1_none {s : State} {c k : Nat} (h : s.group? c k = none) : s.sweep1.group? c k = none := by
  unfold State.sweep1
  dsimp only
  split
  · exact h
  · exact State.group?_freeTmpls_none _ h
theorem State.group?_sweep_none {s : State} {c k : Nat} (h : s.group? c k = none) : s.sweep.group? c k = none := by
  unfold State.sweep
  split
  · exact h
  · exact State.group?_sweep1_none (State.group?_sweep1_none (State.group?_sweep1_none (State.group?_sweep1_none h)))
theorem State.group?_dropGroup (s : State) (c k : Nat) : (s.dropGroup c k).group? c k = none := by
  unfold State.dropGroup
  split
  · next h => exact h
  · simp [State.group?]
/-- A group without threads and without a fault to report leaves its slot free (R141, R366). -/
theorem State.group?_groupEnd {s : State} {c k : Nat} (hp : (s.group c k).present = 0) (hf : State.firstErr (s.group c k) 4095 = none) :
    (s.groupEnd c k).group? c k = none := by
  unfold State.groupEnd
  rw [hp, hf]
  exact State.group?_sweep_none (State.group?_dropGroup ..)
theorem State.groupEnd_present {s : State} {c k : Nat} (hp : (s.group c k).present ≠ 0) : s.groupEnd c k = s :=
  if_pos (bne_iff_ne.mpr hp)

/-! EXIT (R141). -/

/-- The core's count of the masks an EXIT of act empties while a thread waits on them (R148). -/
def State.countLost (s : State) (act : W32) : State :=
  let lost := (List.range 16).filter fun n => s.g.join n != 0 && s.g.join n &&& ~~~act == 0 && s.g.awaited n
  if lost.isEmpty then s else s.countCore s.cur.core 0x103 lost.length
theorem SameSlots.countLost (s : State) (act : W32) : SameSlots s (s.countLost act) := by
  unfold State.countLost
  dsimp only
  split
  · exact .refl s
  · exact .countCore ..
/-- EXIT names no register, so it kills none. -/
theorem Group.finished_exit (g : Group) (c : Ctl) (m : W32) (act : Bool) : g.finished (.exit c) m act = g.updThreads m Thread.past := by
  simp [Group.finished, Instr.tab, OpTab.killed]
theorem State.finish_exit {s : State} (c : Ctl) (hr : s.cur.replay = false) :
    s.finish (.exit c) = s.updG fun g => g.updThreads s.cur.mask Thread.past := by
  refine (State.finish_push (.exit c) _ rfl s [] hr rfl).trans ?_
  simp only [Group.finished_exit, List.foldl_nil]
/-- The state an EXIT leaves, before a group without threads ends. -/
def State.exited (s : State) (c : Ctl) : State :=
  ((s.countLost (s.active c)).finish (.exit c)).updG fun g =>
    (List.range 16).foldl (Group.limit (s.countLost (s.active c)).cur.last) (g.updThreads (s.active c) fun t => { t with wait := .empty })
theorem exec_exit {s : State} {c : Ctl} (ha : s.active c ≠ 0) :
    exec (.exit c) s = .next ((s.exited c).groupEnd (s.exited c).cur.core (s.exited c).cur.slot) :=
  if_neg (by simpa using ha)
/-- An EXIT leaves its group as `exits` says. -/
theorem State.exited_eq {s : State} {c : Ctl} (hI : Issuing s) :
    s.exited c = (s.countLost (s.active c)).updG fun g => g.exits s.cur.mask (s.active c) s.cur.last := by
  have hcur := (SameSlots.countLost s (s.active c)).cur_eq
  unfold State.exited
  rw [State.finish_exit c (by rw [hcur]; exact hI.2.1), State.updG_updG, hcur]
  rfl

/-- An EXIT changes its own group alone, but for a count (R141). -/
theorem State.exited_spec {s : State} (c : Ctl) (hI : Issuing s) : (s.exited c).cur = s.cur
    ∧ s.exited c = { s with cores := (s.exited c).cores }
    ∧ (∀ d j, (d, j) ≠ (s.cur.core, s.cur.slot) → (s.exited c).group? d j = s.group? d j)
    ∧ (s.exited c).g = s.g.exits s.cur.mask (s.active c) s.cur.last := by
  have counted := SameSlots.countLost s (s.active c)
  rw [State.exited_eq hI]
  have only := OnlyGroup.updG (s.countLost (s.active c)) fun g => g.exits s.cur.mask (s.active c) s.cur.last
  refine ⟨?_, ?_, fun d j hne => ?_, ?_⟩
  · rw [State.updG_cur, counted.cur_eq]
  · rw [only.rest, counted.rest]
  · rw [only.slots d j (by rwa [counted.cur_eq]), counted.groups]
  · rw [State.g_updG _ _ (by rw [counted.groups, counted.cur_eq]; exact hI.1), counted.g_eq]

/-- Settles O18: words that go on, that hold their threads and that trap each leave their group steered, and an EXIT limits the
rejoin masks one after the other to the threads that are left. -/
theorem waitsHeadersAndExits : Obligations.WaitsHeadersAndExits := by
  unfold Obligations.WaitsHeadersAndExits
  constructor
  · intro s c hI
    exact ⟨⟨_, rfl, steers_done rfl hI _⟩, fun m hm h => ⟨_, exec_waitf_goes hm h, steers_done rfl hI _⟩,
      fun m hm h ha => ⟨_, exec_waitf_holds hm h ha, steers_hold hI c _⟩, fun m ti ha h => exec_waitf_traps ha h,
      fun a _ _ => ⟨_, exec_sleep, steers_finish_wait rfl hI c _⟩, fun w sa sb n hw h => ⟨_, exec_header_opens hw h, steers_header hI _⟩,
      fun w sa sb n hw h => exec_header_holds hw h, fun w sa sb n ti h => exec_header_traps h⟩
  · intro s c hI hst ha
    obtain ⟨hcur, hrest, hslots, hg⟩ := State.exited_spec c hI
    have hgroup : (s.exited c).group (s.exited c).cur.core (s.exited c).cur.slot = s.g.exits s.cur.mask (s.active c) s.cur.last := hg
    have hsub (l : Nat) : (s.active c).getLsbD l = true → s.cur.mask.getLsbD l = true := State.mask_of_active
    have hpresent := Group.present_exits hsub s.cur.last (g := s.g)
    have hsteered := Group.steered_exits s.g s.cur.mask (s.active c) s.cur.last
    refine ⟨_, exec_exit ha, fun hleft => ?_, fun hleft herr => ?_⟩
    · rw [State.groupEnd_present (by rw [hgroup, hpresent]; exact hleft)]
      obtain ⟨hv, hs, hp⟩ := hsteered.ends
      refine ⟨hrest, hslots, fun n hn => ?_, ?_, fun l hl => ?_, fun r l _ => ?_, fun r => ?_, fun p l _ => ?_⟩
      · rw [hg, Group.join_exits hsub _ hn]
      · rw [hg, hpresent]
      · rw [hg]
        exact Group.thread_exits hsub _ hst hl
      · rw [State.endV, hg, hv]; rfl
      · rw [State.endS, hg, hs]; rfl
      · rw [State.endP, hg, hp]; rfl
    · rw [← hcur]
      refine State.group?_groupEnd (by rw [hgroup, hpresent]; exact hleft) ?_
      rw [hgroup]
      refine State.firstErr_eq_none fun f hf _ => ?_
      rw [hsteered.flag_eq]
      exact herr f hf

end Sys2Proof.Machine
end

section
/-! The one rounding (R96): a count of whole places, and one more when the rest calls for it. -/
namespace Sys2Proof.Machine

/-- Whether the count n of whole places goes up by one, where r, less than a place w, is left (R96). -/
def roundsUp (rm : Rm) (neg : Bool) (n r w : Nat) : Bool :=
  match rm with
  | .rz => false
  | .ru => !neg && r != 0
  | .rd => neg && r != 0
  | .rn => w < 2 * r || (2 * r == w && n % 2 == 1)

theorem lt_two_pow_bitLen (m : Nat) : m < 2 ^ bitLen m := by
  unfold bitLen
  split
  next h => simp [h]
  next => exact Nat.lt_log2_self

/-- A magnitude with the bits of d − 2 or fewer is less than half of 2^d. -/
theorem two_mul_lt_of_bitLen {m d : Nat} (h : bitLen m + 1 < d) : 2 * m < 2 ^ d :=
  calc 2 * m < 2 ^ (bitLen m + 1) := by rw [Nat.pow_succ']; exact Nat.mul_lt_mul_of_pos_left (lt_two_pow_bitLen m) (by decide)
    _ ≤ 2 ^ d := Nat.pow_le_pow_right (by decide) (Nat.le_of_lt h)

/-- Rounding at a place above the magnitude's last: the short cut for a place far above is no exception. -/
theorem roundAt_of_lt (rm : Rm) (neg : Bool) (m : Nat) {e q : Int} (h : e < q) :
    roundAt rm neg m e q = m / 2 ^ (q - e).toNat
      + if roundsUp rm neg (m / 2 ^ (q - e).toNat) (m % 2 ^ (q - e).toNat) (2 ^ (q - e).toNat) then 1 else 0 := by
  unfold roundAt
  rw [if_neg (by omega)]
  generalize (q - e).toNat = d
  by_cases far : bitLen m + 1 < d
  · have half : 2 * m < 2 ^ d := two_mul_lt_of_bitLen far
    have whole : m / 2 ^ d = 0 := Nat.div_eq_of_lt (by omega)
    have rest : m % 2 ^ d = m := Nat.mod_eq_of_lt (by omega)
    have stays : roundsUp .rn neg 0 m (2 ^ d) = false := by simp [roundsUp]; omega
    rw [whole, rest]
    cases rm with
    | rn => simp [far, stays]
    | rz | ru | rd => simp [far, roundsUp, apply_ite]
  · cases rm <;> simp [far, roundsUp, apply_ite (m / 2 ^ d + ·)]

/-- A mode that never goes up gives the number of whole places. -/
theorem roundAt_floor {rm : Rm} {neg : Bool} (m : Nat) {e q : Int} (h : e < q) (down : ∀ n r w, roundsUp rm neg n r w = false) :
    let w := 2 ^ (q - e).toNat
    roundAt rm neg m e q * w ≤ m ∧ m < (roundAt rm neg m e q + 1) * w := by
  intro w
  have hm : m / w * w + m % w = m := Nat.div_add_mod' m w
  have hr : m % w < w := Nat.mod_lt m (Nat.two_pow_pos _)
  have hk : roundAt rm neg m e q = m / w := by simp [roundAt_of_lt rm neg m h, down, w]
  rw [hk, Nat.add_mul]
  omega
/-- A mode that goes up at every rest gives the least number of places that holds the magnitude. -/
theorem roundAt_ceil {rm : Rm} {neg : Bool} (m : Nat) {e q : Int} (h : e < q) (up : ∀ n r w, roundsUp rm neg n r w = (r != 0)) :
    let w := 2 ^ (q - e).toNat
    m ≤ roundAt rm neg m e q * w ∧ roundAt rm neg m e q * w < m + w := by
  intro w
  have hm : m / w * w + m % w = m := Nat.div_add_mod' m w
  have hr : m % w < w := Nat.mod_lt m (Nat.two_pow_pos _)
  have hk : roundAt rm neg m e q = m / w + if m % w != 0 then 1 else 0 := by rw [roundAt_of_lt rm neg m h, up]
  rw [hk, Nat.add_mul]
  split
  next rest =>
    have : m % w ≠ 0 := bne_iff_ne.mp rest
    omega
  next whole =>
    have : m % w = 0 := by simpa using whole
    omega
/-- To nearest, the rest left is at most half a place either way; where it is half a place, the count is even. -/
theorem roundAt_nearest (neg : Bool) (m : Nat) {e q : Int} (h : e < q) :
    let w := 2 ^ (q - e).toNat
    let k := roundAt .rn neg m e q
    (2 * m ≤ (2 * k + 1) * w ∧ 2 * k * w ≤ 2 * m + w) ∧ (2 * m = (2 * k + 1) * w ∨ 2 * k * w = 2 * m + w → k % 2 = 0) := by
  intro w k
  have hm : m / w * w + m % w = m := Nat.div_add_mod' m w
  have hr : m % w < w := Nat.mod_lt m (Nat.two_pow_pos _)
  have hk : k = m / w + if roundsUp .rn neg (m / w) (m % w) w then 1 else 0 := roundAt_of_lt .rn neg m h
  have up : roundsUp .rn neg (m / w) (m % w) w = true ↔ w < 2 * (m % w) ∨ 2 * (m % w) = w ∧ m / w % 2 = 1 := by simp [roundsUp]
  rw [Nat.add_mul, Nat.mul_assoc, Nat.one_mul]
  split at hk
  next goes =>
    have atLeastHalf := up.mp goes
    rw [hk, Nat.add_mul, Nat.one_mul]
    omega
  next stays =>
    have atMostHalf := mt up.mpr stays
    rw [hk, Nat.add_zero]
    omega

/-- Settles O13: each mode goes up never (`roundAt_floor`), at every rest (`roundAt_ceil`) or to the nearest (`roundAt_nearest`). -/
theorem roundingIsNearest : Obligations.RoundingIsNearest := by
  intro neg m e q h w
  obtain ⟨near, even⟩ := roundAt_nearest neg m h
  exact ⟨roundAt_floor m h fun _ _ _ => rfl, roundAt_floor m h fun _ _ _ => rfl, roundAt_ceil m h fun _ _ _ => rfl,
    roundAt_floor m h fun _ _ _ => rfl, roundAt_ceil m h fun _ _ _ => rfl, near, even⟩

end Sys2Proof.Machine
end

section
/-! Conversions (R99, R100, R164, R165): the word goes on where no active lane overflows, and traps CVTOVF where one does. -/
namespace Sys2Proof.Machine

section
variable {α : Type} {s k : State} {i : Instr} {act : W32} {y : Nat → Option α}

/-- Where every active lane has a result, the word goes on (R100). -/
theorem State.orOverflow_goes (h : ∀ l, l < 32 → act.getLsbD l = true → (y l).isSome = true) :
    s.orOverflow i act (fun l => (y l).isNone) k = k.done i := by
  have noLane : (maskOf fun l => act.getLsbD l && (y l).isNone) = 0 := maskOf_eq_zero fun l hl => by
    cases ha : act.getLsbD l with
    | false => rfl
    | true => exact Option.isNone_eq_false_iff.mpr (h l hl ha)
  exact if_pos (beq_iff_eq.mpr noLane)
/-- Where one has none, it traps with the lanes that have none (R100). -/
theorem State.orOverflow_traps {l : Nat} (hl : l < 32) (ha : act.getLsbD l = true) (hn : y l = none) :
    s.orOverflow i act (fun l => (y l).isNone) k
      = .next (s.trapW 0x0B (maskOf fun l => act.getLsbD l && (y l).isNone) 0 s.cur.word.toNat 0) := by
  have someLane : (maskOf fun l => act.getLsbD l && (y l).isNone) ≠ 0 := fun h0 => by
    have bit := maskOf_bit (fun l => act.getLsbD l && (y l).isNone) l hl
    simp [h0, ha, hn] at bit
  exact if_neg (mt beq_iff_eq.mp someLane)

end

/-- A word with a vector result, U from sources that are (R75). -/
theorem puts_vec_u {i : Instr} {s : State} (hI : Issuing s) {d : Opnd} (hw : i.tab.map OpTab.vwrites = some d.vec) {m : W32}
    {f : Nat → W32} {u : Bool} {lat : Lat} (hu : u = true → ∀ l, f l = f 0)
    (he : exec i s = (s.wv d m f (if u then some (.u (f 0)) else none) lat).done i) : PutsV i s d m f := by
  refine puts_vec i s hI d hw m f _ lat (fun x hx l _ => ?_) he
  split at hx
  next h =>
    obtain rfl := Option.some.inj hx
    exact (hu h l).symm
  next => nomatch hx

section
variable {c : Ctl} {d a b e : Opnd} {dt ty : CvtTy} {f : Fmt} {rm : Rm} {pol : Pol} {s : State}

/-- The 64 bits a CVT takes its source from (R164). -/
def State.cvtBits (s : State) (t : CvtTy) (a : Opnd) (l : Nat) : W64 := if t.wide then s.rd64 a l else (s.rd a l).setWidth 64
/-- Whether the shape of a CVT's source is U (R75, R77). -/
def State.cvtU (s : State) (t : CvtTy) (a : Opnd) : Bool := if t.wide then s.isUw a else s.isU a
/-- The code CVT makes of its source in a lane, if it does not overflow (R164). -/
def State.cvtOf (s : State) (dt ty : CvtTy) (rm : Rm) (pol : Pol) (a : Opnd) (l : Nat) : Option Nat := cvtCode dt ty rm pol (s.cvtBits ty a l)
theorem State.cvtBits_of_cvtU (h : s.cvtU ty a = true) (l : Nat) : s.cvtBits ty a l = s.cvtBits ty a 0 := by
  unfold State.cvtU at h
  unfold State.cvtBits
  split at h
  next wide => rw [if_pos wide, if_pos wide, rd64_of_isUw s a h l]
  next narrow => rw [if_neg narrow, if_neg narrow, rd_of_isU s a h l]
theorem State.cvtOf_of_cvtU (h : s.cvtU ty a = true) (l : Nat) : s.cvtOf dt ty rm pol a l = s.cvtOf dt ty rm pol a 0 :=
  congrArg (cvtCode dt ty rm pol) (State.cvtBits_of_cvtU h l)

theorem exec_cvt : exec (.cvt c d a dt ty rm pol) s =
    s.orOverflow (.cvt c d a dt ty rm pol) (s.active c) (fun l => (s.cvtOf dt ty rm pol a l).isNone)
      (if dt.wide then s.wv64 d (s.active c) (fun l => BitVec.ofNat 64 ((s.cvtOf dt ty rm pol a l).getD 0)) (s.cvtU ty a) .f
        else s.wv d (s.active c) (fun l => BitVec.ofNat 32 ((s.cvtOf dt ty rm pol a l).getD 0))
          (if s.cvtU ty a then some (.u (BitVec.ofNat 32 ((s.cvtOf dt ty rm pol a 0).getD 0))) else none) .f) := rfl
theorem laneResult_cvt (hd : dt.wide = false)
    (h : ∀ l, l < 32 → (s.active c).getLsbD l = true → (s.cvtOf dt ty rm pol a l).isSome = true) :
    LaneResult (.cvt c d a dt ty rm pol) s d (s.active c) fun l => BitVec.ofNat 32 ((s.cvtOf dt ty rm pol a l).getD 0) := by
  intro hI _
  refine puts_vec_u (lat := .f) hI ?regs
    (fun hu l => congrArg (fun y => BitVec.ofNat 32 (Option.getD y 0)) (State.cvtOf_of_cvtU hu l)) ?word
  case regs => cases d <;> simp [Instr.tab, OpTab.vwrites, dk, hd, DstKind.regs, Opnd.vec]
  case word =>
    rw [exec_cvt, State.orOverflow_goes h, hd]
    rfl
theorem pairResult_cvt (hd : dt.wide = true)
    (h : ∀ l, l < 32 → (s.active c).getLsbD l = true → (s.cvtOf dt ty rm pol a l).isSome = true) :
    PairResult (.cvt c d a dt ty rm pol) s d (s.active c) fun l => BitVec.ofNat 64 ((s.cvtOf dt ty rm pol a l).getD 0) := by
  intro hI _
  refine puts_vec64 _ s hI d ?regs _ _ (s.cvtU ty a) .f
    (fun hu l _ => congrArg (fun y => BitVec.ofNat 64 (Option.getD y 0)) (State.cvtOf_of_cvtU hu l)) ?word
  case regs => cases d <;> simp [Instr.tab, OpTab.vwrites, dk, hd, DstKind.regs, Opnd.pair]
  case word =>
    rw [exec_cvt, State.orOverflow_goes h, hd]
    rfl

/-- The sources PACK reads (R165). -/
def packSources (f : Fmt) (a b e : Opnd) : List Opnd := if f.width == 16 then [a, b] else [a, b, e]
/-- What PACK makes of its sources in a lane, if neither element overflows (R165). -/
def State.packOf (s : State) (f : Fmt) (rm : Rm) (pol : Pol) (a b e : Opnd) (l : Nat) : Option W32 :=
  pack32 f rm pol (s.rd a l) (s.rd b l) (if f.width == 16 then 0 else s.rd e l)
theorem State.packOf_of_isU (h : (packSources f a b e).all s.isU = true) (l : Nat) :
    s.packOf f rm pol a b e l = s.packOf f rm pol a b e 0 := by
  unfold packSources at h
  unfold State.packOf
  split at h
  next two =>
    obtain ⟨ha, hb⟩ : s.isU a = true ∧ s.isU b = true := by simpa using h
    rw [rd_of_isU s a ha l, rd_of_isU s b hb l, if_pos two, if_pos two]
  next three =>
    obtain ⟨ha, hb, he⟩ : s.isU a = true ∧ s.isU b = true ∧ s.isU e = true := by simpa using h
    rw [rd_of_isU s a ha l, rd_of_isU s b hb l, rd_of_isU s e he l]

theorem exec_pack : exec (.pack c d a b e f rm pol) s = s.orOverflow (.pack c d a b e f rm pol) (s.active c)
    (fun l => (s.packOf f rm pol a b e l).isNone) (s.vec c d (packSources f a b e) .f fun l => (s.packOf f rm pol a b e l).getD 0) := rfl
theorem laneResult_pack (h : ∀ l, l < 32 → (s.active c).getLsbD l = true → (s.packOf f rm pol a b e l).isSome = true) :
    LaneResult (.pack c d a b e f rm pol) s d (s.active c) fun l => (s.packOf f rm pol a b e l).getD 0 := by
  intro hI _
  refine puts_vec_u (lat := .f) hI ?regs (fun hu l => congrArg (Option.getD · 0) (State.packOf_of_isU hu l)) ?word
  case regs => cases d <;> simp [Instr.tab, OpTab.vwrites, DstKind.regs, Opnd.vec]
  case word => rw [exec_pack, State.orOverflow_goes h]; rfl

end

/-- Both ways of a choice have a result. -/
theorem isSome_ite {α : Type} {p : Prop} {_ : Decidable p} {x y : Option α} (hx : x.isSome = true) (hy : y.isSome = true) :
    (if p then x else y).isSome = true :=
  iteInduction (motive := fun z : Option α => z.isSome = true) (fun _ => hx) fun _ => hy
/-- Every floating format but E2M1 and E1M2 has a NaN (R92). -/
theorem nanCode_isSome {f : Fmt} (hi : f.isInt = false) (h2 : f ≠ .e2m1) (h1 : f ≠ .e1m2) : (nanCode f).isSome = true := by
  cases f <;> simp_all [Fmt.isInt, nanCode]
/-- Only TRAP leaves an overflow without a code (R99). -/
theorem overflowResult_isSome (t : CvtTy) (neg : Bool) (rm : Option Rm) {pol : Pol} (hp : pol ≠ .trap) :
    (overflowResult t neg rm pol).isSome = true := by
  unfold overflowResult
  split
  next => exact absurd rfl hp
  next =>
    split
    case h_4 f _ h2 h1 =>
      split
      next => rfl
      next hi =>
        have withNan : (nanCode f).isSome = true := nanCode_isSome (Bool.eq_false_iff.mpr hi) h2 h1
        cases pol with
        | trap => exact absurd rfl hp
        | sat => rfl
        | nan => exact withNan
        | inf => exact isSome_ite (isSome_ite rfl withNan) rfl
    all_goals rfl
/-- Only TRAP leaves a conversion without a code (R99). -/
theorem convert_isSome (x : Val) (t : CvtTy) (rm : Rm) {pol : Pol} (hp : pol ≠ .trap) : (convert x t rm pol).isSome = true := by
  have overflows (neg : Bool) (rm : Option Rm) := overflowResult_isSome t neg rm hp
  have asZero : (if pol == .trap then none else some 0 : Option Nat).isSome = true := by simp [hp]
  cases x with
  | nan =>
    cases t with
    | el f =>
      unfold convert
      dsimp only
      cases nanCode f with
      | some n => rfl
      | none => exact asZero
    | i32 | n32 | i64 | n64 => exact asZero
  | inf neg => exact isSome_ite rfl (overflows neg none)
  | fin neg m e =>
    have bounded {p : Prop} {_ : Decidable p} (n : Nat) : (if p then overflowResult t neg (some rm) pol else some n).isSome = true :=
      isSome_ite (overflows neg rm) rfl
    exact isSome_ite (isSome_ite (isSome_ite rfl (bounded _)) (bounded _)) (bounded _)

/-- Settles O12: a word whose active lanes all have a code goes on (`State.orOverflow_goes`) and writes them; one with a lane that
has none traps with all such lanes (`State.orOverflow_traps`). -/
theorem conversionResults : Obligations.ConversionResults := by
  intro s src pk
  exact ⟨fun c d a dt ty rm pol hd h => laneResult_cvt hd h, fun c d a dt ty rm pol hd h => pairResult_cvt hd h,
    fun c d a dt ty rm pol l hl ha hn => exec_cvt.trans (State.orOverflow_traps hl ha hn), fun c d a b e f rm pol h => laneResult_pack h,
    fun c d a b e f rm pol l hl ha hn => exec_pack.trans (State.orOverflow_traps hl ha hn), fun x t rm pol hp => convert_isSome x t rm hp⟩

end Sys2Proof.Machine
end

section
/-! Rejoin masks (R143 to R148): a mask written, in a word that goes on or that leaves its threads waiting. -/
namespace Sys2Proof.Machine

/-- A word begun in a group already steered by k. -/
theorem Steers.before {i : Instr} {s t : State} {vs ss : List Nat} {f f' : Nat → Thread → Thread} {js : Nat → W32} {k : Group → Group}
    (hlive : (s.group? s.cur.core s.cur.slot).isSome = true) (hk : s.g.Steered (k s.g)) (h : Steers i (s.updG k) (s.updG k) t vs ss f js)
    (hf : ∀ l, l < 32 → f l ((k s.g).thread l) = f' l (s.g.thread l)) : Steers i s s t vs ss f' js := by
  have hg := State.g_updG s k hlive
  obtain ⟨hv, hs, hp⟩ := hk.ends
  refine ⟨rfl, (OnlyGroup.updG s k).trans h.only, ?_, fun l hl => ?_, h.joins, fun r l hl hr hkill => ?_, fun r hr => ?_, fun p l hp7 => ?_⟩
  · rw [h.group, hg, hk]
  · rw [h.threads l hl, hg, hf l hl]
  · rw [h.vecs r l hl hr hkill, State.endV, hg, hv, State.endV]
  · rw [h.scalars r hr, State.endS, hg, hs, State.endS]
  · rw [h.preds p l hp7, State.endP, hg, hp, State.endP]

section
variable {g : Group} {n clk : Nat} {v : W32}

theorem Group.setJoin_kept (h : v &&& g.present ≠ 0) :
    g.setJoin n v clk = { g with joins := vset 16 0 g.joins n fun _ => v &&& g.present } := if_pos (bne_iff_ne.mpr h)
theorem Group.setJoin_emptied (h : v &&& g.present = 0) :
    g.setJoin n v clk = Group.updThreads { g with joins := vset 16 0 g.joins n fun _ => 0 } (maskOf fun l => (g.thread l).wait == .jarr n)
      (Thread.freed · clk) := by
  simp only [Group.setJoin, h]
  rfl
theorem Group.steered_setJoin : g.Steered (g.setJoin n v clk) := by
  by_cases h : v &&& g.present = 0
  · rw [Group.setJoin_emptied h]; rfl
  · rw [Group.setJoin_kept h]; rfl
/-- A mask keeps only threads that have not exited (R143). -/
theorem Group.join_setJoin {m : Nat} (hm : m < 16) : (g.setJoin n v clk).join m = if m = n then v &&& g.present else g.join m := by
  by_cases h : v &&& g.present = 0
  · rw [Group.setJoin_emptied h, h]
    exact vset_getD 16 0 g.joins n m (fun _ => 0) hm
  · rw [Group.setJoin_kept h]
    exact vset_getD 16 0 g.joins n m (fun _ => v &&& g.present) hm
/-- A mask that becomes 0 frees the threads that wait on it (R148). -/
theorem Group.thread_setJoin {l : Nat} (hl : l < 32) : (g.setJoin n v clk).thread l =
    if v &&& g.present = 0 ∧ (g.thread l).wait = .jarr n then (g.thread l).freed clk else g.thread l := by
  by_cases h : v &&& g.present = 0
  · rw [Group.setJoin_emptied h, Group.thread_updThreads _ _ _ hl, maskOf_bit _ l hl]
    simp only [h, true_and, beq_iff_eq]
    rfl
  · rw [Group.setJoin_kept h, if_neg fun e => h e.1]
    rfl
end

section
variable (s : State) (n : Nat) (v : W32)

/-- What mask k reads once mask n is set to v (R143). -/
def State.joinSet (k : Nat) : W32 := if k = n then v &&& s.g.present else s.g.join k
/-- What becomes of a thread of the group as mask n is set to v (R148). -/
def State.rejoined (t : Thread) : Thread := if v &&& s.g.present = 0 ∧ t.wait = .jarr n then t.freed s.cur.last else t
end

section
variable {s : State} {c : Ctl} {n : BitVec 4} {v : W32}

theorem State.rejoined_of_run {n : Nat} {t : Thread} (h : t.wait = .run) : s.rejoined n v t = t := if_neg (by simp [h])

theorem State.thenAt_zero (f : Nat → Thread → Thread) (l : Nat) (t : Thread) :
    s.thenAt 0 f l t = if s.cur.mask.getLsbD l then t.past else t := by simp [State.thenAt]

/-- A word that sets a rejoin mask and goes on (R144, R146). -/
theorem steers_setJoin {i : Instr} {tb : OpTab} (hi : i.tab = some tb) (hI : Issuing s) (hst : Standing s) {n : Nat} {k : Group → Group}
    (hk : k s.g = s.g.setJoin n v s.cur.last) :
    Steers i s s ((s.updG k).finish i) [] [] (fun l t => if s.cur.mask.getLsbD l then t.past else s.rejoined n v t) (s.joinSet n v) := by
  have hsteered : s.g.Steered (k s.g) := hk ▸ Group.steered_setJoin
  have hI' : Issuing (s.updG k) := ⟨(State.live_updG s k).trans hI.1, by rw [State.updG_cur]; exact hI.2⟩
  have word := Steers.before hI.1 hsteered (steers_done hi hI' fun _ t => t)
    (f' := fun l t => if s.cur.mask.getLsbD l then t.past else s.rejoined n v t) fun l hl => by
      rw [State.thenAt_zero, State.updG_cur, hk, Group.thread_setJoin hl]
      change (if s.cur.mask.getLsbD l then (s.rejoined n v (s.g.thread l)).past else s.rejoined n v (s.g.thread l)) = _
      split
      next hm => rw [State.rejoined_of_run (hst l hl hm)]
      next => rfl
  refine { word with joins := fun m hm => ?_ }
  rw [word.joins m hm, State.g_updG s k hI.1, hk, Group.join_setJoin hm]
  rfl

theorem exec_jset {src : Option Opnd} (ha : s.active c ≠ 0) : exec (.jset c n src) s =
    .next ((s.updG fun g => g.setJoin n.toNat (src.elim (s.active c) fun a => s.rd a (firstLane (s.active c))) s.cur.last).finish
      (.jset c n src)) := by
  change (State.done (if s.active c == 0 then s else _) _) = _
  rw [if_neg (by simpa using ha)]
  cases src <;> rfl
theorem exec_jdrop (ha : s.active c ≠ 0) : exec (.jdrop c n) s =
    .next ((s.updG fun g => g.setJoin n.toNat (g.join n.toNat &&& ~~~s.active c) s.cur.last).finish (.jdrop c n)) := by
  change (State.done (if s.active c == 0 then s else _) _) = _
  rw [if_neg (by simpa using ha)]
  rfl
/-- The threads of a JARR wait, then are taken out of the mask (R145). -/
theorem exec_jarr (ha : s.active c ≠ 0) : exec (.jarr c n) s =
    .next ((s.updG fun g => (g.updThreads (s.cur.mask &&& ~~~s.active c) Thread.past).updThreads (s.active c) fun t =>
      { t with left := t.left - 1, wait := .jarr n.toNat }).updG fun g => g.setJoin n.toNat (g.join n.toNat &&& ~~~s.active c) s.cur.last) := by
  rw [State.updG_updG]
  exact if_neg (by simpa using ha)

theorem oneResult_jread (d : Opnd) : OneResult (.jread c d n) s d (s.active c) (s.g.join n.toNat) := by
  intro hI _
  refine puts_vs (lat := .i) _ s hI d ?_ _ _ rfl
  cases d <;> rfl

/-- A JARR whose threads hold keeps the threads that are present (R145). -/
theorem Steers.present_jarr {i : Instr} {t : State} {m : Nat} (hst : Standing s)
    (h : Steers i s s t [] [] (s.thenAt (s.active c) fun _ t => { t with left := t.left - 1, wait := .jarr m }) s.g.join) :
    t.g.present = s.g.present := by
  refine Group.present_congr fun l hl => ?_
  rw [h.threads l hl, State.thenAt]
  by_cases ha : (s.active c).getLsbD l = true
  · simp [ha, hst l hl (State.mask_of_active ha)]
  · rw [if_neg ha]
    split <;> simp [Thread.past]
theorem steers_jarr (hI : Issuing s) (hst : Standing s) (ha : s.active c ≠ 0) : let v := s.g.join n.toNat &&& ~~~s.active c
    ∃ t, exec (.jarr c n) s = .next t ∧ Steers (.jarr c n) s s t [] []
      (fun l t => if (s.active c).getLsbD l then
          (let w := { t with left := t.left - 1, wait := .jarr n.toNat }
           if v &&& s.g.present = 0 then w.freed s.cur.last else w)
        else if s.cur.mask.getLsbD l then t.past else s.rejoined n.toNat v t) (s.joinSet n.toNat v) := by
  intro v
  have waiting := steers_hold (i := .jarr c n) hI c fun t => { t with left := t.left - 1, wait := .jarr n.toNat }
  have hpresent := waiting.present_jarr hst
  have hjoin := waiting.joins n.toNat (by omega)
  refine ⟨_, exec_jarr ha, waiting.updG _ ((State.live_updG ..).trans hI.1) Group.steered_setJoin (fun l hl => ?_) fun m hm => ?_⟩
  · rw [Group.thread_setJoin hl, hpresent, hjoin, waiting.threads l hl, State.thenAt]
    by_cases hact : (s.active c).getLsbD l = true
    · simp [hact, v]
    · simp only [hact, Bool.false_eq_true, if_false]
      by_cases hm : s.cur.mask.getLsbD l = true
      · simp [hm, Thread.past, hst l hl hm]
      · simp only [hm, Bool.false_eq_true, if_false]
        rfl
  · rw [Group.join_setJoin hm, hpresent, hjoin, waiting.joins m hm]
    rfl
end

/-- Settles O17: JSET and JDROP write a mask and go on (`steers_setJoin`); JARR's threads wait before their mask is written (`steers_jarr`). -/
theorem rejoinMasks : Obligations.RejoinMasks := by
  intro s c n hI act put free rest
  refine ⟨fun d => oneResult_jread d, fun hst ha => ⟨?all, fun a _ => ?value, ?drop, steers_jarr hI hst ha⟩⟩
  case all => exact ⟨_, exec_jset ha, steers_setJoin rfl hI hst rfl⟩
  case value => exact ⟨_, exec_jset ha, steers_setJoin rfl hI hst rfl⟩
  case drop => exact ⟨_, exec_jdrop ha, steers_setJoin rfl hI hst rfl⟩

end Sys2Proof.Machine
end

section
/-! What fetches and trap records leave: the issue, the groups of every slot, the teams and the launches, whatever becomes of caches, page
tables, copies, twins, records in flight and the trap queue (R137, R356). -/
namespace Sys2Proof.Machine

/-- The issue, the groups of each core's slots, the teams and the launches. -/
def State.residents (s : State) : Cur × (Nat → List (Nat × Group)) × List (Nat × Team) × List (Nat × Launch) :=
  (s.cur, fun c => (s.core c).slots, s.teams, s.launches)

section
variable {s t : State} (h : t.residents = s.residents)
include h

theorem State.cur_of_residents : t.cur = s.cur := congrArg (·.1) h
theorem State.teams_of_residents : t.teams = s.teams := congrArg (·.2.2.1) h
theorem State.launches_of_residents : t.launches = s.launches := congrArg (·.2.2.2) h
theorem State.group?_of_residents (c k : Nat) : t.group? c k = s.group? c k :=
  congrArg (fun r : Cur × (Nat → List (Nat × Group)) × List (Nat × Team) × List (Nat × Launch) => aget (r.2.1 c) k) h
theorem State.g_of_residents : t.g = s.g := by
  rw [State.g, State.g, State.group, State.group, State.cur_of_residents h, State.group?_of_residents h]
theorem State.tm_of_residents : t.tm = s.tm := by
  rw [State.tm, State.tm, State.team, State.team, State.g_of_residents h, State.teams_of_residents h]
theorem State.doomsWith_of_residents (l : Nat) : t.doomsWith l = s.doomsWith l := by
  rw [State.doomsWith, State.doomsWith, State.launchRec, State.launchRec, State.launches_of_residents h]
theorem Issuing.of_residents (hI : Issuing s) : Issuing t := by
  rw [Issuing, State.cur_of_residents h, State.group?_of_residents h]
  exact hI
end

section
variable (s : State) (x line : Nat)

theorem State.residents_updCore {n : Nat} {f : Core → Core} (h : (f (s.core n)).slots = (s.core n).slots) :
    (s.updCore n f).residents = s.residents := by
  have slots (c : Nat) : ((s.updCore n f).core c).slots = (s.core c).slots := by
    by_cases hc : c = n
    · subst hc; rw [State.core_updCore, h]
    · rw [State.core_updCore_ne _ _ _ _ hc]
  exact congrArg (fun k => (s.cur, k, s.teams, s.launches)) (funext slots)
/-- Cores changed one by one, none in its slots. -/
theorem State.residents_mapCores {f : Nat × Core → Nat × Core} (hkey : ∀ c, (f c).1 = c.1) (hslots : ∀ c, (f c).2.slots = c.2.slots) :
    ({ s with cores := s.cores.map f } : State).residents = s.residents := by
  have hf : f = fun c => (c.1, (f c).2) := funext fun c => Prod.ext (hkey c) rfl
  have slots (c : Nat) : (State.core { s with cores := s.cores.map f } c).slots = (s.core c).slots := by
    rw [State.core, State.core, hf, aget_map_value]
    cases aget s.cores c with
    | none => rfl
    | some k => exact hslots (c, k)
  exact congrArg (fun k => (s.cur, k, s.teams, s.launches)) (funext slots)

@[simp] theorem State.updDie_residents (f : Die → Die) : (s.updDie x f).residents = s.residents := rfl
@[simp] theorem State.homeWr_residents (pa : Nat) (bs : List Byte) : (s.homeWr pa bs).residents = s.residents := rfl
@[simp] theorem State.countDie_residents (n k : Nat) : (s.countDie x n k).residents = s.residents := rfl
@[simp] theorem State.touchL2_residents (h : Hint) : (s.touchL2 x line h).residents = s.residents := rfl
@[simp] theorem State.forward_residents (p : DiffRec → Bool) : (s.forward p).residents = s.residents := rfl
@[simp] theorem State.forwardLine_residents : (s.forwardLine x line).residents = s.residents := rfl
@[simp] theorem State.dropCopy_residents : (s.dropCopy x line).residents = s.residents := rfl
@[simp] theorem State.l1Drop_residents (keep : Option Nat) : (s.l1Drop x line keep).residents = s.residents :=
  State.residents_mapCores s (fun _ => by split <;> rfl) fun _ => by split <;> rfl
@[simp] theorem State.homeWordsWr_residents (ws : List (Nat × W32)) : (s.homeWordsWr line ws).residents = s.residents :=
  foldl_keeps State.residents (fun t _ => State.homeWr_residents t _ _) ws s
@[simp] theorem State.merge_residents (r : DiffRec) : (s.merge r).residents = s.residents := by
  unfold State.merge
  rw [State.l1Drop_residents]
  exact State.homeWordsWr_residents s r.line r.words
@[simp] theorem State.landN_residents (upto n : Nat) : (s.landN upto n).residents = s.residents := by
  induction n generalizing s with
  | zero => rfl
  | succ n ih =>
    unfold State.landN
    split
    next r _ => rw [ih, State.merge_residents]
    next => rfl
@[simp] theorem State.land_residents (upto : Nat) : (s.land upto).residents = s.residents := State.landN_residents ..
@[simp] theorem State.publish_residents (kind seq sync launch : Nat) (held : Bool) :
    (s.publish x line kind seq sync launch held).2.residents = s.residents := by
  unfold State.publish
  dsimp only [State.fresh]
  repeat' split
  all_goals rfl
@[simp] theorem State.publishNow_residents (kind : Nat) : (s.publishNow x line kind).residents = s.residents := by
  simp [State.publishNow]
@[simp] theorem State.writeBack_residents : (s.writeBack x line).residents = s.residents := by
  unfold State.writeBack
  repeat' split
  all_goals simp
@[simp] theorem State.reclass_residents (cls : Nat) : (s.reclass x line cls).residents = s.residents := by
  simp [State.reclass, apply_ite State.residents]
@[simp] theorem State.carryHurt_residents : (s.carryHurt x line).residents = s.residents := by
  simp [State.carryHurt, apply_ite State.residents]
@[simp] theorem State.ensureCopy_residents (cls : Nat) : (s.ensureCopy x line cls).2.residents = s.residents := by
  unfold State.ensureCopy
  split
  · simp [apply_ite State.residents]
  · simp
@[simp] theorem State.loadAt_residents (cls pa n : Nat) (h : Hint) : (s.loadAt x cls pa n h).2.2.residents = s.residents := by
  unfold State.loadAt
  dsimp only
  split <;> simp
@[simp] theorem State.countPage_residents (w : Who) (p : Spot) : (s.countPage w p).residents = s.residents := by
  simp [State.countPage, apply_ite State.residents]
@[simp] theorem State.homePut_residents (pa : Nat) (bs : List Byte) : (s.homePut pa bs).residents = s.residents :=
  (State.residents_mapCores (s.homeWr pa bs) (fun _ => by split <;> rfl) fun _ => by split <;> rfl).trans (State.homeWr_residents s pa bs)
@[simp] theorem State.orPte_residents (a m : Nat) : (s.orPte a m).residents = s.residents := State.homePut_residents ..
@[simp] theorem State.setTlb_residents (w : Who) (l : List TlbEntry) : (s.setTlb w l).residents = s.residents := by
  unfold State.setTlb
  split
  · exact State.residents_updCore s (by split <;> rfl)
  · rfl
@[simp] theorem State.xlate_residents (w : Who) (va : Nat) (k : AccKind) : (s.xlate w va k).1.residents = s.residents := by
  unfold State.xlate
  dsimp only
  repeat' split
  all_goals simp
@[simp] theorem State.check1_residents (w : Who) (k : AccKind) (align size va : Nat) (det : Nat → Bool) :
    (s.check1 w k align size va det).1.residents = s.residents := by
  have hx := State.xlate_residents s w va k
  unfold State.check1
  split
  · rfl
  split
  · rfl
  split
  next heq => rwa [heq] at hx
  next heq =>
    rw [heq] at hx
    dsimp only
    repeat' split
    all_goals exact hx
@[simp] theorem State.checkLanes_residents (w : Who) (k : AccKind) (align size : Nat) (l : List (Nat × Nat)) (det : List Nat → Nat → Bool) :
    (s.checkLanes w k align size l det).1.residents = s.residents := by
  unfold State.checkLanes
  dsimp only
  generalize hF : l.foldl _ _ = F
  have hs : F.1.residents = s.residents := by
    rw [← hF]
    exact foldl_keeps (fun a : State × List (Nat × Nat × Except (Nat × Bool) (TlbEntry × Nat)) => a.1.residents)
      (fun _ _ => State.check1_residents ..) l _
  split <;> exact hs
end
@[simp] theorem State.codeLine_residents (s : State) (c ctx line : Nat) (late : Bool) :
    (s.codeLine c ctx line late).1.residents = s.residents := by
  have hk := State.checkLanes_residents s { die := dieOf c, core := some c, ctx } .fetch 1 1 [(0, (sext57 line).toNat)] noDet
  unfold State.codeLine
  dsimp only
  split
  next t p heq =>
    rw [heq] at hk
    generalize hF : (List.range 16).foldl _ _ = F
    have hl : F.2.2.residents = t.residents := by
      rw [← hF]
      exact foldl_keeps (fun a : List W64 × Bool × State => a.2.2.residents) (fun _ _ => State.loadAt_residents ..) _ _
    repeat' split
    all_goals simp [hk, hl]
  next heq => rwa [heq] at hk
  next heq => rwa [heq] at hk
@[simp] theorem State.fetch_residents (s : State) (c quad ctx pc : Nat) : (s.fetch c quad ctx pc).1.residents = s.residents := by
  have hk := State.checkLanes_residents s { die := dieOf c, core := some c, ctx } .fetch 1 1 [(0, (sext57 pc).toNat)] noDet
  unfold State.fetch State.fetchAs
  dsimp only
  split
  next heq => rwa [heq] at hk
  next t ps heq =>
    rw [heq] at hk
    have cached {u : State} (hu : u.residents = s.residents) {f : Core → Core} (hf : ∀ k, (f k).slots = k.slots) :
        (u.updCore c f).residents = s.residents := (State.residents_updCore u (hf _)).trans hu
    split
    · exact hk
    split
    · exact cached hk fun _ => rfl
    split
    · exact cached hk fun _ => rfl
    have hl := State.codeLine_residents t c ctx (pc - pc % 128) true
    split
    next heq => rw [heq] at hl; exact hl.trans hk
    next heq => rw [heq] at hl; exact cached (hl.trans hk) fun _ => rfl
  next heq => rwa [heq] at hk

end Sys2Proof.Machine
end

section
/-! The record of a trap (R356, R358). -/
namespace Sys2Proof.Machine

section
variable (s : State) (x line key : Nat)

@[simp] theorem State.updCtx_residents (f : Ctx → Ctx) : (s.updCtx x f).residents = s.residents := rfl
@[simp] theorem State.updPcore_residents (f : PCore → PCore) : (s.updPcore x f).residents = s.residents := rfl
@[simp] theorem State.putOff_residents (l : Later) : (s.putOff l).residents = s.residents := rfl
@[simp] theorem State.fresh_residents : s.fresh.2.residents = s.residents := rfl
@[simp] theorem State.sendMsi_residents (ctx source : Nat) : (s.sendMsi ctx source).residents = s.residents := by
  unfold State.sendMsi
  dsimp only
  split <;> rfl
@[simp] theorem State.dirtyPte_residents (w : Who) (e : TlbEntry) : (s.dirtyPte w e).residents = s.residents := by
  simp [State.dirtyPte, apply_ite State.residents]
@[simp] theorem State.dirtied_residents (w : Who) (k : AccKind) (ps : List Spot) : (s.dirtied w k ps).residents = s.residents := by
  unfold State.dirtied
  split
  · exact foldl_keeps State.residents (fun t (p : Spot) => State.dirtyPte_residents t w p.tr) ps s
  · rfl
@[simp] theorem State.checkDev_residents (w : Who) (k : AccKind) (align size : Nat) (l : List (Nat × Nat)) :
    (s.checkDev w k align size l).1.residents = s.residents := by
  have hk := State.checkLanes_residents s w k align size l noDet
  unfold State.checkDev
  split
  next heq => rw [heq] at hk; simpa using hk
  next => exact hk

/-! Releases (R200 to R206). -/

@[simp] theorem State.updEntry_residents (f : DirEntry → DirEntry) : (s.updEntry key f).residents = s.residents := by
  unfold State.updEntry
  split <;> rfl
@[simp] theorem State.goFirst_residents (launch : Nat) (keys : List Nat) (own : Bool) : (s.goFirst x launch keys own).residents = s.residents := by
  simp [State.goFirst]
@[simp] theorem State.place_residents : (s.place key).2.residents = s.residents := by
  unfold State.place
  dsimp only
  split
  · simp
  · rw [State.updDie_residents]
    split
    · rfl
    · split <;> simp
@[simp] theorem State.snapshot_residents (kind seq sync launch : Nat) (held : Bool) :
    (s.snapshot x kind seq sync launch held).2.residents = s.residents := by
  unfold State.snapshot
  exact foldl_keeps (fun a : List Nat × State => a.2.residents) (fun _ _ => State.publish_residents ..) _ _
@[simp] theorem State.nextSeq_residents : (s.nextSeq key).2.residents = s.residents := State.updEntry_residents ..
@[simp] theorem State.logRel_residents (seq : Nat) (lines : List Nat) : (s.logRel key seq lines).residents = s.residents :=
  State.updEntry_residents ..
@[simp] theorem State.relDone_residents (seq : Nat) : (s.relDone key seq).residents = s.residents := State.updEntry_residents ..
@[simp] theorem State.release_residents (launch : Nat) (keys : List Nat) (isLazy own : Bool) :
    (s.release x launch keys isLazy own).2.2.residents = s.residents := by
  unfold State.release
  dsimp only
  generalize hP : keys.foldl _ _ = P
  have placed : P.2.residents = s.residents := by
    rw [← hP]
    rw [foldl_keeps (fun a : Bool × State => a.2.residents) fun a k => ?_]
    · simp
    · simp
  split
  next => exact placed
  next k ks =>
    dsimp only
    generalize hR : ks.foldl _ _ = R
    have logged : R.2.residents = P.2.residents := by
      rw [← hR]
      refine (foldl_keeps (fun a : List (Nat × Nat) × State => a.2.residents) (fun a k => ?_) _ _).trans ?_
      · simp
      · simp
    exact logged.trans placed
@[simp] theorem State.releaseNow_residents (launch : Nat) (keys : List Nat) (own : Bool) :
    (s.releaseNow x launch keys own).residents = s.residents := by
  unfold State.releaseNow
  dsimp only
  rw [foldl_keeps State.residents fun t (p : Nat × Nat) => State.relDone_residents t p.1 p.2]
  simp

/-! Stores by no team, which cost no team its rollback (R197, R373). -/

@[simp] theorem State.healL2_residents (pa n : Nat) : (s.healL2 x pa n).residents = s.residents := by
  simp [State.healL2, apply_ite State.residents]
@[simp] theorem State.l1Write_residents (cls : Nat) (core : Option Nat) : (s.l1Write x cls line core).residents = s.residents := by
  simp [State.l1Write, apply_ite State.residents]
@[simp] theorem State.homeStore_residents (pa : Nat) (bs : List Byte) : (s.homeStore x pa bs).residents = s.residents := by
  simp [State.homeStore]
@[simp] theorem State.early_residents : (s.early x line).residents = s.residents := by
  unfold State.early
  split
  · split <;> simp
  · rfl
@[simp] theorem State.relieve_residents (but : Option Nat) (n : Nat) : (s.relieve x but n).residents = s.residents := by
  induction n generalizing s with
  | zero => rfl
  | succ n ih =>
    unfold State.relieve
    split
    · rfl
    · split
      · rfl
      · rw [ih, State.early_residents]
@[simp] theorem State.pressure_residents (but : Option Nat) : (s.pressure x but).residents = s.residents := by
  simp [State.pressure, apply_ite State.residents]
@[simp] theorem State.newTwin_c_residents (t : Nat) : (s.newTwin x line t .c).residents = s.residents := by
  unfold State.newTwin
  dsimp only
  rw [if_neg (by simp)]
  simp
@[simp] theorem State.twin_c_residents (t : Nat) : (s.twin x line t .c).residents = s.residents := by
  unfold State.twin
  split
  · split <;> simp_all
  · simp
@[simp] theorem State.storeAt_c_residents (cls pa : Nat) (bs : List Byte) (h : Hint) (t : Nat) :
    (s.storeAt x cls pa bs h t .c).2.residents = s.residents := by
  unfold State.storeAt
  dsimp only
  split
  · simp
  · split
    · simp
    · simp [apply_ite State.residents]
theorem State.store_device_residents (die ctx : Nat) (p : Spot) (bs : List Byte) (h : Hint) :
    (s.store (deviceOn die ctx) p bs h).residents = s.residents := by
  have stored : (s.store (deviceOn die ctx) p bs h) =
      let r := (s.l1Write die p.cls (lineOf p.pa) none).storeAt die p.cls p.pa bs h 0 .c
      if r.1 then r.2.countPage (deviceOn die ctx) p else r.2 := by
    simp [State.store, deviceOn, State.mute, State.rerunOf, State.writer, State.noteLine, State.noteStore, State.twinCls, State.descOf, Desc.det]
  rw [stored]
  simp [apply_ite State.residents]
theorem State.sysWrite_device_residents {t : State} (die ctx launch va : Nat) (bs : List Byte) (own : Bool)
    (h : s.sysWrite (deviceOn die ctx) launch va bs own = some t) : t.residents = s.residents := by
  unfold State.sysWrite at h
  dsimp only at h
  split at h
  next u ps heq =>
    have hk := State.checkDev_residents s (deviceOn die ctx) .store 8 8 ((List.range (bs.length / 8)).map fun i => (i, (va + 8 * i) % 2 ^ 64))
    rw [heq] at hk
    obtain rfl := Option.some.inj h
    rw [foldl_keeps State.residents]
    · exact (State.releaseNow_residents ..).trans hk
    · intro v p
      split
      · exact State.store_device_residents ..
      · exact State.homeStore_residents ..
  next => nomatch h
@[simp] theorem State.writeRecord_residents (die ctx launch : Nat) (bs : List Byte) :
    (s.writeRecord (deviceOn die ctx) launch bs).residents = s.residents := by
  unfold State.writeRecord
  dsimp only
  split
  · simp
  · split
    next heq => simpa using State.sysWrite_device_residents s _ _ _ _ _ _ heq
    next => simp
@[simp] theorem State.record_residents (c k : Nat) (ti : TrapInfo) (flags capid : Nat) :
    (s.record c k ti flags capid).residents = s.residents := by
  simp [State.record, State.postRecord, apply_ite State.residents]
end

end Sys2Proof.Machine
end

section
/-! Traps of some threads while others go on (R61, R137, R370): what is recorded, and what is left of the group. -/
namespace Sys2Proof.Machine

theorem mem_aset_self {α : Type} (l : List (Nat × α)) (n : Nat) (v : α) : (n, v) ∈ aset l n v := by
  induction l with
  | nil => exact List.mem_singleton_self _
  | cons p r ih =>
    obtain ⟨k, w⟩ := p
    simp only [aset]
    split
    · exact List.mem_cons_self ..
    · split
      · exact List.mem_cons_self ..
      · exact List.mem_cons_of_mem _ ih
/-- An entry stands, or is the one that the new one replaces. -/
theorem mem_aset_of_mem {α : Type} {l : List (Nat × α)} (n : Nat) (v : α) {p : Nat × α} (h : p ∈ l) :
    p ∈ aset l n v ∨ p.1 = n ∧ aget l n = some p.2 := by
  induction l with
  | nil => nomatch h
  | cons q r ih =>
    obtain ⟨k, w⟩ := q
    simp only [aset, aget]
    split
    · exact .inl (List.mem_cons_of_mem _ h)
    · split
      next hk =>
        obtain rfl | hr := List.mem_cons.mp h
        · exact .inr ⟨hk.symm, by rw [if_pos hk.symm]⟩
        · exact .inl (List.mem_cons_of_mem _ hr)
      next hk =>
        rw [if_neg (Ne.symm hk)]
        obtain rfl | hr := List.mem_cons.mp h
        · exact .inl (List.mem_cons_self ..)
        · exact (ih hr).imp_left (List.mem_cons_of_mem _)

/-! The traps that stop a queue (R370). -/

theorem State.doomsWith_of_launches {s t : State} (h : t.launches = s.launches) (l : Nat) : t.doomsWith l = s.doomsWith l := by
  rw [State.doomsWith, State.doomsWith, State.launchRec, State.launchRec, h]
/-- Whether a launch's traps stop the queue that launch l is of, or l itself where that came from another package. -/
def State.stopsWith (s : State) (l : Nat) (x : Nat × Launch) : Bool :=
  if (s.launchRec l).foreign.isSome then x.1 == l else x.2.foreign.isNone && x.2.queue == (s.launchRec l).queue
theorem State.mem_doomsWith {s : State} {l n : Nat} {d : Doom} :
    (n, d) ∈ s.doomsWith l ↔ ∃ r, (n, r) ∈ s.launches ∧ s.stopsWith l (n, r) = true ∧ d ∈ r.dooms := by
  constructor
  · intro h
    obtain ⟨⟨m, r⟩, hx, hd⟩ := List.mem_flatMap.mp h
    obtain ⟨hmem, hsame⟩ := List.mem_filter.mp hx
    obtain ⟨e, he, hed⟩ := List.mem_map.mp hd
    obtain ⟨rfl, rfl⟩ := Prod.mk.inj hed
    exact ⟨r, hmem, hsame, he⟩
  · rintro ⟨r, hmem, hsame, hd⟩
    exact List.mem_flatMap.mpr ⟨(n, r), List.mem_filter.mpr ⟨hmem, hsame⟩, List.mem_map.mpr ⟨d, hd, rfl⟩⟩

/-- A launch with more traps noted. -/
def State.addDooms (s : State) (l : Nat) (new : List Doom) : State := s.updLaunch l fun r => { r with dooms := r.dooms ++ new }

section
variable (s : State) (l : Nat) (new : List Doom)

theorem State.stopsWith_addDooms (x : Nat × Launch) : (s.addDooms l new).stopsWith l x = s.stopsWith l x := by
  rw [State.stopsWith, State.stopsWith, State.addDooms, State.launchRec_updLaunch]
theorem State.stopsWith_self : s.stopsWith l (l, s.launchRec l) = true := by
  unfold State.stopsWith
  split <;> simp_all
theorem State.mem_doomsWith_addDooms {d : Doom} (h : d ∈ (s.launchRec l).dooms ++ new) : (l, d) ∈ (s.addDooms l new).doomsWith l := by
  refine State.mem_doomsWith.mpr ⟨_, mem_aset_self .., ?_, h⟩
  rw [State.stopsWith_addDooms]
  exact State.stopsWith_self s l
/-- Traps noted before stand. -/
theorem State.doomsWith_sub_addDooms {p : Nat × Doom} (h : p ∈ s.doomsWith l) : p ∈ (s.addDooms l new).doomsWith l := by
  obtain ⟨n, d⟩ := p
  obtain ⟨r, hmem, hsame, hd⟩ := State.mem_doomsWith.mp h
  obtain hkept | ⟨rfl, hr⟩ := mem_aset_of_mem l _ hmem
  · exact State.mem_doomsWith.mpr ⟨r, hkept, by rwa [State.stopsWith_addDooms], hd⟩
  · refine State.mem_doomsWith_addDooms s n new (List.mem_append_left _ ?_)
    rwa [State.launchRec, hr]
end

/-! A trap ends the pre-emption of its team (R375). -/

/-- The issue, each team's launch, and the groups but for their part in a save. -/
def State.besidesSaves (s : State) : Cur × (Nat → Nat) × (Nat → Nat → Option Group) :=
  (s.cur, fun n => (s.team n).launch, fun c k => (s.group? c k).map fun g => { g with saved := false, saveRec := none })

theorem State.besidesSaves_updGroup (s : State) (c k : Nat) :
    (s.updGroup c k fun g => { g with saved := false, saveRec := none }).besidesSaves = s.besidesSaves := by
  have groups (d j : Nat) : ((s.updGroup c k fun g => { g with saved := false, saveRec := none }).group? d j).map
      (fun g => { g with saved := false, saveRec := none }) = (s.group? d j).map fun g => { g with saved := false, saveRec := none } := by
    by_cases hc : d = c
    · subst hc
      by_cases hk : j = k
      · subst hk
        rw [State.group?_updGroup, Option.map_map]
        rfl
      · rw [State.group?_updGroup_slot _ _ _ _ _ hk]
    · rw [State.group?_updGroup_core _ _ _ _ _ _ hc]
  unfold State.besidesSaves
  simp only [groups, State.team, State.updGroup_cur, State.updGroup_teams]
theorem State.besidesSaves_endPreempt (s : State) (n : Nat) : (s.endPreempt n).besidesSaves = s.besidesSaves := by
  unfold State.endPreempt
  split
  · rfl
  · rw [foldl_keeps State.besidesSaves fun t (x : Nat × Nat × Group) => State.besidesSaves_updGroup t x.1 x.2.1]
    have launch (m : Nat) : ((s.updTeam n fun m => { m with preempt := none }).team m).launch = (s.team m).launch := by
      by_cases hm : m = n
      · subst hm; rw [State.team_updTeam]
      · rw [State.team, State.updTeam, aget_aset_ne _ _ _ _ hm, State.team]
    exact congrArg (fun f => (s.cur, f, _)) (funext launch)

section
variable {s t : State} (h : t.besidesSaves = s.besidesSaves)
include h

theorem State.cur_of_besidesSaves : t.cur = s.cur := congrArg (·.1) h
theorem State.launch_of_besidesSaves (n : Nat) : (t.team n).launch = (s.team n).launch := congrFun (congrArg (·.2.1) h) n
theorem State.live_of_besidesSaves (c k : Nat) : (t.group? c k).isSome = (s.group? c k).isSome := by
  have := congrArg Option.isSome (congrFun (congrFun (congrArg (·.2.2) h) c) k)
  simpa [State.besidesSaves] using this
theorem State.group_of_besidesSaves (c k : Nat) :
    t.group c k = { s.group c k with saved := (t.group c k).saved, saveRec := (t.group c k).saveRec } := by
  have hmap : (t.group? c k).map _ = (s.group? c k).map _ := congrFun (congrFun (congrArg (·.2.2) h) c) k
  unfold State.group
  cases ht : t.group? c k with
  | none =>
    rw [ht] at hmap
    rw [Option.map_eq_none_iff.mp hmap.symm]
  | some g =>
    rw [ht] at hmap
    obtain ⟨g', hg', he⟩ := Option.map_eq_some_iff.mp hmap.symm
    rw [hg']
    exact congrArg (fun x : Group => { x with saved := g.saved, saveRec := g.saveRec }) he.symm
end

/-! What such a trap leaves. -/

theorem State.giveCap_residents (s : State) (ds : List (Nat × Doom)) (c k : Nat) : (s.giveCap ds c k).2.residents = s.residents := by
  unfold State.giveCap
  split
  · rfl
  · split <;> rfl
theorem State.recordDoom_residents (s : State) (ds : List (Nat × Doom)) (c k : Nat) (ti : TrapInfo) :
    (s.recordDoom ds c k ti).2.residents = s.residents :=
  (State.record_residents ..).trans (State.giveCap_residents s ds c k)
/-- A doom of the group in a slot. -/
def Doom.isOf (d : Doom) (c k : Nat) (g : Group) : Prop := d.core = c ∧ d.slot = k ∧ d.alloc = g.alloc
/-- A group whose trap is recorded is among those that stop the queue: it was, or it is now the one more (R370). -/
theorem State.recordDoom_cases (s : State) (ds : List (Nat × Doom)) (c k : Nat) (ti : TrapInfo) :
    (∃ d ∈ ds, d.2.isOf c k (s.group c k)) ∨ ∃ l d, (s.recordDoom ds c k ti).1 = ds ++ [(l, d)] ∧ d.isOf c k (s.group c k) := by
  unfold State.recordDoom
  dsimp only
  split
  next h =>
    obtain ⟨d, hd, he⟩ := List.any_eq_true.mp h
    exact .inl ⟨d, hd, by simpa [Doom.isOf, and_assoc] using he⟩
  next => exact .inr ⟨_, _, rfl, rfl, rfl, rfl⟩

/-- A recorded trap of a group in a slot, whose teardown comes later (R370). -/
theorem State.dooms_spec (s : State) (c k : Nat) (ti : TrapInfo) :
    (s.dooms c k ti).cur = s.cur ∧ (∀ d j, (s.dooms c k ti).group? d j = s.group? d j)
    ∧ ∃ d ∈ (s.dooms c k ti).doomsWith (s.team (s.group c k).team).launch, d.2.isOf c k (s.group c k) := by
  generalize hl : (s.team (s.group c k).team).launch = l
  generalize hr : s.recordDoom (s.doomsWith l) c k ti = r
  have he : s.dooms c k ti = r.2.addDooms l ((r.1.drop (s.doomsWith l).length).map (·.2)) := by
    rw [← hr, ← hl]; rfl
  have hres : r.2.residents = s.residents := hr ▸ State.recordDoom_residents ..
  rw [he]
  refine ⟨(State.cur_of_residents hres : r.2.cur = _), (State.group?_of_residents hres : ∀ d j, r.2.group? d j = _), ?_⟩
  obtain ⟨d, hd, hof⟩ | ⟨n, d, hnew, hof⟩ := State.recordDoom_cases s (s.doomsWith l) c k ti
  · refine ⟨d, State.doomsWith_sub_addDooms _ _ _ ?_, hof⟩
    rwa [State.doomsWith_of_residents hres]
  · refine ⟨(l, d), State.mem_doomsWith_addDooms _ _ _ (List.mem_append_right _ ?_), hof⟩
    rw [← hr, hnew, List.drop_left]
    exact List.mem_singleton_self d

/-- A trap of some lanes of a group: they run no more, nothing else of its threads has changed, and the trap is noted (R61, R370). -/
theorem State.partTrap_spec {s : State} {c k : Nat} (hlive : (s.group? c k).isSome = true) (ti : TrapInfo) :
    (s.partTrap c k ti).cur = s.cur ∧ ((s.partTrap c k ti).group? c k).isSome = true
    ∧ (∀ l, l < 32 → ((s.partTrap c k ti).group c k).thread l =
        if ti.lanes.getLsbD l then { (s.group c k).thread l with wait := .trapped } else (s.group c k).thread l)
    ∧ ∃ d ∈ (s.partTrap c k ti).doomsWith (s.team (s.group c k).team).launch, d.2.isOf c k (s.group c k) := by
  have hend := State.besidesSaves_endPreempt s (s.group c k).team
  obtain ⟨hcur, hgroups, d, hd, hof⟩ := State.dooms_spec (s.endPreempt (s.group c k).team) c k ti
  have hg := State.group_of_besidesSaves hend c k
  have hg? : (s.partTrap c k ti).group? c k =
      ((s.endPreempt (s.group c k).team).group? c k).map fun g => g.updThreads ti.lanes fun t => { t with wait := .trapped } := by
    rw [State.partTrap, State.group?_updGroup, hgroups]
  refine ⟨?_, ?_, fun l hl => ?_, d, ?_, ?_⟩
  · rw [State.partTrap, State.updGroup_cur, hcur, State.cur_of_besidesSaves hend]
  · rw [hg?, Option.isSome_map, State.live_of_besidesSaves hend, hlive]
  · obtain ⟨g, hgg⟩ := Option.isSome_iff_exists.mp ((State.live_of_besidesSaves hend c k).trans hlive)
    have hgroup : (s.endPreempt (s.group c k).team).group c k = g := by rw [State.group, hgg]; rfl
    rw [State.group, hg?, hgg, Option.map_some, Option.getD_some, Group.thread_updThreads _ _ _ hl, ← hgroup, hg]
    rfl
  · rw [State.partTrap, State.doomsWith_of_launches (State.updGroup_launches ..)]
    rwa [hg, State.launch_of_besidesSaves hend] at hd
  · rw [Doom.isOf, hg] at hof
    exact hof

end Sys2Proof.Machine
end

section
/-! Transfers of control (R61, R137 to R140, R368): threads that go to their targets, and threads whose target fails. -/
namespace Sys2Proof.Machine

/-- A transfer whose threads of m go (R137): their link is written, the word is over, they stand at their targets. -/
def State.gone (s : State) (i : Instr) (m rets : W32) (tgt : Nat → W64) (link : W32 → State → State) : State :=
  ((link m s).finish i).updG fun g => g.goTo m rets tgt (s.cur.last + 3)
/-- The threads whose target fails (R61). -/
def State.failing (s : State) (act : W32) (tgt : Nat → W64) (ret : Bool) (bad : List W64) : W32 :=
  maskOf fun l => act.getLsbD l && !(s.returns act tgt ret).getLsbD l && bad.contains (tgt l)
/-- The state whose threads of m have trapped BADTARGET, where the others go on with the word (R61). -/
def State.failed (u : State) (m : W32) (va : Nat) : State :=
  { u.partTrap u.cur.core u.cur.slot (u.trapOf 4 m va u.cur.word.toNat 0) with cur := { u.cur with mask := u.cur.mask &&& ~~~m } }

section
variable {s u : State} {i : Instr} {act : W32} {tgt : Nat → W64} {ret late : Bool} {link : W32 → State → State} {bad : List W64}

/-- Every answer of a transfer: delayed, gone, trapped, or gone but for threads that trap. -/
theorem State.transfer_eq (h : s.checkTargets (s.targets act tgt ret) = (u, bad, late)) : s.transfer i act tgt ret link =
    let m := s.failing act tgt ret bad
    if late then u.stalled
    else if m == 0 then u.gone i act (s.returns act tgt ret) tgt link
    else if !u.goesOn u.cur.core u.cur.slot m then u.trapW 4 m (tgt (firstLane m)).toNat u.cur.word.toNat 0
    else (u.failed m (tgt (firstLane m)).toNat).gone i (act &&& ~~~m) (s.returns act tgt ret) tgt link := by
  unfold State.transfer
  dsimp only
  rw [h]
  rfl
theorem State.transfer_late (h : s.checkTargets (s.targets act tgt ret) = (u, bad, true)) : s.transfer i act tgt ret link = u.stalled := by
  rw [State.transfer_eq h]
  rfl
theorem State.transfer_good (h : s.checkTargets (s.targets act tgt ret) = (u, [], false)) :
    s.transfer i act tgt ret link = u.gone i act (s.returns act tgt ret) tgt link := by
  have none_fails : s.failing act tgt ret [] = 0 := maskOf_eq_zero fun l _ => by simp
  rw [State.transfer_eq h, none_fails]
  rfl

/-! Targets and their checks. -/

theorem State.returns_bit {l : Nat} (hl : l < 32) :
    (s.returns act tgt ret).getLsbD l = (act.getLsbD l && ret && (s.g.thread l).isReturn (tgt l)) := maskOf_bit _ l hl
theorem State.returns_false : s.returns act tgt false = 0 := maskOf_eq_zero fun l _ => by simp
theorem mem_lanesOf {m : W32} {l : Nat} : l ∈ lanesOf m ↔ l < 32 ∧ m.getLsbD l = true := by
  simp [lanesOf, allLanes]
theorem exists_lane_of_ne_zero {m : W32} (h : m ≠ 0) : ∃ l, l < 32 ∧ m.getLsbD l = true := by
  refine Classical.byContradiction fun hno => h (BitVec.eq_of_getLsbD_eq fun l hl => ?_)
  have out : m.getLsbD l = false := Bool.eq_false_iff.mpr fun hb => hno ⟨l, hl, hb⟩
  exact out.trans BitVec.getLsbD_zero.symm
/-- One target for all active lanes is checked once. -/
theorem State.targets_const (ha : act ≠ 0) (v : W64) : s.targets act (fun _ => v) false = [v] := by
  obtain ⟨l, hl, hb⟩ := exists_lane_of_ne_zero ha
  have hmem : l ∈ lanesOf (act &&& ~~~0) := mem_lanesOf.mpr ⟨hl, by rw [BitVec.getLsbD_and, BitVec.getLsbD_not]; simp [hb, hl]⟩
  obtain ⟨n, hn⟩ := Nat.exists_eq_add_one_of_ne_zero (Nat.ne_of_gt (List.length_pos_of_mem hmem))
  rw [State.targets, State.returns_false, List.map_const', hn]
  simp [List.replicate_succ, List.eraseDups_cons]
theorem State.goodTarget_residents (v : W64) : (s.goodTarget v).1.residents = s.residents := by
  have hf := State.fetch_residents s s.cur.core s.g.quad s.tm.ctx (v.toNat % 2 ^ 57)
  unfold State.goodTarget
  split
  · rfl
  · split
    all_goals
      next heq => rwa [heq] at hf
theorem State.checkTargets_residents (l : List W64) : (s.checkTargets l).1.residents = s.residents := by
  unfold State.checkTargets
  exact foldl_keeps (fun a : State × List W64 × Bool => a.1.residents) (fun _ _ => State.goodTarget_residents _) l _
theorem State.residents_of_checkTargets {l : List W64} (h : s.checkTargets l = (u, bad, late)) : u.residents = s.residents := by
  have hl := State.checkTargets_residents (s := s) l
  rwa [h] at hl
/-- Only a target that was checked fails. -/
theorem State.mem_of_mem_checkTargets {l : List W64} {v : W64} (h : v ∈ (s.checkTargets l).2.1) : v ∈ l := by
  have fold (l : List W64) (a : State × List W64 × Bool) (f : State × List W64 × Bool → W64 → State × List W64 × Bool)
      (hf : ∀ a w, (f a w).2.1 = a.2.1 ∨ (f a w).2.1 = w :: a.2.1) (hv : v ∈ (l.foldl f a).2.1) : v ∈ l ∨ v ∈ a.2.1 := by
    induction l generalizing a with
    | nil => exact .inr hv
    | cons w r ih =>
      obtain hr | hw := ih (f a w) hv
      · exact .inl (List.mem_cons_of_mem _ hr)
      · obtain e | e := hf a w
        · exact .inr (e ▸ hw)
        · obtain rfl | hw := List.mem_cons.mp (e ▸ hw)
          · exact .inl (List.mem_cons_self ..)
          · exact .inr hw
  refine (fold l _ _ (fun a w => ?_) h).resolve_right (List.not_mem_nil)
  dsimp only
  split
  · exact .inr rfl
  · exact .inl rfl
theorem State.goodTarget_outside (v : W64) (h : canonical v.toNat = false ∨ v.toNat % 8 ≠ 0) : s.goodTarget v = (s, some false) :=
  if_pos (by simpa using h)
theorem State.goodTarget_fetched {v w : W64} (hc : canonical v.toNat = true) (h8 : v.toNat % 8 = 0)
    (hf : s.fetch s.cur.core s.g.quad s.tm.ctx (v.toNat % 2 ^ 57) = (u, .ok w)) : s.goodTarget v = (u, some (isHeader w).isSome) := by
  unfold State.goodTarget
  rw [if_neg (by simp [hc, h8]), hf]
/-- Where a target fails, some thread's does. -/
theorem State.failing_ne_zero (h : s.checkTargets (s.targets act tgt ret) = (u, bad, late)) (hbad : bad ≠ []) :
    s.failing act tgt ret bad ≠ 0 := by
  obtain ⟨v, hv⟩ := List.exists_mem_of_ne_nil bad hbad
  have hmem : v ∈ s.targets act tgt ret := State.mem_of_mem_checkTargets (by rw [h]; exact hv)
  obtain ⟨l, hlane, rfl⟩ := List.mem_map.mp (List.mem_eraseDups.mp hmem)
  obtain ⟨hl, hb⟩ := mem_lanesOf.mp hlane
  intro h0
  have bit : (s.failing act tgt ret bad).getLsbD l = _ := maskOf_bit _ l hl
  rw [BitVec.getLsbD_and, BitVec.getLsbD_not, decide_eq_true hl, Bool.true_and] at hb
  rw [hb, List.contains_iff_mem.mpr hv, h0] at bit
  simp at bit
end

/-! The threads that go (R137, R139, R368). -/

/-- A thread at its target, or back from the handler (R137, R368). -/
def Thread.goes (t : Thread) (back : Bool) (tgt : W64) (clk : Nat) : Thread :=
  if back then t.resumeAt clk else { t with pc := tgt.toNat % 2 ^ 57, left := 0, wait := .redir clk }
theorem Thread.goes_past (t : Thread) (back : Bool) (tgt : W64) (clk : Nat) : t.past.goes back tgt clk = t.goes back tgt clk := by
  cases back <;> rfl
theorem Group.thread_goTo {g : Group} {m rets : W32} {tgt : Nat → W64} {clk l : Nat} (h : l < g.threads.length) :
    (g.goTo m rets tgt clk).thread l = if m.getLsbD l then (g.thread l).goes (rets.getLsbD l) (tgt l) clk else g.thread l := by
  simp only [Group.thread, Group.goTo, List.getD_eq_getElem?_getD, List.getElem?_mapIdx, List.getElem?_eq_getElem h, Option.map_some,
    Option.getD_some]
  cases m.getLsbD l <;> rfl
theorem Group.steered_goTo {g : Group} {m rets : W32} {tgt : Nat → W64} {clk : Nat} : g.Steered (g.goTo m rets tgt clk) := rfl

/-- What a word's link does: results for registers of vs set on their way, and no more. -/
def PushesOnly (vs : List Nat) (link : W32 → State → State) : Prop :=
  ∀ m s, ∃ ws, link m s = s.pushAll ws ∧ ∀ w ∈ ws, w.outside (fun r _ => r ∉ vs) (fun r => r ∉ []) fun p _ => p ∉ []
theorem pushesOnly_none : PushesOnly [] fun _ => id := fun _ s => ⟨[], rfl, fun _ h => by simp at h⟩
theorem State.wv64_pair (s : State) (r : Nat) {m : W32} (hm : m ≠ 0) (x : W64) :
    ∃ v0 v1 d, s.wv64 (.v r) m (fun _ => x) true .c = s.pushAll [.vec r m v0 d, .vec (r + 1) m v1 d]
      ∧ (∀ l, l < 32 → v0.lane l = x.setWidth 32) ∧ ∀ l, l < 32 → v1.lane l = x.extractLsb' 32 32 := by
  refine ⟨_, _, _, (congrArg (fun u => State.wv u (.v (r + 1)) m _ _ .c) (wv_nonzero s r m _ _ .c hm)).trans (wv_pushAll _ _ _ _ _ _ _ hm),
    fun l hl => ?_, fun l hl => ?_⟩
  · exact shape_lane m _ _ (fun y hy _ _ => by obtain rfl := Option.some.inj hy; rfl) l hl
  · exact shape_lane m _ _ (fun y hy _ _ => by obtain rfl := Option.some.inj hy; rfl) l hl
theorem pushesOnly_link (d : Opnd) (x : W64) : PushesOnly d.pair fun m t => t.wv64 d m (fun _ => x) true .c := by
  intro m s
  cases d with
  | v r =>
    by_cases hm : m = 0
    · refine ⟨[], ?_, fun _ h => by simp at h⟩
      simp only [State.wv64, wv_eq, if_pos hm]
      rfl
    · obtain ⟨v0, v1, d, he, -⟩ := s.wv64_pair r hm x
      exact ⟨_, he, by simp [Wb.outside, Opnd.pair]⟩
  | _ => exact ⟨[], rfl, fun _ h => by simp at h⟩

/-! The frame of threads that go. -/

/-- A word that writes registers and goes on, as one that steers threads (R60). -/
theorem Frame.steers_past {i : Instr} {s t : State} {vs ss : List Nat} (h : Frame i s t vs ss []) :
    Steers i s s t vs ss (fun l t => if s.cur.mask.getLsbD l then t.past else t) s.g.join := by
  refine ⟨rfl, h.only, by rw [h.group], fun l hl => ?_, fun n _ => by rw [h.group]; rfl, h.vecs, h.scalars,
    fun p l hp => h.preds p l hp (by simp)⟩
  rw [h.group]
  exact Group.thread_updThreads s.g s.cur.mask Thread.past hl
theorem Frame.length_threads {i : Instr} {s t : State} {vs ss ps : List Nat} (h : Frame i s t vs ss ps) : t.g.threads.length = 32 := by
  rw [h.group]
  simp [Group.updThreads, allLanes]
theorem State.live_pushAll (s : State) (ws : List Wb) :
    ((s.pushAll ws).group? (s.pushAll ws).cur.core (s.pushAll ws).cur.slot).isSome = (s.group? s.cur.core s.cur.slot).isSome := by
  cases ws with
  | nil => rfl
  | cons w r => exact State.live_updG ..

section
variable {s u : State} {i : Instr} {tb : OpTab} {m rets : W32} {tgt : Nat → W64} {link : W32 → State → State} {vs ss : List Nat}
  {f f' : Nat → Thread → Thread} {js : Nat → W32}

theorem Steers.congr {t : State} (h : Steers i s u t vs ss f js) (hf : ∀ l, l < 32 → f l (s.g.thread l) = f' l (s.g.thread l)) :
    Steers i s u t vs ss f' js := { h with threads := fun l hl => (h.threads l hl).trans (hf l hl) }
/-- What a word leaves, from a state whose group is the same. -/
theorem Steers.from_same {t : State} (hg : u.g = s.g) (h : Steers i u u t vs ss f js) : Steers i s u t vs ss f js := by
  refine ⟨hg, h.only, by rw [h.group, hg], fun l hl => by rw [h.threads l hl, hg], h.joins, fun r l hl hr hk => ?_,
    fun r hr => ?_, fun p l hp => ?_⟩
  · rw [h.vecs r l hl hr hk, State.endV, hg, State.endV]
  · rw [h.scalars r hr, State.endS, hg, State.endS]
  · rw [h.preds p l hp, State.endP, hg, State.endP]

theorem steers_gone (hi : i.tab = some tb) (hI : Issuing u) (hlink : PushesOnly vs link) :
    Steers i u u (u.gone i m rets tgt link) vs []
      (u.thenAt m fun l t => t.goes (rets.getLsbD l) (tgt l) (u.cur.last + 3)) u.g.join := by
  obtain ⟨ws, hws, hout⟩ := hlink m u
  have word : Frame i u ((link m u).finish i) vs [] [] := hws ▸ frame_of_push i tb hi u hI ws vs [] [] hout
  have hlive : (((link m u).finish i).group? ((link m u).finish i).cur.core ((link m u).finish i).cur.slot).isSome = true := by
    rw [State.live_finish, hws, State.live_pushAll]
    exact hI.1
  refine word.steers_past.updG _ hlive rfl (fun l hl => ?_) word.steers_past.joins
  rw [Group.thread_goTo (by rw [word.length_threads]; exact hl), word.steers_past.threads l hl, State.thenAt]
  split
  next => split <;> simp only [Thread.goes_past]
  next => rfl

/-! The link of a call (R139). -/

theorem Group.final_push_ne (g : Group) {r q l : Nat} (m : W32) (v : Shaped) (d : Nat) (hl : l < 32) (hq : q ≠ r) :
    ((g.push (.vec r m v d)).final.reg q).lane l = (g.final.reg q).lane l :=
  ((Group.final_push (P := fun k _ => k ≠ r) (S := fun _ => True) (Q := fun _ _ => True) g (.vec r m v d) fun _ _ _ hp => hp rfl).vec
    q l hl hq).symm
theorem Group.final_push_same (g : Group) {r l : Nat} (m : W32) (v : Shaped) (d : Nat) (hl : l < 32) (hh : g.held.any (·.1 == r) = false) :
    ((g.push (.vec r m v d)).final.reg r).lane l = if m.getLsbD l then v.lane l else (g.final.reg r).lane l := by
  split
  next hm => exact Group.final_push_vec _ _ _ _ _ _ hl hh hm
  next hm =>
    exact ((Group.final_push (P := fun _ k => ¬ m.getLsbD k = true) (S := fun _ => True) (Q := fun _ _ => True) g (.vec r m v d)
      fun _ _ hk hp => hp hk).vec r l hl hm).symm
/-- Two registers written by one word (R53). -/
theorem ends_pair (hi : i.tab = some tb) (hI : Issuing s) {r d : Nat} {v0 v1 : Shaped} (h0 : r ∈ tb.vwrites) (h1 : r + 1 ∈ tb.vwrites) :
    EndsV s ((s.pushAll [.vec r m v0 d, .vec (r + 1) m v1 d]).finish i) r m v0.lane
    ∧ EndsV s ((s.pushAll [.vec r m v0 d, .vec (r + 1) m v1 d]).finish i) (r + 1) m v1.lane := by
  have ends := (ends_of_push i tb hi s hI [.vec r m v0 d, .vec (r + 1) m v1 d]).1
  constructor <;> intro hh l hl
  · rw [ends r l hl (.inl h0), List.foldl_cons, List.foldl_cons, List.foldl_nil, Group.final_push_ne _ _ _ _ hl (Nat.ne_of_lt r.lt_succ_self),
      Group.final_push_same _ _ _ _ hl hh]
    rfl
  · rw [ends (r + 1) l hl (.inl h1), List.foldl_cons, List.foldl_cons, List.foldl_nil, Group.final_push_same (s.g.push _) _ _ _ hl hh,
      Group.final_push_ne _ _ _ _ hl (Nat.succ_ne_self r)]
    rfl
theorem EndsV.from_same {t : State} {r : Nat} {g : Nat → W32} (hg : u.g = s.g) (h : EndsV u t r m g) : EndsV s t r m g := by
  unfold EndsV State.unheld State.endV at *
  rwa [hg] at h
theorem State.endV_gone (hlive : (u.group? u.cur.core u.cur.slot).isSome = true) (hlink : PushesOnly vs link) (r l : Nat) :
    (u.gone i m rets tgt link).endV r l = ((link m u).finish i).endV r l := by
  obtain ⟨ws, hws, -⟩ := hlink m u
  have hlive : (((link m u).finish i).group? ((link m u).finish i).cur.core ((link m u).finish i).cur.slot).isSome = true := by
    rw [State.live_finish, hws, State.live_pushAll]
    exact hlive
  rw [State.gone, State.endV, State.endV, State.g_updG _ _ hlive]
  exact congrArg (·.lane l) (Group.steered_goTo.ends.1 r)
theorem ends_link (hi : i.tab = some tb) (hI : Issuing u) (hg : u.g = s.g) (hm : m ≠ 0) {r : Nat} {x : W64}
    (hw : tb.vwrites = Opnd.pair (.v r)) :
    EndsV s (u.gone i m rets tgt fun m t => t.wv64 (.v r) m (fun _ => x) true .c) r m (fun _ => x.setWidth 32)
    ∧ EndsV s (u.gone i m rets tgt fun m t => t.wv64 (.v r) m (fun _ => x) true .c) (r + 1) m fun _ => x.extractLsb' 32 32 := by
  obtain ⟨v0, v1, d, he, hv0, hv1⟩ := u.wv64_pair r hm x
  obtain ⟨e0, e1⟩ := ends_pair hi hI (m := m) (d := d) (v0 := v0) (v1 := v1) (show r ∈ tb.vwrites by simp [hw, Opnd.pair])
    (show r + 1 ∈ tb.vwrites by simp [hw, Opnd.pair])
  have gone (q l : Nat) := State.endV_gone (i := i) (m := m) (rets := rets) (tgt := tgt) hI.1 (pushesOnly_link (.v r) x) q l
  constructor
  · refine EndsV.from_same hg fun hh l hl => ?_
    rw [gone, he, e0 hh l hl, hv0 l hl]
  · refine EndsV.from_same hg fun hh l hl => ?_
    rw [gone, he, e1 hh l hl, hv1 l hl]
end

/-! Transfers whose targets are good. -/

section
variable {s u : State} {i : Instr} {tb : OpTab} {act : W32} {tgt : Nat → W64} {ret : Bool} {link : W32 → State → State} {vs : List Nat}

/-- What a transfer leaves of its group where every target is good (R137, R368). -/
theorem steers_transfer (hi : i.tab = some tb) (hI : Issuing s) (hlink : PushesOnly vs link)
    (h : s.checkTargets (s.targets act tgt ret) = (u, [], false)) : Steers i s u (s.transfer i act tgt ret link) vs []
      (s.thenAt act fun l t => t.goes (ret && (s.g.thread l).isReturn (tgt l)) (tgt l) (s.cur.last + 3)) s.g.join := by
  have hres := State.residents_of_checkTargets h
  have hg := State.g_of_residents hres
  rw [State.transfer_good h]
  have gone := (steers_gone (m := act) (rets := s.returns act tgt ret) (tgt := tgt) hi (hI.of_residents hres) hlink).from_same hg
  rw [hg] at gone
  refine gone.congr fun l hl => ?_
  rw [State.thenAt, State.thenAt, State.cur_of_residents hres]
  by_cases ha : act.getLsbD l = true
  · simp [ha, State.returns_bit hl]
  · simp [ha]
/-- The link of a call whose targets are good. -/
theorem ends_transfer (hi : i.tab = some tb) (hI : Issuing s) (ha : act ≠ 0) {r : Nat} {x : W64} (hw : tb.vwrites = Opnd.pair (.v r))
    (h : s.checkTargets (s.targets act tgt ret) = (u, [], false)) :
    let t := s.transfer i act tgt ret fun m t => t.wv64 (.v r) m (fun _ => x) true .c
    EndsV s t r act (fun _ => x.setWidth 32) ∧ EndsV s t (r + 1) act fun _ => x.extractLsb' 32 32 := by
  have hres := State.residents_of_checkTargets h
  rw [State.transfer_good h]
  exact ends_link hi (hI.of_residents hres) (State.g_of_residents hres) ha hw

end

/-! Transfers of which a target fails (R61, R137, R355). -/

section
variable {s u : State} {i : Instr} {tb : OpTab} {act : W32} {tgt : Nat → W64} {ret : Bool} {link : W32 → State → State} {vs : List Nat}
  {bad : List W64}

/-- Where no other thread is left to go on, the word traps (R61). -/
theorem State.transfer_traps (h : s.checkTargets (s.targets act tgt ret) = (u, bad, false)) (hbad : bad ≠ [])
    (hgo : u.goesOn u.cur.core u.cur.slot (s.failing act tgt ret bad) = false) : s.transfer i act tgt ret link =
      u.trapW 4 (s.failing act tgt ret bad) (tgt (firstLane (s.failing act tgt ret bad))).toNat u.cur.word.toNat 0 := by
  rw [State.transfer_eq h]
  dsimp only
  rw [if_neg Bool.false_ne_true, if_neg (by simpa using State.failing_ne_zero h hbad), if_pos (by simp [hgo])]
/-- Where others are, they go on from the state in which the failing ones have trapped (R61). -/
theorem State.transfer_parts (h : s.checkTargets (s.targets act tgt ret) = (u, bad, false)) (hbad : bad ≠ [])
    (hgo : u.goesOn u.cur.core u.cur.slot (s.failing act tgt ret bad) = true) : s.transfer i act tgt ret link =
      (u.failed (s.failing act tgt ret bad) (tgt (firstLane (s.failing act tgt ret bad))).toNat).gone i (act &&& ~~~s.failing act tgt ret bad)
        (s.returns act tgt ret) tgt link := by
  rw [State.transfer_eq h]
  dsimp only
  rw [if_neg Bool.false_ne_true, if_neg (by simpa using State.failing_ne_zero h hbad), if_neg (by simp [hgo])]

/-- The state in which some threads have trapped and the others go on. -/
theorem State.failed_spec (hI : Issuing u) (m : W32) (va : Nat) : Issuing (u.failed m va)
    ∧ (u.failed m va).cur = { u.cur with mask := u.cur.mask &&& ~~~m }
    ∧ (∀ l, l < 32 → (u.failed m va).g.thread l = if m.getLsbD l then { u.g.thread l with wait := .trapped } else u.g.thread l)
    ∧ ∃ d ∈ (u.failed m va).doomsWith u.tm.launch, d.2.isOf u.cur.core u.cur.slot u.g := by
  obtain ⟨-, hlive, hthread, hdoom⟩ := State.partTrap_spec hI.1 (u.trapOf 4 m va u.cur.word.toNat 0)
  exact ⟨⟨hlive, hI.2⟩, rfl, hthread, hdoom⟩

/-- What becomes of the threads and of the launch of a transfer whose threads of m trap (R61, R370). -/
structure FailsInPart (s t : State) (act m rets : W32) (tgt : Nat → W64) : Prop where
  doom : ∃ d ∈ t.doomsWith s.tm.launch, d.2.core = s.cur.core ∧ d.2.slot = s.cur.slot ∧ d.2.alloc = s.g.alloc
  threads : ∀ l, l < 32 → t.g.thread l =
    let h := s.g.thread l
    if m.getLsbD l then { h with wait := .trapped }
    else if !act.getLsbD l then (if s.cur.mask.getLsbD l then h.past else h)
    else if rets.getLsbD l then
      { h with pc := h.resume, seta := h.rseta, setb := h.rsetb, left := h.rleft, level := false, wait := .redir (s.cur.last + 3) }
    else { h with pc := (tgt l).toNat % 2 ^ 57, left := 0, wait := .redir (s.cur.last + 3) }

theorem failsInPart_gone (hi : i.tab = some tb) (hI : Issuing u) (hlink : PushesOnly vs link) (m rets : W32) (va : Nat) :
    FailsInPart u ((u.failed m va).gone i (act &&& ~~~m) rets tgt link) act m rets tgt := by
  obtain ⟨hIf, hcur, hthread, d, hd, hof⟩ := State.failed_spec hI m va
  have gone := steers_gone (m := act &&& ~~~m) (rets := rets) (tgt := tgt) hi hIf hlink
  refine ⟨⟨d, ?_, hof⟩, fun l hl => ?_⟩
  · rwa [State.doomsWith_of_launches (show _ = (u.failed m va).launches by rw [gone.only.rest])]
  · have rest (x : W32) : (x &&& ~~~m).getLsbD l = (x.getLsbD l && !m.getLsbD l) := by
      rw [BitVec.getLsbD_and, BitVec.getLsbD_not, decide_eq_true hl, Bool.true_and]
    rw [gone.threads l hl, hthread l hl, State.thenAt, hcur, rest, rest]
    by_cases hm : m.getLsbD l = true
    · simp [hm]
    · by_cases ha : act.getLsbD l = true
      · simp only [hm, ha, Bool.not_false, Bool.and_true, if_true, Bool.not_true, Bool.false_eq_true, if_false, Thread.goes]
        rfl
      · simp [hm, ha]

/-- The same of the state the word issued in, whose group and issue the fetches of its targets leave. -/
theorem FailsInPart.from_same {t : State} {m rets : W32} (hres : u.residents = s.residents) (h : FailsInPart u t act m rets tgt) :
    FailsInPart s t act m rets tgt := by
  have hcur := State.cur_of_residents hres
  have hg := State.g_of_residents hres
  obtain ⟨hd, hthreads⟩ := h
  rw [State.tm_of_residents hres, hcur, hg] at hd
  rw [hcur, hg] at hthreads
  exact ⟨hd, hthreads⟩

/-- BADTARGET of some threads, where others go on (R61, R137, R355). -/
theorem failsInPart_transfer (hi : i.tab = some tb) (hlink : PushesOnly vs link) (hI : Issuing s)
    (h : s.checkTargets (s.targets act tgt ret) = (u, bad, false)) (hbad : bad ≠ [])
    (hgo : u.goesOn u.cur.core u.cur.slot (s.failing act tgt ret bad) = true) :
    FailsInPart s (s.transfer i act tgt ret link) act (s.failing act tgt ret bad) (s.returns act tgt ret) tgt := by
  have hres := State.residents_of_checkTargets h
  rw [State.transfer_parts h hbad hgo]
  exact (failsInPart_gone hi (hI.of_residents hres) hlink _ _ _).from_same hres
end

/-! The statement. -/

/-- The address that a call links, as the statement writes it (R139). -/
theorem State.linkOf_eq (s : State) : s.linkOf = (BitVec.ofNat 57 (s.cur.pc + 8)).signExtend 64 :=
  congrArg (BitVec.signExtend 64) (BitVec.eq_of_toNat_eq (by simp [pcMod]))
theorem State.relTarget_eq (s : State) (imm : BitVec 26) :
    s.relTarget imm = (BitVec.ofNat 57 s.cur.pc + imm.signExtend 57 * 8).signExtend 64 := by
  rw [State.relTarget, sext57, BitVec.ofNat_toNat, BitVec.setWidth_eq]

/-- Settles O16: where every target is good, the threads go (`steers_transfer`) and a call's link is written (`ends_transfer`); where one
fails, all trap (`State.transfer_traps`) or its threads alone (`failsInPart_transfer`); while a fetch is delayed nothing issues
(`State.transfer_late`). -/
theorem transfersOfControl : Obligations.TransfersOfControl := by
  refine ⟨?good, fun _ v => State.goodTarget_outside v, fun _ _ _ _ => State.goodTarget_fetched, ?failing⟩
  case good =>
    intro s c hI ha go link rel
    have relative {imm : BitVec 26} {u : State} (h : s.checkTargets [rel imm] = (u, [], false)) :
        s.checkTargets (s.targets (s.active c) (fun _ => s.relTarget imm) false) = (u, [], false) := by
      rwa [State.targets_const ha, State.relTarget_eq]
    have links {i : Instr} {tb : OpTab} (hi : i.tab = some tb) {tgt : Nat → W64} {r : Nat} (hw : tb.vwrites = Opnd.pair (.v r)) {u : State}
        (h : s.checkTargets (s.targets (s.active c) tgt false) = (u, [], false)) :
        let t := s.transfer i (s.active c) tgt false fun m t => t.wv64 (.v r) m (fun _ => s.linkOf) true .c
        Steers i s u t [r, r + 1] [] (go tgt) s.g.join
          ∧ EndsV s t r (s.active c) (fun _ => link.setWidth 32) ∧ EndsV s t (r + 1) (s.active c) fun _ => link.extractLsb' 32 32 := by
      rw [show link = s.linkOf from s.linkOf_eq.symm]
      exact ⟨steers_transfer hi hI (pushesOnly_link (.v r) s.linkOf) h, ends_transfer hi hI ha hw h⟩
    refine ⟨fun imm u h => ⟨_, rfl, ?bra⟩, fun a u _ h => ⟨_, rfl, steers_transfer rfl hI pushesOnly_none h⟩,
      fun r imm u _ h => ⟨_, rfl, ?call⟩, fun r a u _ h => ⟨_, rfl, links rfl rfl h⟩,
      fun a u _ h => ⟨_, rfl, steers_transfer rfl hI pushesOnly_none h⟩⟩
    case bra =>
      rw [show rel imm = s.relTarget imm from (s.relTarget_eq imm).symm]
      exact steers_transfer rfl hI pushesOnly_none (relative h)
    case call =>
      rw [show rel imm = s.relTarget imm from (s.relTarget_eq imm).symm]
      exact links rfl rfl (relative h)
  case failing =>
    intro s c fails
    have failed {i : Instr} {tb : OpTab} (hi : i.tab = some tb) {tgt : Nat → W64} {ret : Bool} {link : W32 → State → State} {vs : List Nat}
        (hlink : PushesOnly vs link) {u : State} {bad : List W64} (h : s.checkTargets (s.targets (s.active c) tgt ret) = (u, bad, false))
        (hbad : bad ≠ []) : fails u bad tgt ret (.next (s.transfer i (s.active c) tgt ret link)) := by
      refine ⟨fun hgo => congrArg _ (State.transfer_traps h hbad hgo), fun hI hgo => ⟨_, rfl, ?_⟩⟩
      obtain ⟨hdoom, hthreads⟩ := failsInPart_transfer hi hlink hI h hbad hgo
      exact ⟨hdoom, hthreads⟩
    have delayed {i : Instr} {tgt : Nat → W64} {ret : Bool} {link : W32 → State → State} {u : State} {bad : List W64}
        (h : s.checkTargets (s.targets (s.active c) tgt ret) = (u, bad, true)) :
        (.next (s.transfer i (s.active c) tgt ret link) : Out) = .next u.stalled := congrArg _ (State.transfer_late h)
    exact ⟨fun imm u bad h hbad => ⟨failed rfl pushesOnly_none h hbad, fun d => failed rfl (pushesOnly_link d s.linkOf) h hbad⟩,
      fun a u bad h hbad => ⟨failed rfl pushesOnly_none h hbad, fun d => failed rfl (pushesOnly_link d s.linkOf) h hbad⟩,
      fun a u bad h hbad => failed rfl pushesOnly_none h hbad, fun imm u bad h => ⟨delayed h, fun d => delayed h⟩,
      fun a u bad h => ⟨delayed h, fun d => delayed h⟩, fun a u bad h => delayed h⟩

end Sys2Proof.Machine
end

section
/-! Floating point (R154 to R161): what a word leaves that computes each lane by itself, and how a NaN goes through (R98). -/
namespace Sys2Proof.Machine

/-! Words that write one vector register, lane by lane (R75, R153). -/

/-- A word whose destination is one vector register or 448 writes what it names (R51). -/
theorem vwrites_of_dst {i : Instr} {d : Opnd} (hd : i.tab.map OpTab.d = some (some (.v, d))) : i.tab.map OpTab.vwrites = some d.vec := by
  obtain ⟨tb, hi, hd⟩ := Option.map_eq_some_iff.mp hd
  cases d <;> simp [hi, OpTab.vwrites, hd, DstKind.regs, Opnd.vec]

section
variable {i : Instr} {s : State} {c : Ctl} {d a b e : Opnd} {lat : Lat} {f : Nat → W32}

/-- A word that writes f, the same in every lane where its sources are U (R75). -/
theorem laneResult_vec {srcs : List Opnd} (hd : i.tab.map OpTab.d = some (some (.v, d)))
    (hu : srcs.all s.isU = true → ∀ l, f l = f 0) (he : exec i s = (s.vec c d srcs lat f).done i) : LaneResult i s d (s.active c) f :=
  fun hI _ => puts_vec_u hI (vwrites_of_dst hd) hu he
theorem laneResult_fl1 {g : W32 → W32} (hd : i.tab.map OpTab.d = some (some (.v, d))) (he : exec i s = (s.fl1 c d a lat g).done i)
    (hf : ∀ l, g (s.rd a l) = f l) : LaneResult i s d (s.active c) f := by
  obtain rfl : (fun l => g (s.rd a l)) = f := funext hf
  refine laneResult_vec (lat := lat) hd (fun hu l => ?_) he
  have ha : s.isU a = true := by simpa using hu
  rw [rd_of_isU s a ha l]
theorem laneResult_fl2 {g : W32 → W32 → W32} (hd : i.tab.map OpTab.d = some (some (.v, d))) (he : exec i s = (s.fl2 c d a b g).done i)
    (hf : ∀ l, g (s.rd a l) (s.rd b l) = f l) : LaneResult i s d (s.active c) f := by
  obtain rfl : (fun l => g (s.rd a l) (s.rd b l)) = f := funext hf
  refine laneResult_vec (lat := .f) hd (fun hu l => ?_) he
  obtain ⟨ha, hb⟩ : s.isU a = true ∧ s.isU b = true := by simpa using hu
  rw [rd_of_isU s a ha l, rd_of_isU s b hb l]
theorem laneResult_fl3 {g : W32 → W32 → W32 → W32} (hd : i.tab.map OpTab.d = some (some (.v, d)))
    (he : exec i s = (s.fl3 c d a b e g).done i) (hf : ∀ l, g (s.rd a l) (s.rd b l) (s.rd e l) = f l) :
    LaneResult i s d (s.active c) f := by
  obtain rfl : (fun l => g (s.rd a l) (s.rd b l) (s.rd e l)) = f := funext hf
  refine laneResult_vec (lat := .f) hd (fun hu l => ?_) he
  obtain ⟨ha, hb, he⟩ : s.isU a = true ∧ s.isU b = true ∧ s.isU e = true := by simpa using hu
  rw [rd_of_isU s a ha l, rd_of_isU s b hb l, rd_of_isU s e he l]

end

/-- An immediate is 2^15 times its 17 bits (R154). -/
theorem toNat_immF (imm : BitVec 17) : (immF imm).toNat = imm.toNat * 32768 :=
  (BitVec.toNat_append imm 0#15).trans (by simp [Nat.shiftLeft_eq])

/-! NaNs (R98, R157). -/

theorem rnd_nan (rm : Rm) : rnd .nan .f32 rm = 0x7FC00000 := rfl
theorem sumVals_of_nan_mem {l : List Val} (rm : Rm) (h : .nan ∈ l) : sumVals rm l = .nan := by
  have has : l.contains .nan = true := List.contains_iff_mem.mpr h
  simp only [sumVals, has, Bool.true_or, if_true]

section
variable {f : Fmt} {x y : Nat}

/-- A minimum of one number and one NaN is the number's bits (R157). -/
theorem fminCode_of_one_nan (hx : val x f = .nan) (hy : val y f ≠ .nan) : fminCode f x y = y ∧ fminCode f y x = y := by
  unfold fminCode
  cases h : val y f with
  | nan => exact absurd h hy
  | inf | fin => simp [hx]
theorem fmaxCode_of_one_nan (hx : val x f = .nan) (hy : val y f ≠ .nan) : fmaxCode f x y = y ∧ fmaxCode f y x = y := by
  unfold fmaxCode
  cases h : val y f with
  | nan => exact absurd h hy
  | inf | fin => simp [hx]
theorem fminCode_of_nans (hx : val x f = .nan) (hy : val y f = .nan) : fminCode f x y = (nanCode f).getD 0 := by
  simp [fminCode, hx, hy]
theorem fmaxCode_of_nans (hx : val x f = .nan) (hy : val y f = .nan) : fmaxCode f x y = (nanCode f).getD 0 := by
  simp [fmaxCode, hx, hy]

end

/-- Settles O10: each word computes lane by lane (`laneResult_fl1`, `laneResult_fl2`, `laneResult_fl3`), and a NaN goes through a sum
(`sumVals_of_nan_mem`) and a product, but not through a minimum with a number (`fminCode_of_one_nan`). -/
theorem floatResults : Obligations.FloatResults := by
  refine ⟨?lanes, ?nan, fun rm => ?infinities, ?oneNan, ?nans⟩
  case lanes =>
    intro s fm x im
    refine ⟨fun c d a b rm f => laneResult_fl2 rfl rfl fun _ => rfl, fun c d a imm rm f => laneResult_fl1 rfl rfl fun l => ?sum,
      fun c d a b rm f => laneResult_fl2 rfl rfl fun _ => rfl, fun c d a b rm f => laneResult_fl2 rfl rfl fun _ => rfl,
      fun c d a imm rm f => laneResult_fl1 rfl rfl fun l => ?product, fun c d a b e rm f np nc => laneResult_fl3 rfl rfl fun _ => rfl,
      fun c d a b => laneResult_fl2 rfl rfl fun _ => rfl, fun c d a b => laneResult_fl2 rfl rfl fun _ => rfl,
      fun c d a => laneResult_fl1 rfl rfl fun l => congrArg (classMask .f32) (Nat.mod_eq_of_lt (s.rd a l).isLt),
      fun c d a => laneResult_fl1 rfl rfl fun _ => rfl, fun c d a => laneResult_fl1 rfl rfl fun _ => rfl,
      fun c d a rm => laneResult_fl1 rfl rfl fun _ => rfl, fun c d a b rm => laneResult_fl2 rfl rfl fun _ => rfl,
      fun c d a rm => laneResult_fl1 rfl rfl fun _ => rfl, fun c d a => laneResult_fl1 rfl rfl fun _ => rfl,
      fun c d a rm => laneResult_fl1 rfl rfl fun _ => rfl, fun c d a => laneResult_fl1 rfl rfl fun _ => rfl,
      fun c d a => laneResult_fl1 rfl rfl fun _ => rfl, fun c d a => laneResult_fl1 rfl rfl fun _ => rfl,
      fun c d a => laneResult_fl1 rfl rfl fun _ => rfl, fun c d a => laneResult_fl1 rfl rfl fun _ => rfl⟩
    case sum => rw [faddCode, toNat_immF]; rfl
    case product => rw [fmulCode, toNat_immF]; rfl
  case nan =>
    intro x y z hx rm
    have ofSum {l : List Val} (h : .nan ∈ l) : rnd (sumVals rm l) .f32 rm = 0x7FC00000 := by rw [sumVals_of_nan_mem rm h, rnd_nan]
    refine ⟨ofSum (by simp [hx]), ofSum (by simp [hx]), ofSum (by simp [hx]), ?product, ofSum (by simp [hx])⟩
    rw [fmulCode, hx]
    exact rnd_nan rm
  case infinities => exact ⟨rnd_nan rm, rnd_nan rm⟩
  case oneNan =>
    intro x y hx hy
    obtain ⟨hmin, hmin'⟩ := fminCode_of_one_nan hx hy
    obtain ⟨hmax, hmax'⟩ := fmaxCode_of_one_nan hx hy
    simp [fmin32, fmax32, hmin, hmin', hmax, hmax']
  case nans =>
    intro x y hx hy
    exact ⟨congrArg (BitVec.ofNat 32) (fminCode_of_nans hx hy), congrArg (BitVec.ofNat 32) (fmaxCode_of_nans hx hy)⟩

end Sys2Proof.Machine
end

section
/-! Packed elements (R162, R165 to R168): two halves of a register, each computed by itself, and dot products. -/
namespace Sys2Proof.Machine

theorem toNat_highElem (v : W32) : ((fld v (16 * 1) 16).setWidth 32).toNat = v.toNat / 65536 := by
  have := v.isLt
  simp [fld, Nat.shiftRight_eq_div_pow]
  omega
theorem toNat_lowElem (v : W32) : ((fld v (16 * 0) 16).setWidth 32).toNat = v.toNat % 65536 := by
  simp [fld]
  omega

/-- A packed operation on codes, element by element (R162). -/
theorem packed2_codes (g : Nat → Nat → W32) (x y : W32) : packed2 (fun u v => g u.toNat v.toNat) x y =
    (g (x.toNat / 65536) (y.toNat / 65536)).setWidth 16 ++ (g (x.toNat % 65536) (y.toNat % 65536)).setWidth 16 := by
  simp only [packed2, toNat_highElem, toNat_lowElem]
theorem packed3_codes (g : Nat → Nat → Nat → W32) (x y z : W32) : packed3 (fun u v w => g u.toNat v.toNat w.toNat) x y z =
    (g (x.toNat / 65536) (y.toNat / 65536) (z.toNat / 65536)).setWidth 16
      ++ (g (x.toNat % 65536) (y.toNat % 65536) (z.toNat % 65536)).setWidth 16 := by
  simp only [packed3, toNat_highElem, toNat_lowElem]
/-- The same of an operation that answers a code (R157, R162). -/
theorem packed2_ofNat (g : Nat → Nat → Nat) (x y : W32) : packed2 (fun u v => BitVec.ofNat 32 (g u.toNat v.toNat)) x y =
    BitVec.ofNat 16 (g (x.toNat / 65536) (y.toNat / 65536)) ++ BitVec.ofNat 16 (g (x.toNat % 65536) (y.toNat % 65536)) := by
  rw [packed2_codes fun u v => BitVec.ofNat 32 (g u v), BitVec.setWidth_ofNat_of_le (by decide), BitVec.setWidth_ofNat_of_le (by decide)]

/-- Settles O11: the packed operations go element by element (`packed2_codes`, `packed3_codes`); the others are what the model's UNPACK
and dot product make of a lane's sources. -/
theorem packedResults : Obligations.PackedResults := by
  intro s h lo hi two
  have elements (f : Bool) (g : Val → Val → W32) (a b : Opnd) (l : Nat) :
      packed2 (fun u v => g (val u.toNat (h f)) (val v.toNat (h f))) (s.rd a l) (s.rd b l) = two f g a b l :=
    packed2_codes (fun u v => g (val u (h f)) (val v (h f))) _ _
  refine ⟨fun c d a b rm f => laneResult_fl2 rfl rfl (elements f (fun x y => rnd (sumVals rm [x, y]) (h f) rm) a b),
    fun c d a b rm f => laneResult_fl2 rfl rfl (elements f (fun x y => rnd (sumVals rm [x, y.neg]) (h f) rm) a b),
    fun c d a b rm f => laneResult_fl2 rfl rfl (elements f (fun x y => rnd (x.mul y) (h f) rm) a b),
    fun c d a b e rm f => laneResult_fl3 rfl rfl fun l => ?fused,
    fun c d a b f => laneResult_fl2 rfl rfl fun l => packed2_ofNat (fminCode (h f)) (s.rd a l) (s.rd b l),
    fun c d a b f => laneResult_fl2 rfl rfl fun l => packed2_ofNat (fmaxCode (h f)) (s.rd a l) (s.rd b l),
    fun c d a b k f => laneResult_fl2 rfl rfl (elements f (fun x y => if cmpVal k x y then 0xFFFF else 0) a b),
    fun c d a b f => laneResult_fl2 rfl rfl fun _ => rfl, fun c d a b f => laneResult_fl2 rfl rfl fun _ => rfl,
    fun c d a b e fa fb rm => laneResult_fl3 rfl rfl fun _ => rfl, fun c d a b e fa fb rm => laneResult_fl3 rfl rfl fun _ => rfl,
    fun c d a b e fa fb rm => laneResult_fl3 rfl rfl fun _ => rfl, fun c d a b e fa fb rm => laneResult_fl3 rfl rfl fun _ => rfl⟩
  case fused =>
    exact packed3_codes (fun u v w => rnd (sumVals rm [(val u (h f)).mul (val v (h f)), val w (h f)]) (h f) rm)
      (s.rd a l) (s.rd b l) (s.rd e l)

end Sys2Proof.Machine
end
